-- ==== Sys2Proof/Word.lean ====
section
/-! DEFINITION. The word types of the model and their plainest arithmetic (R8, R9, R11).

Words that the manual treats as bit patterns seen by software (a register, a header's eight words) are `BitVec`;
addresses, counts and the codes that arithmetic works on are `Nat`. -/

namespace Sys2Proof

/-- One byte (R9). -/
abbrev Byte := BitVec 8
/-- A register, and one word of a header, descriptor or record (R10, R12). -/
abbrev U64 := BitVec 64
abbrev U32 := BitVec 32
/-- A unit address (R26). -/
abbrev U16 := BitVec 16

/-- A pier, 0 to 7 (R15). -/
abbrev PierId := Fin 8
/-- A quoin: 0 A, 1 B, 2 C, 3 D (R1). -/
abbrev QuoinId := Fin 4
/-- A Plumbline port: 0 port A on quoin A, 1 port C on quoin C (R16). -/
abbrev PortId := Fin 2
/-- A keystone id of 15 bits: pier at [14:12], local number at [11:0] (R55). -/
abbrev KeyId := Fin 32768

/-- Unsigned arithmetic modulo 2^64 (R11). -/
def wrap64 (n : Nat) : Nat := n % 0x1_0000_0000_0000_0000

/-- The 52-bit module address circle (R116, R367). -/
def wrap52 (n : Nat) : Nat := n % 0x10_0000_0000_0000

end Sys2Proof
end

