-- ==== Sys2Proof/Syntax.lean ====
section
/-! DEFINITION. The commands: one constructor of `Instr` per row of the spec's table of operations and events, with the
operands the numbered rules give that operation. -/

namespace Sys2Proof

/-- A macro-instruction header: eight 64-bit words at +0 to +56 (R42). -/
structure Header where
  w0 : U64
  w1 : U64
  w2 : U64
  w3 : U64
  w4 : U64
  w5 : U64
  w6 : U64
  w7 : U64
  deriving DecidableEq, Repr

/-- A stream queue: the unit that holds it (its address with every field below the level zero, R26, R27) and the stream
0 G, 1 F, 2 B, 3 U (R42). -/
structure QKey where
  unit : U16
  stream : Fin 4
  deriving DecidableEq, Repr

/-- A logical course of a pier: wall × 12 + course (R26, R547). -/
structure CourseId where
  pier : PierId
  course : Fin 48
  deriving DecidableEq, Repr

/-- A logical ashlar core (R26). -/
structure CoreId where
  pier : PierId
  course : Fin 48
  core : Fin 16
  deriving DecidableEq, Repr

/-- Who accesses a window: a host through a Plumbline port with its message tag (R452), one that has departed since (R465; no
command comes from it), a mason core of a pier (R371), or a Skovlaper through its own quoin (R502): false quoin B, true quoin D. -/
inductive Source where
  | host (port : PortId) (tag : U32)
  | gone (port : PortId)
  | mason (pier : PierId) (core : Fin 8)
  | skov (d : Bool)
  deriving DecidableEq, Repr

/-- Who sends a management command: a Plumbline port with a tag, or the SMBus controller (R463, R525, R527), at address 0x4A or, to
a Skovlaper in recovery beside an active one, at 0x4B (R523); of an SMBus transfer, whether its packet error check passes. -/
inductive Manager where
  | port (p : PortId) (tag : U32)
  | smbus (pec : Bool)
  | smbusRecovery (pec : Bool)
  deriving DecidableEq, Repr

/-- How a code word read came out (R384, R386). -/
inductive EccResult where
  | clean
  | corrected (symbol syndrome : Nat)
  | uncorrectable (syndrome : Nat)
  deriving DecidableEq, Repr

/-- Where a code word error was found (R485): in the bed cache line of an address; `dirty` tells a dirty line from a clean one; a check
line by its physical channel and device line (R383); a line that a CXL device returned as poison (R386); the SRAM of a Skovlaper
(R501): false quoin B, true quoin D. -/
inductive EccPlace where
  | bed (core : CoreId) (addr : Nat)
  | stationary (core : CoreId)
  | accumulator (core : CoreId) (q : QKey)
  | tableStore (core : CoreId)
  | mortar (pier : PierId) (addr : Nat)
  | masonL2 (pier : PierId) (core : Fin 8) (addr : Nat) (dirty : Bool)
  | gddr (pier : PierId) (addr : Nat)
  | keystone (key : KeyId) (copies : Fin 8)
  | checkLine (pier : PierId) (channel : Fin 7) (line : Nat)
  | cxlPoison (port : Fin 8) (addr : Nat)
  | skovSram (d : Bool)
  deriving DecidableEq, Repr

/-- A unit that can be sounded or replaced (R488, R490). -/
inductive SUnit where
  | core (c : CoreId)
  | course (c : CourseId)
  | mortarSet (pier : PierId) (bank : Fin 64) (set : Fin 4096)
  | gddrRegion (pier : PierId) (channel : Fin 7) (region : Nat)
  | gddrInterface (pier : PierId) (channel : Fin 7)
  | pierTrowel (pier : PierId) (channel : Fin 7)
  | chisel (pier : PierId) (wall : Fin 4)
  | keyBlock (pier : PierId)
  | laneGroup (link : Fin 48) (dir : Bool) (group : Fin 10)
  | mason (pier : PierId) (core : Fin 8)
  | quoinTrowel (quoin : QuoinId) (side : Fin 2)
  | moduleSequencer
  deriving DecidableEq, Repr

/-- How the test of a sounded unit ended (R488): passed; for a GDDR 7 region, hard errors held, in which of its 16,384
lines; or failed (for a region: an uncorrectable re-read; for a mortar set: in which of its ways). -/
inductive SoundTest where
  | passed
  | held (lines : List (Fin 16384))
  | failed
  | failedWay (way : Fin 16)
  deriving DecidableEq, Repr

/-- A clock domain that can be declared failed (R34, R437), or whose crossing is reset (R429, R430): a course or mason core by the
logical number that its physical unit bears, or the pier's idle spare. -/
inductive Domain where
  | course (c : CourseId)
  | mortar (pier : PierId)
  | mason (pier : PierId) (core : Fin 8)
  | spareCourse (pier : PierId)
  | spareMason (pier : PierId)
  | gddr (pier : PierId) (channel : Fin 7)
  | linkEnd (link : Fin 48) (dir : Bool)
  | cxl (port : Fin 8)
  | plumbline (port : PortId)
  | quoin (quoin : QuoinId)
  deriving DecidableEq, Repr

/-- A line repointing visits (R404). -/
inductive RepointUnit where
  | channel (pier : PierId) (phys : Fin 7)
  | mortarBank (pier : PierId) (bank : Fin 64)
  | bedBank (core : CoreId) (bank : Fin 16)
  deriving DecidableEq, Repr

/-- What a CXL partner shows on arrival, step by step (R389 to R391): presence stable; the lanes (x16, x8, x4) and rate (64, 32,
16 GT/s) at which it trains with CXL negotiation and 256-byte flits, if it does; attached directly; a Type 3 memory device with
one logical device, by its DVSEC; Memory_Active in time; its decoder programmed; and its capacity. -/
structure CxlDevice where
  stable : Bool
  trained : Option (Fin 3 × Fin 3)
  direct : Bool
  memory : Bool
  active : Bool
  programmed : Bool
  capacityMib : Nat
  deriving DecidableEq, Repr

/-- How the training state at which a Plumbline port stands ends (R443 to R446): whether both sides complete its action; the training
flits that have arrived, by physical lane; the physical lanes, by bit, that do not complete Equalise; and the preset that the port
asks of its partner. -/
structure TrainOutcome where
  done : Bool
  flits : List (List Byte)
  failedLanes : Fin 512
  preset : Fin 16
  deriving DecidableEq, Repr

/-- The atomic operations of main memory (R371): those of the A extension, which the RVA23 profile names. -/
inductive Atomic where
  | loadReserved
  | storeConditional
  | swap
  | add
  | xor
  | and
  | or
  | min
  | max
  | minu
  | maxu
  deriving DecidableEq, Repr

/-- A mason core's access (R32, R371). -/
inductive MasonOp where
  | load
  | store
  | fetch
  | atomic (op : Atomic)
  deriving DecidableEq, Repr

/-- The commands, in the table's order. -/
inductive Instr where
  /-- MMUL (R101). -/
  | mmul (q : QKey)
  /-- SPMM (R231). -/
  | spmm (q : QKey)
  /-- SPMMT (R231). -/
  | spmmt (q : QKey)
  /-- SDDMM (R237). -/
  | sddmm (q : QKey)
  /-- TCOPY (R161). -/
  | tcopy (q : QKey)
  /-- ROWNORM (R562). -/
  | rownorm (q : QKey)
  /-- ROWSOFTMAX (R561). -/
  | rowsoftmax (q : QKey)
  /-- ACT (R308). -/
  | act (q : QKey)
  /-- REDUCE (R210). -/
  | reduce (q : QKey)
  /-- TOPK (R214). -/
  | topk (q : QKey)
  /-- PACK (R248). -/
  | pack (q : QKey)
  /-- PRUNE (R268). -/
  | prune (q : QKey)
  /-- REGROW (R272). -/
  | regrow (q : QKey)
  /-- UPDATE (R339). -/
  | update (q : QKey)
  /-- DMASK (R319). -/
  | dmask (q : QKey)
  /-- CKPT (R362). -/
  | ckpt (q : QKey)
  /-- EXPORT (R358). -/
  | exportShards (q : QKey)
  /-- MOVE (R394). -/
  | move (q : QKey)
  /-- SIGNAL (R50). -/
  | signal (q : QKey)
  /-- WAIT (R56). -/
  | wait (q : QKey)
  /-- HEADER_DECODE (R63). -/
  | headerDecode (q : QKey)
  /-- HEADER_COMPLETE (R53). -/
  | headerComplete (q : QKey)
  /-- SUBMISSION_LINE_WRITE (R369). -/
  | submissionLineWrite (src : Source) (addr : Nat) (data : List Byte)
  /-- SUBMISSION_ENQUEUE (R369). -/
  | submissionEnqueue (q : QKey)
  /-- SUBMISSION_LINE_READ (R369). -/
  | submissionLineRead (src : Source) (addr : Nat) (len : Nat)
  /-- KEYSTONE_VALUE_WRITE (R410). -/
  | keystoneValueWrite (src : Source) (addr : Nat) (data : List Byte)
  /-- KEYSTONE_ADD_WRITE (R410). -/
  | keystoneAddWrite (src : Source) (addr : Nat) (data : List Byte)
  /-- KEYSTONE_TAS_READ (R410). -/
  | keystoneTasRead (src : Source) (addr : Nat) (len : Nat)
  /-- KEYSTONE_TAS_WRITE (R410). -/
  | keystoneTasWrite (src : Source) (addr : Nat) (data : List Byte)
  /-- KEYSTONE_UPDATE_CYCLE (R412). -/
  | keystoneUpdateCycle (key : KeyId)
  /-- KEYSTONE_DEFERRED_TAS (R412). -/
  | keystoneDeferredTas (key : KeyId)
  /-- STEP_ADVANCE (R416). -/
  | stepAdvance
  /-- SLOT_CHANGE (R294). -/
  | slotChange (p : PierId)
  /-- STATIONARY_TILE_LOADED (R87). -/
  | stationaryTileLoaded (c : CourseId) (stream : Fin 3)
  /-- CORBEL_STATE_ARRIVAL (R105). -/
  | corbelStateArrival (c : CourseId) (stream : Fin 3) (row : Nat)
  /-- CHISEL_JOB_START (R218). -/
  | chiselJobStart (p : PierId) (wall : Fin 4)
  /-- FINISH_PASS (R240). -/
  | finishPass (p : PierId) (q : QKey)
  /-- MASK_REWRITE (R276). -/
  | maskRewrite (p : PierId) (q : QKey)
  /-- LIST_SCAN_CLOSE (R233). -/
  | listScanClose (c : CourseId) (stream : Fin 3)
  /-- TABLE_STORE_AVAILABLE (R317). -/
  | tableStoreAvailable (q : QKey)
  /-- TABLE_STORE_LOAD (R305). -/
  | tableStoreLoad (c : CoreId)
  /-- APPLY_COMPLETE (R339). -/
  | applyComplete (p : PierId) (q : QKey)
  /-- DEFER_ENTRY_PLACE (R349). -/
  | deferEntryPlace (quoin : QuoinId)
  /-- DEFER_ENTRY_DRAIN (R350). -/
  | deferEntryDrain (quoin : QuoinId)
  /-- FINGERPRINT_RECHECK (R355). -/
  | fingerprintRecheck (p : PierId) (tensor : Nat) (entry : Nat)
  /-- CKPT_WRITE_DONE (R363). -/
  | ckptWriteDone (p : PierId)
  /-- CKPT_DRAIN_DONE (R365). -/
  | ckptDrainDone (p : PierId)
  /-- RUN_AHEAD_FETCH (R399). -/
  | runAheadFetch (c : CoreId) (addr : Nat) (codeError : Bool)
  /-- REPOINT_LINE (R404). -/
  | repointLine (u : RepointUnit) (addr : Nat) (res : EccResult)
  /-- GDDR7_RETRAIN (R403). -/
  | gddr7Retrain (p : PierId) (channel : Fin 7)
  /-- EVACUATION_COPY_DONE (R387). -/
  | evacuationCopyDone (p : PierId)
  /-- CXL_DEVICE_ARRIVAL (R391). -/
  | cxlDeviceArrival (port : Fin 8) (dev : CxlDevice)
  /-- CXL_ORDERLY_DEPARTURE (R392). -/
  | cxlOrderlyDeparture (port : Fin 8)
  /-- CXL_SURPRISE_DEPARTURE (R392). -/
  | cxlSurpriseDeparture (port : Fin 8)
  /-- COURSE_SLEEP (R432). -/
  | courseSleep (c : CourseId)
  /-- COURSE_WAKE (R434). -/
  | courseWake (c : CourseId)
  /-- PIER_SLEEP (R433). -/
  | pierSleep (p : PierId)
  /-- PIER_WAKE (R435). -/
  | pierWake (p : PierId)
  /-- REPOINTING_WAKE (R436). -/
  | repointingWake (p : PierId) (course : Option (Fin 48))
  /-- IN_PIER_RESET_FLUSH (R429). -/
  | inPierResetFlush (d : Domain)
  /-- BOUNDARY_RESYNC (R430). -/
  | boundaryResync (d : Domain)
  /-- DOMAIN_DECLARED_FAILED (R438). -/
  | domainDeclaredFailed (d : Domain) (crossing : Nat)
  /-- CODEWORD_ERROR (R485). -/
  | codewordError (at_ : EccPlace) (res : EccResult)
  /-- MARGIN_MONITOR_TRIP (R487). -/
  | marginMonitorTrip (u : SUnit) (monitor : Nat) (code : Nat)
  /-- SOUNDING_RESULT (R488). -/
  | soundingResult (u : SUnit) (res : SoundTest)
  /-- SPARE_TAKEOVER (R111). -/
  | spareTakeover (u : SUnit)
  /-- MASON_EXCHANGE (R491). -/
  | masonExchange (p : PierId) (core : Fin 8)
  /-- ROUTINE_SPARE_SOUNDING (R489). -/
  | routineSpareSounding (u : SUnit) (failed : Bool)
  /-- LINK_CYCLE_RECEIVE (R495): the 1,000 bytes as they arrive, and the side-band's CRC-32 and ten CRC-8s. -/
  | linkCycleReceive (link : Fin 48) (dir : Bool) (cycle : List Byte) (sideBand : List Byte)
  /-- LANE_GROUP_TEST (R495); `failedLanes`, by bit, the lanes of the group that fail the pattern. -/
  | laneGroupTest (link : Fin 48) (dir : Bool) (group : Fin 10) (failedLanes : Nat)
  /-- LOG_WRITE (R499). -/
  | logWrite
  /-- PLUMBLINE_TRAINING (R443). -/
  | plumblineTraining (port : PortId) (out : TrainOutcome)
  /-- QUICK_RETRAIN (R446, R451): the training flits that arrive where both sides complete it, none where they do not. -/
  | quickRetrain (port : PortId) (got : Option (List (List Byte)))
  /-- FLIT_RECEIVE (R450). -/
  | flitReceive (port : PortId) (flit : List Byte)
  /-- REPLAY_TIMEOUT (R450). -/
  | replayTimeout (port : PortId)
  /-- ACK_TIMER (R450). -/
  | ackTimer (port : PortId)
  /-- IDLE_FLIT_SEND (R442). -/
  | idleFlitSend (port : PortId)
  /-- MEM_READ (R456). -/
  | memRead (port : PortId) (tag : U32) (addr : Nat) (rlen : Fin 256)
  /-- MEM_WRITE (R456). -/
  | memWrite (port : PortId) (tag : U32) (addr : Nat) (data : List Byte)
  /-- SUBMIT (R456). -/
  | submit (port : PortId) (tag : U32) (hdr : Header)
  /-- WATCH (R460). -/
  | watch (port : PortId) (tag : U32) (payload : List Byte)
  /-- WATCH_MET (R460). -/
  | watchMet (port : PortId) (watchTag : U32)
  /-- ADMIT (R459). -/
  | admitMsg (port : PortId) (tag : U32) (payload : List Byte)
  /-- IDENT (R461). -/
  | ident (port : PortId) (payload : List Byte)
  /-- CREDIT (R454). -/
  | credit (port : PortId) (payload : List Byte)
  /-- PROGRAM_COMPLETION (R426). -/
  | programCompletion (number : Nat)
  /-- LATE_NOTICE (R426). -/
  | lateNotice
  /-- HOST_DEPARTURE (R465). -/
  | hostDeparture (port : PortId)
  /-- STATUS (R477). -/
  | status (m : Manager)
  /-- BIND (R462). -/
  | bind (m : Manager) (hostId : U16) (context : U64)
  /-- UNBIND (R477). -/
  | unbind (m : Manager)
  /-- STOP (R478). -/
  | stop (m : Manager) (mode : Byte)
  /-- STOP_HOLD_EXPIRY (R478). -/
  | stopHoldExpiry
  /-- START (R480). -/
  | start (m : Manager) (slot : Fin 4) (keep : Bool)
  /-- EVENT_NOTICE_FROM_HOST (R477). -/
  | eventNoticeFromHost (m : Manager)
  /-- MGMT_UNKNOWN_COMMAND (R524). -/
  | mgmtUnknownCommand (m : Manager) (code : Byte)
  /-- UPDATE_BEGIN (R526). -/
  | updateBegin (m : Manager) (target : Byte) (length : U32)
  /-- UPDATE_DATA (R526). -/
  | updateData (m : Manager) (offset : U32) (data : List Byte)
  /-- UPDATE_COMMIT (R526). -/
  | updateCommit (m : Manager)
  /-- UPDATE_ABORT (R526). -/
  | updateAbort (m : Manager)
  /-- UPDATE_SESSION_TIMEOUT (R526). -/
  | updateSessionTimeout
  /-- IDENTITY (R528). -/
  | identity (m : Manager) (chunk : U16)
  /-- ATTEST (R529). -/
  | attest (m : Manager) (nonce : List Byte)
  /-- LOG_INFO (R524). -/
  | logInfo (m : Manager)
  /-- LOG_READ (R524). -/
  | logRead (m : Manager) (count : Byte) (first : U64)
  /-- SENSOR_READ (R524). -/
  | sensorRead (m : Manager) (first : Fin 128) (count : Byte)
  /-- POWER_DOWN (R525). -/
  | powerDown (m : Manager) (force : Bool)
  /-- POWER_UP (R525). -/
  | powerUp (m : Manager)
  /-- SENSOR_SAMPLE (R507). -/
  | sensorSample (sensor : Fin 128) (value : Int) (setPoint : Int)
  /-- STANDBY_SUPPLY_UP (R469). -/
  | standbySupplyUp
  /-- SKOVLAPER_BOOT (R521). -/
  | skovlaperBoot (d : Bool)
  /-- MAIN_SUPPLY_UP (R511). -/
  | mainSupplyUp
  /-- MAIN_SUPPLY_LOSS (R534). -/
  | mainSupplyLoss (shortPin : Bool)
  /-- PWR_DIS_CHANGE (R535). -/
  | pwrDisChange (high : Bool)
  /-- STANDBY_SUPPLY_LOSS (R511). -/
  | standbySupplyLoss
  /-- CXL_WAIT_TIMEOUT (R469). -/
  | cxlWaitTimeout
  /-- HEARTBEAT_LOSS (R503). -/
  | heartbeatLoss (watchdog : Bool)
  /-- WATCHDOG_EXPIRY (R505). -/
  | watchdogExpiry (d : Bool)
  /-- WATCHDOG_KICK (R505). -/
  | watchdogKick (src : Source) (addr : Nat) (data : List Byte)
  /-- SKOVLAPER_REJOIN (R506). -/
  | skovlaperRejoin (d : Bool)
  /-- COUNTER_READ (R558). -/
  | counterRead (src : Source) (addr : Nat) (len : Nat)
  /-- REGISTER_WRITE (R13). -/
  | registerWrite (src : Source) (addr : Nat) (data : List Byte)
  /-- MASON_LOAD_STORE (R32). -/
  | masonLoadStore (p : PierId) (core : Fin 8) (op : MasonOp) (addr : Nat) (len : Nat) (data : List Byte)
  /-- MASON_SAVE_TIMEOUT (R491). -/
  | masonSaveTimeout (p : PierId) (core : Fin 8)
  deriving DecidableEq, Repr

end Sys2Proof
end

