-- ==== Sys2Proof/Decode.lean ====
section
/-! DEFINITION. The command a table word spells. No row of spec/opcode_table.json gives a word any bits: a command's operands
come with it from outside (a queue's name, an address, a message), and a header's opcode byte is read by HEADER_DECODE from
the header in the queue (R42, R62). So no word spells a command. -/

namespace Sys2Proof

/-- None: the table gives no row any bits. -/
def decodeTableWord (_nbits _w : Nat) : Option Instr := none

end Sys2Proof
end

