-- ==== Sys2Proof/Config.lean ====
section
/-! DEFINITION. What the part fixes (R1) and the FREE VALUES: constants with no body, so that nothing in Lean can
evaluate one or prove what it is. Each free value names the rule that leaves the value open and its log entry. -/

namespace Sys2Proof.Config

/-- A value the spec leaves open and that may differ at every use: applied to the state's counter `free` (log 5). -/
opaque freeNat : Nat → Nat
/-- Which of two unordered writes of one element survives (R131; log 6): by the counter and the element's address. -/
opaque survivor : Nat → Nat → Bool
/-- What a read finds where it meets an element that the same header writes at another index: the prior value or one of the
header's, which one is open (R132; log 8): by the counter and the element's address. -/
opaque overlapRead : Nat → Nat → Nat
/-- Which of the bytes that bed caches and memory hold a core's read of a possibly stale line returns (R376; log 7). -/
opaque staleRead : Nat → Nat → Nat
/-- Which of the values within 1 ulp the exponential takes, by precision and operand (R182; log 9). -/
opaque expPick : Nat → Nat → Nat
/-- The same for the reciprocal square root (R182; log 9). -/
opaque rsqrtPick : Nat → Nat → Nat
/-- Which line gives way in a full bed cache: by the counter and the core (R83; log 7). -/
opaque bedVictim : Nat → Nat → Nat
/-- The deviation of a fallback function from the exact one: builtin code, derivative, operand's fp32 code (R316; log 10). -/
opaque builtinDev : Nat → Bool → Nat → Nat
/-- The 16 check bits of a 128-bit codeword (R384, which gives the code's strength and not the code; log 16). -/
opaque checkBits : Nat → Nat
/-- Whether evacuation has copied a line when a read of it cannot be corrected (R387 step 3; log 91): by the counter and the line. -/
opaque evacCopied : Nat → Nat → Bool
/-- Whether a read of a configuration flash fails as an image is checked or loaded (R467, R470; log 69): by the counter, the device
(true: quoin D's) and the offset read. -/
opaque flashFails : Nat → Bool → Nat → Bool
/-- RSASSA-PSS signature with the identity key, 512 bytes (R529; log 13). -/
opaque identitySign : List Byte → List Byte
/-- A Skovlaper's floor key: false quoin B, true quoin D (R516, R528; log 13). -/
opaque floorKey : Bool → List Byte
/-- Whether a Skovlaper's PUF reconstruction succeeds at its n-th try: false quoin B, true quoin D (R528; log 13). -/
opaque pufOk : Bool → Nat → Bool
/-- The identity certificate in DER form (R528; log 13). -/
opaque certificate : List Byte
/-- The bytes as shipped that R546 leaves to the part, by device and offset: those of the key store, the identity block and the firmware
copies (R546; log 4). -/
opaque factoryByte : Nat → Nat → Byte

/-- Physical channels per pier, logical channels per pier (R382). -/
def physChannels : Nat := 7
def logChannels : Nat := 6
/-- Walls per pier, courses per wall, cores per course (R1). -/
def walls : Nat := 4
def courses : Nat := 12
def cores : Nat := 16
/-- Greatest k of TOPK (R61). -/
def topkMax : Nat := 256
/-- Entries of a quoin's deferral queue (R351). -/
def deferCap : Nat := 65536
/-- Check lines of a pier's check buffer (R385), runs of an access engine and lines that it may go beyond one (R399). -/
def checkCap : Nat := 64
def runCap : Nat := 4
def runAheadLines : Nat := 8
/-- Records that Skovlaper holds before writing them (R498). -/
def heldCap : Nat := 4096
/-- Records of one event-log ring: 3,840 blocks of 1,024 (R499). -/
def logBlock : Nat := 1024
def logCap : Nat := 3840 * 1024
/-- Undelivered requests of all classes (R422). -/
def requestCap : Nat := 4096
/-- Watches of one port (R460). -/
def watchCap : Nat := 64
/-- Flits of a replay buffer (R450). -/
def replayCap : Nat := 1024
/-- Link cycles of a die-to-die replay buffer (R495). -/
def linkReplayCap : Nat := 256
/-- The binding code of the part (R549, R472). -/
def binding : Nat := 0x0008_0128

end Sys2Proof.Config
end

