-- ==== Sys2Proof/Machine/Bits.lean ====
section
/-! DEFINITION. Bit fields (R8), little-endian bytes (R9), sign extension (R122) and sparse tables of numbers. -/

namespace Sys2Proof.Machine

/-- Bits [hi:lo] of a number (R8). -/
def fld (x hi lo : Nat) : Nat := (x >>> lo) % 2 ^ (hi - lo + 1)

/-- Bit n of a number. -/
def bitAt (x n : Nat) : Bool := (x >>> n) % 2 == 1

/-- A number with bits [hi:lo] replaced. -/
def setFld (x hi lo v : Nat) : Nat :=
  let w := 2 ^ (hi - lo + 1)
  x - ((x >>> lo) % w) * 2 ^ lo + (v % w) * 2 ^ lo

/-- The difference of two numbers on a circle of n (R11). -/
def subMod (n a b : Nat) : Nat := (((a : Int) - (b : Int)) % (n : Int)).toNat

/-- A Bool as a bit. -/
def b2n (b : Bool) : Nat := if b then 1 else 0

/-- Ceiling division; 0 by 0 is 0. -/
def cdiv (a b : Nat) : Nat := (a + b - 1) / b

/-- The number whose two's complement in 2^w a word holds. -/
def sx (w x : Nat) : Int := if x % 2 ^ w < 2 ^ (w - 1) then (x % 2 ^ w : Nat) else (x % 2 ^ w : Nat) - (2 ^ w : Nat)

/-- An i32 sign-extended to 64 bits, as an unsigned word (R122). -/
def sx32to64 (x : Nat) : Nat :=
  let y := x % 0x1_0000_0000
  if y < 0x8000_0000 then y else y + 0xFFFF_FFFF_0000_0000

/-- The n low bytes of a number, least significant first (R9). -/
def leBytes : Nat → Nat → List Byte
  | 0, _ => []
  | n + 1, x => BitVec.ofNat 8 x :: leBytes n (x >>> 8)

/-- The number that little-endian bytes hold (R9). -/
def ofBytes : List Byte → Nat
  | [] => 0
  | b :: bs => b.toNat + 256 * ofBytes bs

/-- Byte i of a list, zero past its end. -/
def byteAt (bs : List Byte) (i : Nat) : Byte := bs.getD i 0

/-- The little-endian number of n bytes at offset i of a list, zero past its end. -/
def leAt (bs : List Byte) (i n : Nat) : Nat := ofBytes (bs.drop i |>.take n)

/-- A list cut or padded with zero bytes to n. -/
def padTo (n : Nat) (bs : List Byte) : List Byte := (bs ++ List.replicate (n - bs.length) 0).take n

/-- The smallest number with a property below a bound, searching upward. -/
def findUp (p : Nat → Bool) : Nat → Nat → Option Nat
  | _, 0 => none
  | i, n + 1 => if p i then some i else findUp p (i + 1) n

/-- A sparse table of numbers: keys strictly rising, no entry 0; an unlisted key reads 0. -/
abbrev Table := List (Nat × Nat)

/-- The value of a key. -/
def Table.get : Table → Nat → Nat
  | [], _ => 0
  | (k, v) :: t, x => if k == x then v else Table.get t x

/-- The table with a value other than 0 put at a key. -/
def Table.put : Table → Nat → Nat → Table
  | [], x, y => [(x, y)]
  | (k, v) :: t, x, y =>
    if x < k then (x, y) :: (k, v) :: t else if x == k then (x, y) :: t else (k, v) :: Table.put t x y

/-- The table with a key's value replaced. -/
def Table.set (t : Table) (x y : Nat) : Table := if y == 0 then t.filter (fun e => e.1 != x) else t.put x y

/-- A number added to a key's value, stopping at 2^64 − 1 (R550). -/
def Table.addSat (t : Table) (x n : Nat) : Table := t.set x (min (t.get x + n) 0xFFFF_FFFF_FFFF_FFFF)

/-- A list's first element with a property, replaced. -/
def replaceFirst {α : Type} (p : α → Bool) (f : α → α) : List α → List α
  | [] => []
  | a :: as => if p a then f a :: as else a :: replaceFirst p f as

/-- Insertion into a list kept in order, after the elements that the new one does not precede. -/
def insertBy {α : Type} (before : α → α → Bool) (x : α) : List α → List α
  | [] => [x]
  | y :: ys => if before x y then x :: y :: ys else y :: insertBy before x ys

/-- Stable sort by insertion. -/
def sortBy {α : Type} (before : α → α → Bool) (l : List α) : List α := l.foldl (fun acc x => insertBy before x acc) []

end Sys2Proof.Machine
end

