-- ==== Sys2Proof/Machine/Fp.lean ====
section
/-! DEFINITION. Number formats and rounding (05_number_formats.md): decoding, exact arithmetic, conversion, the working
precision of the vector units, and the transcendental functions within their stated bounds. -/

namespace Sys2Proof.Machine

/-- An exact value: NaN, a signed infinity, or (−1)^neg · m · 2^e with a signed zero (R150). -/
inductive Val where
  | nan
  | inf (neg : Bool)
  | fin (neg : Bool) (m : Nat) (e : Int)
  deriving DecidableEq, Repr

/-- A format code (R67). -/
inductive Fmt where
  | fp4 | fp8a | fp8b | bf16 | fp16 | fp32 | fp64 | int8 | g8 | u32 | reserved
  deriving DecidableEq, Repr

def Fmt.ofCode : Nat → Fmt
  | 0 => .fp4 | 1 => .fp8a | 2 => .fp8b | 3 => .bf16 | 4 => .fp16
  | 5 => .fp32 | 6 => .fp64 | 7 => .int8 | 8 => .g8 | 9 => .u32 | _ => .reserved

/-- Bytes per element (R119); fp4 is half a byte and handled by its nibble. -/
def Fmt.size : Fmt → Nat
  | .fp4 => 1 | .fp8a => 1 | .fp8b => 1 | .bf16 => 2 | .fp16 => 2
  | .fp32 => 4 | .fp64 => 8 | .int8 => 1 | .g8 => 1 | .u32 => 4 | .reserved => 0

/-- Bits of one code. -/
def Fmt.bits : Fmt → Nat
  | .fp4 => 4 | f => 8 * f.size

/-- The layout of a floating-point format (R150); `top` is the largest exp field that holds finite values and `maxM`
the largest mant there; `hasInf`: exp all ones with mant 0 is an infinity. -/
structure FpSpec where
  mant : Nat
  ebits : Nat
  bias : Nat
  top : Nat
  maxM : Nat
  hasInf : Bool
  deriving DecidableEq, Repr

def FpSpec.s4 : FpSpec := ⟨1, 2, 1, 3, 1, false⟩
def FpSpec.s8a : FpSpec := ⟨3, 4, 7, 15, 6, false⟩
def FpSpec.s8b : FpSpec := ⟨2, 5, 15, 30, 3, true⟩
def FpSpec.sb16 : FpSpec := ⟨7, 8, 127, 254, 127, true⟩
def FpSpec.s16 : FpSpec := ⟨10, 5, 15, 30, 1023, true⟩
def FpSpec.s32 : FpSpec := ⟨23, 8, 127, 254, 0x7F_FFFF, true⟩
def FpSpec.s64 : FpSpec := ⟨52, 11, 1023, 2046, 0xF_FFFF_FFFF_FFFF, true⟩

/-- The floating-point layout of a format; a g8 code is its fp8b value (R155). -/
def Fmt.spec : Fmt → Option FpSpec
  | .fp4 => some .s4 | .fp8a => some .s8a | .fp8b => some .s8b | .g8 => some .s8b | .bf16 => some .sb16
  | .fp16 => some .s16 | .fp32 => some .s32 | .fp64 => some .s64 | _ => none

/-- Lowest unbiased exponent of a normal value. -/
def FpSpec.emin (f : FpSpec) : Int := 1 - f.bias

/-- The canonical NaN code (R156); fp4 has none. -/
def FpSpec.nanCode (f : FpSpec) : Nat :=
  if f.mant == 1 then 0
  else if f.hasInf then (2 ^ f.ebits - 1) * 2 ^ f.mant + 2 ^ (f.mant - 1)
  else 2 ^ (f.ebits + f.mant) - 1

/-- Whether a code's exp field is 0 and its mant field is not (R150); fp4 codes are never subnormal (R163). -/
def FpSpec.isSub (f : FpSpec) (c : Nat) : Bool :=
  f.mant != 1 && (c >>> f.mant) % 2 ^ f.ebits == 0 && c % 2 ^ f.mant != 0

/-- The exact value of a floating-point code (R150 to R153). -/
def FpSpec.decode (f : FpSpec) (c : Nat) : Val :=
  let s := (c >>> (f.ebits + f.mant)) % 2 == 1
  let x := (c >>> f.mant) % 2 ^ f.ebits
  let m := c % 2 ^ f.mant
  if f.hasInf && x == 2 ^ f.ebits - 1 then (if m == 0 then .inf s else .nan)
  else if !f.hasInf && f.mant != 1 && x == 15 && m == 7 then .nan
  else if x == 0 then .fin s m (f.emin - f.mant)
  else .fin s (2 ^ f.mant + m) ((x : Int) - f.bias - f.mant)

/-- The exact value of an integer. -/
def Val.ofInt (i : Int) : Val := .fin (i < 0) i.natAbs 0

def Val.zero : Val := .fin false 0 0
def Val.one : Val := .fin false 1 0

def Val.isNan : Val → Bool
  | .nan => true | _ => false

def Val.isFin : Val → Bool
  | .fin _ _ _ => true | _ => false

/-- Whether a value is +0 or −0. -/
def Val.isZero : Val → Bool
  | .fin _ 0 _ => true | _ => false

def Val.neg : Val → Val
  | .nan => .nan | .inf s => .inf (!s) | .fin s m e => .fin (!s) m e

def Val.abs : Val → Val
  | .nan => .nan | .inf _ => .inf false | .fin _ m e => .fin false m e

def Val.sign : Val → Bool
  | .nan => false | .inf s => s | .fin s _ _ => s

/-- Unbiased binary exponent of a finite non-zero value. -/
def Val.expo : Val → Int
  | .fin _ m e => (Nat.log2 m : Int) + e | _ => 0

/-- The signed mantissa at a lower exponent. -/
def alignTo (q : Int) (s : Bool) (m : Nat) (e : Int) : Int :=
  let k := m <<< (e - q).toNat
  if s then -(k : Int) else k

/-- Exact product by IEEE 754-2019 (R199). -/
def Val.mul : Val → Val → Val
  | .nan, _ => .nan
  | _, .nan => .nan
  | .inf s, .inf t => .inf (s != t)
  | .inf s, .fin t m _ => if m == 0 then .nan else .inf (s != t)
  | .fin s m _, .inf t => if m == 0 then .nan else .inf (s != t)
  | .fin s m e, .fin t n g => .fin (s != t) (m * n) (e + g)

/-- Exact sum of two values; a zero sum is −0 only when both addends are −0 (R189, R199). -/
def Val.add : Val → Val → Val
  | .nan, _ => .nan
  | _, .nan => .nan
  | .inf s, .inf t => if s == t then .inf s else .nan
  | .inf s, .fin _ _ _ => .inf s
  | .fin _ _ _, .inf t => .inf t
  | .fin s m e, .fin t n g =>
    if m == 0 && n == 0 then .fin (s && t) 0 0
    else if m == 0 then .fin t n g
    else if n == 0 then .fin s m e
    else
      let q := min e g
      let i := alignTo q s m e + alignTo q t n g
      .fin (i < 0) i.natAbs q

/-- Exact quotient with a sticky low bit, enough for one rounding to 53 bits or fewer. -/
def Val.div : Val → Val → Val
  | .nan, _ => .nan
  | _, .nan => .nan
  | .inf _, .inf _ => .nan
  | .inf s, .fin t _ _ => .inf (s != t)
  | .fin s _ _, .inf t => .fin (s != t) 0 0
  | .fin s m e, .fin t n g =>
    if n == 0 then (if m == 0 then .nan else .inf (s != t))
    else
      let k := 140 + Nat.log2 n
      let q := (m <<< k) / n
      .fin (s != t) (2 * q + b2n ((m <<< k) % n != 0)) (e - g - k - 1)

/-- Integer square root by bits, from bit `n − 1` downward. -/
def isqrtBits (x : Nat) : Nat → Nat → Nat
  | 0, r => r
  | n + 1, r => let t := r + 2 ^ n; isqrtBits x n (if t * t ≤ x then t else r)

def isqrt (x : Nat) : Nat := isqrtBits x (Nat.log2 x / 2 + 1) 0

/-- Square root with a sticky low bit (R181). -/
def Val.sqrt : Val → Val
  | .nan => .nan
  | .inf s => if s then .nan else .inf false
  | .fin s m e =>
    if m == 0 then .fin s 0 0
    else if s then .nan
    else
      let k := 140 + (if (e % 2 == 0) then 0 else 1)
      let y := m <<< k
      let r := isqrt y
      .fin false (2 * r + b2n (r * r != y)) ((e - k) / 2 - 1)

/-- How a conversion rounds (R168, R174): a stochastic rounding carries its 12-bit draw. -/
inductive Rnd where
  | even
  | zero
  | stoch (draw : Nat)
  deriving DecidableEq, Repr

/-- The scaled magnitude after rounding: the integer and its quantum (R168, R174). -/
def roundMag (f : FpSpec) (r : Rnd) (m : Nat) (e : Int) : Nat × Int :=
  let q : Int := max ((Nat.log2 m : Int) + e) f.emin - f.mant
  if e ≥ q then (m <<< (e - q).toNat, q)
  else
    let k := (q - e).toNat
    let n := m >>> k
    let rest := m - (n <<< k)
    let up := match r with
      | .zero => false
      | .even => rest * 2 > 2 ^ k || (rest * 2 == 2 ^ k && n % 2 == 1)
      | .stoch d => d < (4096 * rest) >>> k
    (if up then n + 1 else n, q)

/-- Whether n · 2^q exceeds a format's largest finite magnitude. -/
def FpSpec.above (f : FpSpec) (n : Nat) (q : Int) : Bool :=
  let mx := 2 ^ f.mant + f.maxM
  let qx : Int := (f.top : Int) - f.bias - f.mant
  let lo := min q qx
  n <<< (q - lo).toNat > mx <<< (qx - lo).toNat

/-- The largest finite magnitude. -/
def FpSpec.maxVal (f : FpSpec) (s : Bool) : Val := .fin s (2 ^ f.mant + f.maxM) ((f.top : Int) - f.bias - f.mant)

/-- A value rounded into a floating-point format (R168, R169, R175). -/
def FpSpec.round (f : FpSpec) (r : Rnd) : Val → Val
  | .nan => .nan
  | .inf s => if f.hasInf then .inf s else if f.mant == 1 then f.maxVal s else .nan
  | .fin s m e =>
    if m == 0 then .fin s 0 0
    else
      let (n, q) := roundMag f r m e
      if f.above n q then
        (if f.hasInf && r != .zero then .inf s else f.maxVal s)
      else if !f.hasInf && f.above m e then f.maxVal s
      else .fin s n q

/-- Whether a finite value of a format is subnormal there; never for fp4 (R163, R164). -/
def FpSpec.subnormal (f : FpSpec) : Val → Bool
  | .fin _ m e => f.mant != 1 && m != 0 && (Nat.log2 m : Int) + e < f.emin
  | _ => false

/-- The code of a value that the format holds exactly; NaN gives the canonical NaN (R156). -/
def FpSpec.encode (f : FpSpec) : Val → Nat
  | .nan => f.nanCode
  | .inf s => b2n s * 2 ^ (f.ebits + f.mant) + (2 ^ f.ebits - 1) * 2 ^ f.mant
  | .fin s m e =>
    let sg := b2n s * 2 ^ (f.ebits + f.mant)
    if m == 0 then sg
    else
      let x := (Nat.log2 m : Int) + e
      let q := max x f.emin - f.mant
      let n := if e ≥ q then m <<< (e - q).toNat else m >>> (q - e).toNat
      if n < 2 ^ f.mant then sg + n
      else sg + (q + f.mant + f.bias).toNat * 2 ^ f.mant + (n - 2 ^ f.mant)

/-- Truncation toward zero. -/
def Val.trunc : Val → Int
  | .fin s m e =>
    let n := if e ≥ 0 then m <<< e.toNat else m >>> (-e).toNat
    if s then -(n : Int) else n
  | _ => 0

/-- The outcome of a conversion: the code, whether the value lay beyond the format's range and its limit was written (R201
saturated, where the drained w is finite), whether a subnormal was flushed (R166). -/
structure Conv where
  code : Nat
  sat : Bool
  flushed : Bool
  deriving DecidableEq, Repr

/-- Conversion into a format's code (R167 to R171). `flush`: a subnormal result is written as zero of its sign (R164). -/
def convert (f : Fmt) (r : Rnd) (flush : Bool) (v : Val) : Conv :=
  match f with
  | .int8 =>
    match v with
    | .nan => ⟨0, false, false⟩
    | .inf s => ⟨if s then 0x80 else 0x7F, true, false⟩
    | .fin _ _ _ =>
      let t := v.trunc
      let c := max (-128) (min 127 t)
      ⟨(c % 256).toNat, c != t, false⟩
  | .u32 =>
    match v with
    | .nan => ⟨0, false, false⟩
    | .inf s => ⟨if s then 0 else 0xFFFF_FFFF, true, false⟩
    | .fin _ _ _ =>
      let t := v.trunc
      let c := max 0 (min 0xFFFF_FFFF t)
      ⟨c.toNat, c != t, false⟩
  | f =>
    match f.spec with
    | none => ⟨0, false, false⟩
    | some sp =>
      if v.isNan && sp.mant == 1 then ⟨0, false, false⟩
      else
        let w := sp.round r v
        let sub := flush && sp.subnormal w
        let w' := if sub then Val.fin w.sign 0 0 else w
        let sat := match v with
          | .fin _ m e => sp.above m e && w.isFin
          | .inf _ => w.isFin
          | .nan => false
        ⟨sp.encode w', sat, sub⟩

/-- The value of a stored code, exactly; u32 and reserved codes are +0 as arithmetic operands (R92, R149, R154). -/
def decodeCode (f : Fmt) (c : Nat) : Val :=
  match f with
  | .int8 => .ofInt (sx 8 c)
  | f => match f.spec with
    | some sp => sp.decode c
    | none => .zero

/-- Whether a stored code is a subnormal that a flush replaces (R164). -/
def codeSub (f : Fmt) (c : Nat) : Bool :=
  match f.spec with
  | some sp => sp.isSub c
  | none => false

/-- A decoded code with subnormals replaced by zero of the same sign when `flush` (R164). -/
def decodeFlush (f : Fmt) (c : Nat) (flush : Bool) : Val :=
  if flush && codeSub f c then .fin (decodeCode f c).sign 0 0 else decodeCode f c

/-- fp32 bits as a value. -/
def f32 (c : Nat) : Val := FpSpec.s32.decode (c % 0x1_0000_0000)

/-- Round-to-nearest-even to fp32 with subnormals kept (RNE32, R159). -/
def rne32 (v : Val) : Val := FpSpec.s32.round .even v

/-- fp32 code of a value rounded by RNE32. -/
def f32Code (v : Val) : Nat := FpSpec.s32.encode (rne32 v)

/-- fp64 code of a value rounded by nearest-even. -/
def f64Code (v : Val) : Nat := FpSpec.s64.encode (FpSpec.s64.round .even v)

/-- A value rounded once to a spec, its subnormal replaced by zero of its sign (matrix class, R163). -/
def rneFlush (f : FpSpec) (v : Val) : Val :=
  let w := f.round .even v
  if f.subnormal w then .fin w.sign 0 0 else w

/-! ## Comparison (R184) -/

/-- A finite value's order key against another: whether x < y with −0 < +0; NaN is not compared here. -/
def Val.lt (x y : Val) : Bool :=
  match x, y with
  | .inf true, .inf true => false
  | .inf true, _ => true
  | _, .inf true => false
  | .inf false, _ => false
  | _, .inf false => true
  | .fin s m e, .fin t n g =>
    if m == 0 && n == 0 then s && !t
    else
      let q := min e g
      alignTo q s m e < alignTo q t n g
  | _, _ => false

/-- Whether y, at the higher index, beats x, at the lower one, for maximum (`mn` false) or minimum (R184, R185). -/
def beats (mn : Bool) (x y : Val) : Bool :=
  if x.isNan then false
  else if y.isNan then true
  else if mn then y.lt x else x.lt y

/-! ## Working precision of the vector units (R160, R181, R164) -/

/-- The working precision and whether the stream's flush bit is set. -/
structure Wp where
  dbl : Bool
  flush : Bool
  deriving DecidableEq, Repr

def Wp.spec (w : Wp) : FpSpec := if w.dbl then .s64 else .s32

/-- A working-precision value and whether forming it flushed a subnormal (R166). -/
structure FV where
  v : Val
  fl : Bool
  deriving DecidableEq, Repr

def FV.zero : FV := ⟨.zero, false⟩

/-- One rounding to the working precision, with the flush of R164. -/
def Wp.rnd (w : Wp) (v : Val) (fl : Bool) : FV :=
  let r := w.spec.round .even v
  if w.flush && w.spec.subnormal r then ⟨.fin r.sign 0 0, true⟩ else ⟨r, fl⟩

def Wp.add (w : Wp) (a b : FV) : FV := w.rnd (a.v.add b.v) (a.fl || b.fl)
def Wp.sub (w : Wp) (a b : FV) : FV := w.rnd (a.v.add b.v.neg) (a.fl || b.fl)
def Wp.mul (w : Wp) (a b : FV) : FV := w.rnd (a.v.mul b.v) (a.fl || b.fl)
def Wp.div (w : Wp) (a b : FV) : FV := w.rnd (a.v.div b.v) (a.fl || b.fl)
def Wp.sqrt (w : Wp) (a : FV) : FV := w.rnd a.v.sqrt a.fl
/-- a × b + c with one rounding. -/
def Wp.fma (w : Wp) (a b c : FV) : FV := w.rnd ((a.v.mul b.v).add c.v) (a.fl || b.fl || c.fl)

/-! ## The exponential and the reciprocal square root (R182)

Both are computed here to far more bits than the working precision; the module's own result is one of the values within
1 ulp of it, and which one is free (log 9). -/

/-- ln 2 with 200 fractional bits. -/
def ln2Fix : Nat := 0xB17217F7D1CF79ABC9E3B39803F2F6AF40F343267298B62D8A

/-- Σ x^j / j! for j from i on, in fixed point with 200 fractional bits. -/
def expSeries (x : Nat) : Nat → Nat → Nat → Nat → Nat
  | 0, _, _, acc => acc
  | n + 1, i, t, acc => let t' := (t * x) / (i * 2 ^ 200); expSeries x n (i + 1) t' (acc + t')

/-- e^x to about 190 bits, for a finite x other than zero with |x| below 2^12; the low bit is sticky. An |x| below 2^−200 gives
a value strictly between 1 and its neighbour on the side of x. -/
def expApprox (s : Bool) (m : Nat) (e : Int) : Val :=
  let k : Int := e + 200
  let mag := if k ≥ 0 then m <<< k.toNat else m >>> (-k).toNat
  if mag == 0 then .fin false (if s then 2 ^ 201 - 1 else 2 ^ 201 + 1) (-201) else
  let i : Int := if s then -(mag : Int) else mag
  let n : Int := Int.fdiv i ln2Fix
  let r := (i - n * ln2Fix).toNat
  let y := expSeries r 60 1 (2 ^ 200) (2 ^ 200)
  .fin false (2 * y + b2n (mag != 0)) (n - 201)

/-- The values of a format next to an approximated positive result: the one below and the one above, and the one
below that when the result is exact. The pick chooses among them (R182). -/
def within1ulp (f : FpSpec) (pick : Nat) (v : Val) : Val :=
  match v with
  | .fin s m e =>
    if m == 0 then v
    else
      let (n, q) := roundMag f .zero m e
      let exact := if e ≥ q then true else (m % 2 ^ (q - e).toNat) == 0
      let c := if exact then [n, n + 1, n - 1] else [n, n + 1]
      let n' := c.getD (pick % c.length) n
      if f.above n' q then .inf s else .fin s n' q
  | v => v

/-- The exponential in working precision (R182). -/
def Wp.exp (w : Wp) (a : FV) : FV :=
  let pick := Config.expPick (b2n w.dbl) (w.spec.encode a.v)
  match a.v with
  | .nan => ⟨.nan, a.fl⟩
  | .inf s => ⟨if s then .zero else .inf false, a.fl⟩
  | .fin s m e =>
    if m == 0 then w.rnd (within1ulp w.spec pick .one) a.fl
    else if (Nat.log2 m : Int) + e ≥ 12 then
      (if s then w.rnd (within1ulp w.spec pick (.fin false 1 (-5000))) a.fl else ⟨.inf false, a.fl⟩)
    else
      let r := expApprox s m e
      match r with
      | .fin _ n g => if (Nat.log2 n : Int) + g > (w.spec.top : Int) - w.spec.bias then ⟨.inf false, a.fl⟩
        else w.rnd (within1ulp w.spec pick r) a.fl
      | r => ⟨r, a.fl⟩

/-- 1 / √x with a sticky low bit. -/
def rsqrtApprox (m : Nat) (e : Int) : Val :=
  let (m, e) := if e % 2 == 0 then (m, e) else (2 * m, e - 1)
  let k := 160 + Nat.log2 m
  let t := (2 ^ (2 * k)) / m
  let r := isqrt t
  .fin false (2 * r + b2n (r * r * m != 2 ^ (2 * k))) (-(k : Int) - e / 2 - 1)

/-- The reciprocal square root in working precision (R182). -/
def Wp.rsqrt (w : Wp) (a : FV) : FV :=
  match a.v with
  | .nan => ⟨.nan, a.fl⟩
  | .inf s => ⟨if s then .nan else .zero, a.fl⟩
  | .fin s m e =>
    if m == 0 then ⟨.inf s, a.fl⟩
    else if s then ⟨.nan, a.fl⟩
    else w.rnd (within1ulp w.spec (Config.rsqrtPick (b2n w.dbl) (w.spec.encode a.v)) (rsqrtApprox m e)) a.fl

end Sys2Proof.Machine
end

