-- ==== Sys2Proof/Machine/Rng.lean ====
section
/-! DEFINITION. The generators of stochastic rounding (R177 to R179, R338), the dropout hash (R320), the audit choice
(R251), the fingerprint terms (R352) and the CRC and FEC arithmetic of the links (R448). -/

namespace Sys2Proof.Machine

/-- mix64 of R177. -/
def mix64 (z : Nat) : Nat :=
  let z := wrap64 ((z ^^^ (z >>> 30)) * 0xBF58_476D_1CE4_E5B9)
  let z := wrap64 ((z ^^^ (z >>> 27)) * 0x94D0_49BB_1331_11EB)
  z ^^^ (z >>> 31)

/-- The odd constant of R177, R320 and R352. -/
def golden : Nat := 0x9E37_79B9_7F4A_7C15

/-- The state that reseed sets (R177). -/
def reseed (seed unit lane epoch : Nat) : Nat :=
  (seed ^^^ (unit % 0x1_0000) <<< 48) ^^^ (lane % 0x100) <<< 32 ^^^ (epoch % 0x1_0000)

/-- Draw number n (from 0) after a reseed: five draws of 12 bits from each word, [63:52] first (R177). -/
def drawAt (state n : Nat) : Nat :=
  let word := mix64 (wrap64 (state + (n / 5 + 1) * golden))
  (word >>> (4 + 12 * (4 - n % 5))) % 4096

/-- Whether dropout keeps element l (R320). -/
def dropKept (seed layer epoch l keep : Nat) : Bool :=
  let key := mix64 (seed ^^^ (layer % 0x1_0000) <<< 32 ^^^ (epoch % 0x1_0000))
  let h := mix64 (wrap64 (key + (l >>> 2) * golden))
  (h >>> (16 * (3 - l % 4))) % 0x1_0000 < keep

/-- Whether an inactive block is audited (R251); `lg` is audit_log2 after its limits. -/
def audited (lg seed tensor epoch r k : Nat) : Bool :=
  lg != 0 &&
  mix64 ((seed ^^^ wrap64 (tensor <<< 44)) ^^^ (epoch % 0x1_0000) <<< 32 ^^^ (r <<< 16) ^^^ k) >>> (64 - lg) == 0

/-- The key of a shard's fingerprint (R352). -/
def fpKey (t e : Nat) : Nat := mix64 ((t <<< 32) ^^^ e)

/-- One term of a fingerprint: element number j with code c (R352). -/
def fpTerm (key j c : Nat) : Nat := mix64 (wrap64 (key + j * golden) ^^^ c)

/-! ## CRC-64 (R448), reflected -/

/-- The polynomial 0x42F0_E1EB_A9EA_3693 with its bits reversed. -/
def crcPoly : Nat := 0xC96C_5795_D787_0F42

def crcBits : Nat → Nat → Nat
  | 0, c => c
  | n + 1, c => crcBits n (if c % 2 == 1 then (c >>> 1) ^^^ crcPoly else c >>> 1)

def crcStep (c : Nat) (b : Byte) : Nat := crcBits 8 (c ^^^ b.toNat)

/-- CRC-64 of a byte list (R448). -/
def crc64 (bs : List Byte) : Nat := (bs.foldl crcStep 0xFFFF_FFFF_FFFF_FFFF) ^^^ 0xFFFF_FFFF_FFFF_FFFF

/-! ## The checks of a die-to-die link cycle (R495) -/

/-- One bit of a CRC of a width, highest bit first. -/
def crcShift (w poly c : Nat) : Nat := if bitAt c (w - 1) then (2 * c) % 2 ^ w ^^^ poly else 2 * c

/-- A CRC of a width: highest bit first, from zero, its result as it stands (DESIGN CHOICE; log 102). -/
def crcOf (w poly : Nat) (bs : List Byte) : Nat :=
  bs.foldl (fun c b => (List.range 8).foldl (fun c _ => crcShift w poly c) (c ^^^ b.toNat <<< (w - 8))) 0

/-- The CRC-32 of a cycle, and the CRC-8 of a lane group's 100 bytes, those that follow each other (DESIGN CHOICE; log 102). -/
def linkCrc32 (cycle : List Byte) : Nat := crcOf 32 0x1EDC_6F41 cycle
def groupCrc8 (cycle : List Byte) (g : Nat) : Nat := crcOf 8 0x07 ((cycle.drop (100 * g)).take 100)

/-! ## Reed–Solomon over GF(2^8), field polynomial 0x11D (R448) -/

/-- Multiplication by α. -/
def gfDbl (a : Nat) : Nat := if a ≥ 128 then (2 * a) ^^^ 0x11D else 2 * a

/-- Multiplication. -/
def gfMulN : Nat → Nat → Nat → Nat
  | 0, _, _ => 0
  | n + 1, a, b => (if b % 2 == 1 then a else 0) ^^^ gfMulN n (gfDbl a) (b >>> 1)

def gfMul (a b : Nat) : Nat := gfMulN 8 a b

/-- A polynomial's value at x, coefficients of descending powers. -/
def gfEval (x : Nat) (cs : List Nat) : Nat := cs.foldl (fun acc c => gfMul acc x ^^^ c) 0

/-- α^n. -/
def gfPow : Nat → Nat
  | 0 => 1
  | n + 1 => gfDbl (gfPow n)

/-- The codeword of code j: the bytes i of a flit with i mod 3 = j, ascending (R448). -/
def fecWord (flit : List Byte) (j : Nat) : List Nat :=
  (List.range 256).filterMap fun i => if i % 3 == j then some (byteAt flit i).toNat else none

/-- Position and value of the one byte error that a code's syndromes show, if they show one; `none` in the first place
means no error. A pair of syndromes that fits no single byte is left uncorrected. -/
def fecFind (cw : List Nat) : Option (Nat × Nat) :=
  let s0 := gfEval 1 cw
  let s1 := gfEval 2 cw
  if s0 == 0 then none
  else
    match findUp (fun p => gfMul s0 (gfPow p) == s1) 0 cw.length with
    | none => none
    | some p => some (cw.length - 1 - p, s0)

/-- A flit with up to one byte corrected per code, and the corrected byte positions (R448). -/
def fecCorrect (flit : List Byte) : List Byte × List Nat :=
  [0, 1, 2].foldl (fun (acc : List Byte × List Nat) j =>
    match fecFind (fecWord flit j) with
    | none => acc
    | some (i, e) =>
      let at_ := 3 * i + j
      (acc.1.set at_ (byteAt acc.1 at_ ^^^ BitVec.ofNat 8 e), acc.2 ++ [at_])) (flit, [])

/-- Whether a flit's CRC passes (R448). -/
def flitCrcOk (flit : List Byte) : Bool := crc64 (flit.take 242) == leAt flit 242 8

/-- The two check bytes that make a code's word divisible by the generator (x + 1)(x + α): the last two coefficients
of a word whose other coefficients are given. -/
def fecCheck (data : List Nat) : Nat × Nat :=
  let w := data ++ [0, 0]
  let s0 := gfEval 1 w
  let s1 := gfEval 2 w
  -- c1 + c0 = s0 and 2·c1 + c0 = s1, so 3·c1 = s0 + s1; 0xF4 is the inverse of 3
  let c1 := gfMul (s0 ^^^ s1) 0xF4
  (c1, s0 ^^^ c1)

/-- A flit built from its header and payload: CRC, then FEC (R447, R448). -/
def buildFlit (hdr : Nat) (payload : List Byte) : List Byte :=
  let body := leBytes 4 hdr ++ padTo 238 payload
  let f := body ++ leBytes 8 (crc64 body)
  let chk := fun j => fecCheck ((List.range 250).filterMap fun i => if i % 3 == j then some (byteAt f i).toNat else none)
  let c0 := chk 0
  let c1 := chk 1
  let c2 := chk 2
  -- bytes 250 to 255 lie in codes 1, 2, 0, 1, 2, 0
  f ++ [c1.1, c2.1, c0.1, c1.2, c2.2, c0.2].map (BitVec.ofNat 8)

end Sys2Proof.Machine
end

