-- ==== Sys2Proof/Machine/State.lean ====
section
/-! DEFINITION. The state of the module as plain data, the reasons a step can stop, and the state at reset. Each field's
docstring names the rule that gives it; a value the spec does not give at reset is a log entry's. -/

namespace Sys2Proof.Machine

/-- The machine stops with a fault: no rule of the manual gives the block one; a command that its rules turn away answers
a status or changes nothing. Raised by no command. -/
inductive Fault where
  /-- Kept so that the type is inhabited; no meaning raises it. Safe. -/
  | unreachable
  deriving DecidableEq, Repr

/-- A command without a meaning. -/
inductive Refusal where
  /-- The command named is not modelled yet. Raised by Dispatch alone. Safe. -/
  | notModelled (mnemonic : String)
  deriving DecidableEq, Repr

/-! ## Headers in queues -/

/-- Side statistics of a pier's share, to be combined into its entry (R200 to R203). -/
structure StatFig where
  pier : PierId
  tensor : Nat
  amax : Nat
  nonfinite : Bool
  nan : Bool
  infinite : Bool
  saturated : Bool
  sumSq : Nat
  elements : Nat
  deriving DecidableEq, Repr

/-- Sparse figures of a pier's share against one tensor (R255, R256). -/
structure SparseFig where
  pier : PierId
  tensor : Nat
  drops : Nat
  loss : Nat
  malformed : Nat
  badEntries : Nat
  audited : Nat
  missed : Nat
  missAmax : Nat
  unserved : Nat
  missSumSq : Nat
  overflow : Nat
  deriving DecidableEq, Repr

/-- Where a header came from (R47, R62, R369): a host's port with the tag of its message, which its record echoes (R452); one whose host
has departed since (R465); the image's own programs; or the class program of the admitted request with that number. -/
inductive Origin where
  | host (port : PortId) (tag : U32)
  | departed (port : PortId)
  | image
  | request (number : Nat)
  deriving DecidableEq, Repr

/-- How far a queued header has come: not decoded; decoded and waiting for its keystone; its wait met; started; held for the table store
(R317); its operation performed, or not to be performed (R63); its signal on the way to its keystone (R38, R53). -/
inductive Phase where
  | queued
  | waiting
  | met
  | ready
  | table
  | ran
  | closing
  deriving DecidableEq, Repr

/-- A tensor descriptor: eight 64-bit words (R115). -/
structure Desc where
  d0 : U64
  d1 : U64
  d2 : U64
  d3 : U64
  d4 : U64
  d5 : U64
  d6 : U64
  d7 : U64
  deriving DecidableEq, Repr

/-- An owner table as a header reads it (R138, R139). -/
structure Owner where
  b0 : Nat
  b1 : Nat
  slot : Nat
  parts : List Nat
  n0 : Nat
  n1 : Nat
  ents : List Nat
  deriving DecidableEq, Repr

/-- Where an element lies: its byte address, its nibble (0 none, 1 low, 2 high), its bytes, and the address of its error
term (R119, R120). -/
structure Loc where
  addr : Nat
  nib : Nat
  size : Nat
  comp : Option Nat
  deriving DecidableEq, Repr

/-- A tensor as a header reads it (R115, R117): strides sign-extended to 64 bits, `tw` the offset of the buffer that R123
selects, `ref` the address of its descriptor, for the scale's re-read (R70), `missing` the first absent address among the bytes
of its descriptor and owner table (R564), `mixed` the elements that its reader may meet as the header has written them, and
`guess` the number of the header's free values for them (R132, log 8). -/
structure Tens where
  base : Nat
  fmt : Nat
  layout : Nat
  e0 : Nat
  e1 : Nat
  e2 : Nat
  e3 : Nat
  s0 : Nat
  s1 : Nat
  s2 : Nat
  s3 : Nat
  scale : Nat
  gen : Nat
  vlen : Nat
  tid : Nat
  ownerAt : Nat
  aux : Nat
  twin : Nat
  tw : Nat
  ref : Option Nat
  own : Option Owner
  missing : Option Nat
  mixed : List Loc
  guess : Nat
  deriving DecidableEq, Repr

/-- An element of a product's d as its drain converted it for an ACT that is fused into it (R315): the pier and core that drained it, its
descriptor indices, code and error term. -/
structure FusedEl where
  pier : PierId
  core : Nat
  ix : Nat × Nat × Nat × Nat
  code : Nat
  err : Nat
  deriving DecidableEq, Repr

/-- One entry of a stream queue (R38, R51, R63). `status` is its completion status (R457), `epoch` and `policy` what it
read when it started (R417), `jobs` the passes still owed (R240, R276, R339, R349, R363), `lines` the lines it wrote (R375), `stats` and `sparse` the figures its
shares have for the tables (R202, R256), `piers` the piers that ran a share, `bad` a core whose accumulator failed and the
free number that says which of its rows (R485), `ops` the tensors of its references d, a, b and c as it read them when it
started (R117), `shares` the piers that run a share of it (R110), `begun` those where the share has started, `fused` what the
product before it drained for it (R315), `bound` the states and the accumulator that each pier's parameter entry binds, as read with
them (R117, R331). -/
structure QEntry where
  hdr : Header
  origin : Origin
  phase : Phase
  malformed : Bool
  status : Nat
  epoch : Nat
  policy : Nat
  jobs : Nat
  lines : List Nat
  stats : List StatFig
  sparse : List SparseFig
  piers : List PierId
  bad : Option (CoreId × Nat)
  ops : List Tens
  shares : List PierId
  begun : List PierId
  fused : List FusedEl
  bound : List (PierId × List (Option Tens))
  deriving DecidableEq, Repr

/-- A stream queue that is not empty (R24, R82). -/
structure Queue where
  key : QKey
  entries : List QEntry
  deriving DecidableEq, Repr

/-- A submission waiting for room in its queue (R369): its header, its origin, and whose write it is that completes with it, if the
sender waits for that. -/
structure WaitingSub where
  key : QKey
  hdr : Header
  origin : Origin
  ack : Option Source
  deriving DecidableEq, Repr

/-- What a sequencer holds on one stream, in the order it arrived: the queues of its own headers and of the headers above it whose
shares have reached it (R82, R108). Courses 0 to 47 are the pier's courses; 48 + w stands for the sequencer of wall w, 52 for
the pier's, whose U stream is the trowel sequencer's. -/
structure CourseLine where
  course : Nat
  stream : Nat
  keys : List QKey
  deriving DecidableEq, Repr

/-! ## Inside a pier -/

/-- The registers the image sets on a pier (R548), each whole. -/
structure PierCfg where
  fpMode : U64
  spill : U64
  predAudit : U64
  bondLo : U64
  bondHi : U64
  linkShare : U64
  gStanding : U64
  sleep : U64
  routine : U64
  seedG : U64
  seedF : U64
  seedB : U64
  seedU : U64
  statsBase : U64
  statsCount : U64
  sparseBase : U64
  tableBase : U64
  paramBase : U64
  paramRange : U64
  progBase : U64
  normBase : U64
  fprintBase : U64
  ckptBase : U64
  ckptCxl : U64
  keyStep : U64
  bedSplit : U64
  deriving DecidableEq, Repr

/-- A line that a course's bed caches may hold (R88, R374 to R376): its address; by bit, the cores whose cache may hold it as
memory does; and the contents it had before each later write, with the cores whose cache may still hold those. -/
structure BedLine where
  course : Nat
  line : Nat
  held : Nat
  olds : List (Nat × List Byte)
  deriving DecidableEq, Repr

/-- A mortar-cache line (R377 to R379): way in its set, dirty, sharer mask of the nine mason cores, and for a dirty line of
a CXL window the bytes the device still holds (R392). -/
structure MortLine where
  line : Nat
  way : Nat
  dirty : Bool
  sharers : Nat
  under : Option (List Byte)
  deriving DecidableEq, Repr

/-- A core's activation table store (R305, R314): available, and the 32 KiB it loaded (no entry zero). -/
structure TableStore where
  core : Nat
  avail : Bool
  bytes : List Host.Cell
  deriving DecidableEq, Repr

/-- One tile's work on one link of a chain (R103, R105): the number of the product part in its header's share, the round, the
chain, the link's number and whether it is the last, the course of the link before it, the first row of d and how many, the
bytes of the tile's values and of its position codes (R229), the columns of a core (N_i), and the K part. -/
structure WalkItem where
  prod : Nat
  round : Nat
  chain : Nat
  link : Nat
  last : Bool
  prev : Nat
  row0 : Nat
  rows : Nat
  values : Nat
  codes : Nat
  width : Nat
  part : Nat
  deriving DecidableEq, Repr

/-- A stationary buffer that holds a tile (R83 to R87): course, buffer number, stream, tiles loaded by it before, the queue whose
product and which tile of it; the values lie from offset 0, the codes of a 2-of-4 tile from `codesAt` (R229); `vals`, by core and
column of it, the codes at its K positions, none where it forms no product. -/
structure TileBuf where
  course : Nat
  buf : Nat
  stream : Nat
  tile : Nat
  q : QKey
  item : WalkItem
  codesAt : Nat
  vals : List (List (List (Option Nat)))
  deriving DecidableEq, Repr

/-- The running state of one row at one link (R104): the work it belongs to, its number, and by core and column the 12 bytes of
an element: the fp32 accumulator and the fp64 spill value, as codes. -/
structure RowState where
  item : WalkItem
  row : Nat
  elems : List (List (Nat × Nat))
  deriving DecidableEq, Repr

/-- A course's walk of a matrix product (R103 to R107, R233): the tiles still to be worked, the one at work first; rows of the first
that have started; states that have arrived in the corbel queue (R82); rows whose state
stands in the accumulators and the spill buffer until the next link takes it (R79, R83); rows that the last link has handed to the
drain (R105); whether tiles and row
bands wait on a list scan, the K parts it has closed here and the block rows it has closed. -/
structure Walk where
  course : Nat
  stream : Nat
  q : QKey
  items : List WalkItem
  next : Nat
  arrived : List RowState
  rows : List RowState
  done : List RowState
  needTile : Bool
  needBand : Bool
  ranges : Nat
  bands : Nat
  deriving DecidableEq, Repr

/-- What a mask rewrite carries (R276): d in the buffer it rewrites, the accepted blocks with their old positions, the new
blocks, whether it is a PRUNE, d's state tensors, and whether its share has met an absent and a foreign address (R372, R373). -/
structure RewriteJob where
  d : Tens
  policy : Nat
  accepted : List (Nat × Nat)
  keep : List Nat
  prune : Bool
  states : List Tens
  opcode : Nat
  tensor : Nat
  seen : Bool × Bool
  deriving DecidableEq, Repr

/-- A chisel job (R218): a row of a TOPK header, a finish pass on d with what its share has met as in `RewriteJob`, or a mask
rewrite. -/
inductive JobBody where
  | topk (row : Nat)
  | finish (d : Tens) (seen : Bool × Bool)
  | rewrite (r : RewriteJob)
  deriving DecidableEq, Repr

/-- A chisel job waiting or running: its queue, stream, the wall it is bound to (none: all four engines), its place in the
order of readiness, and the engine that has taken it. -/
structure Job where
  q : QKey
  body : JobBody
  wall : Option (Fin 4)
  order : Nat
  taken : Option (Fin 4)
  deriving DecidableEq, Repr

/-- An apply whose trowel shares have run and whose closing writes are still to be made (R339 step 7): its sums (R346) and
the fingerprint of each shard in the buffer written (R352); what its share has met as in `RewriteJob`. -/
structure ApplyJob where
  q : QKey
  d : Tens
  tensor : Nat
  epoch : Nat
  policy : Nat
  wSq : Nat
  gSq : Nat
  uSq : Nat
  fps : List (Nat × Nat)
  seen : Bool × Bool
  deriving DecidableEq, Repr

/-- A checkpoint that this pier is writing or draining as the source (R362 to R365). -/
structure CkptRun where
  q : QKey
  drain : Bool
  epoch : Nat
  policy : Nat
  records : Nat
  bytes : Nat
  tids : List Nat
  draining : Bool
  deriving DecidableEq, Repr

/-- A check line in a pier's check buffer (R383 to R385): 2 × stripe, or 2 × stripe + 1 for check line 17; its 64 bytes; and by bit
the data lines whose 8 bytes have been written since the buffer last matched the device. -/
structure CheckLine where
  num : Nat
  bytes : List Byte
  written : Nat
  deriving DecidableEq, Repr

/-- The ascending runs that a core's access engine tracks, newest first: the highest line of each that a demand has fetched (R399). -/
structure EngineRuns where
  core : Nat
  tops : List Nat
  deriving DecidableEq, Repr

/-- A mason core as the rest of the module sees it: physical core, running, waiting for an interrupt, start entry, state
being saved for an exchange and since when, the last load's value, the last access fault (0 none, 1 load, 2 store, 3
fetch; R32, R491), and the line that a load-reserved holds (R371). -/
structure Mason where
  phys : Nat
  waits : Bool
  entry : Option Nat
  saving : Option Nat
  loaded : Nat
  faulted : Nat
  reserve : Option Nat
  deriving DecidableEq, Repr

/-- Who a keystone operation answers to (R50, R53, R410): nobody; d's element and the SIGNAL that waits; the access that read
the tas word; the host's write, told once it is visible (R455); the header whose completion the signal is. -/
inductive TasAnswer where
  | none
  | element (d : Tens) (q : QKey)
  | access (src : Source)
  | ack (src : Source)
  | signal (q : QKey)
  deriving DecidableEq, Repr

/-- A keystone operation on its way to a keystone (R412): requester port, kind (0 add, 1 set, 2 test-and-set), operand,
and who is answered. -/
structure KeyOp where
  key : Nat
  port : Nat
  kind : Nat
  operand : Nat
  answer : TasAnswer
  deriving DecidableEq, Repr

/-- A shard under divergence repair at its old owner (R356): tensor, entry, and the region whose sounding it waits for, none once
that has ended and a spare swap is awaited. -/
structure Repair where
  tensor : Nat
  shard : Nat
  unit : Option SUnit
  deriving DecidableEq, Repr

/-- A keystone operation that waits on a link's direction (link × 2 + direction) behind a cycle being replayed (R495, R496): the edges
of its route still before it, with their directions, and its keystone's pier. -/
structure LinkPacket where
  link : Nat
  rest : List (Nat × Nat)
  dest : PierId
  op : KeyOp
  deriving DecidableEq, Repr

/-- One pier. -/
structure Pier where
  cfg : PierCfg
  /-- Mortar domain running (R293, R433, R435). -/
  awake : Bool
  /-- PIER_STEP (R342). -/
  epoch : Nat
  policy : Nat
  /-- Bond position, 14 bits (R293). -/
  bondPos : Nat
  /-- PIER_CHAN_MAP (R382). -/
  chanMap : U64
  /-- Physical channel of a lasting fault that waits for the evacuation in progress (R388). -/
  evacNext : Option Nat
  /-- PIER_SPARE_STATUS (R493). -/
  spareStatus : U64
  /-- Program slots that the check at load found valid, one bit each (R335). -/
  progOk : Nat
  /-- PIER_CKPT_STATUS (R363). -/
  ckptPhase : Nat
  ckptDrainOk : Bool
  ckptLastEpoch : Nat
  ckpt : Option CkptRun
  /-- PIER_FP_FLUSHED (R166), PIER_NONFINITE (R206). -/
  fpFlushed : U64
  nonfinite : U64
  /-- Courses whose clocks run (R432). -/
  coursesAwake : List Nat
  /-- The tick in which each course, and the pier, was last busy or woken (R432, R433). -/
  courseStir : Table
  stirred : Nat
  /-- Stationary buffers in use, the walks of running products (R83 to R87, R103 to R106). -/
  tiles : List TileBuf
  walks : List Walk
  /-- What the courses run on each stream, in order (R82, R108). -/
  lines : List CourseLine
  /-- Bed caches (R374 to R376). -/
  bed : List BedLine
  /-- Mortar cache and the tree bits of its sets, by bank × 4,096 + set (R377). -/
  mortar : List MortLine
  plru : Table
  /-- Check buffer, most recently used first (R385), and the check lines that it has written to the devices, by number. -/
  checks : List CheckLine
  checkCells : List (Nat × List Byte)
  /-- Runs of the cores' access engines (R399). -/
  runs : List EngineRuns
  /-- Table stores that have been loaded (R305). -/
  stores : List TableStore
  /-- Draws taken by each generator since its reseed, by core × 272 + stream × 68 + lane (R177). -/
  draws : Table
  /-- Draws taken by each trowel lane since its reseed, by logical channel × 128 + lane (R338). -/
  trowelDraws : Table
  /-- Keystones by local number in their three copies (R484), their rotation pointers (sets at 2k, test-and-sets at 2k + 1), deferred
  test-and-sets in order, and operations arriving (R410, R412). -/
  keys : Table
  keys1 : Table
  keys2 : Table
  keyRot : Table
  keyDeferred : List KeyOp
  keyArriving : List KeyOp
  /-- Discarded submissions since the last read, by stream (R369). -/
  submitBad : Table
  /-- Chisel jobs waiting and running, and the count that orders them (R218). -/
  jobs : List Job
  jobCount : Nat
  /-- Applies to close (R339). -/
  applies : List ApplyJob
  /-- Mason cores by logical number. -/
  masons : List Mason
  /-- Physical core of each logical core of a physical course (physical course × 16 + core: physical + 1, 0 for its own number) and
  spare core of each physical course (physical + 1, 0 for 16, 18 for none) (R111). -/
  coreMap : Table
  coreSpare : Table
  /-- Physical course of each logical course and the spare course (R111), in the same coding (0 for 48, 50 for none). -/
  courseMap : Table
  courseSpare : Nat
  /-- Spare mason core, physical + 1 (0 for 8, 10 for none) (R490). -/
  masonSpare : Nat
  /-- Spare keystone behind a local keystone (index + 1) (R490). -/
  keySpare : Table
  /-- Mortar repair lines in use by bank (R490). -/
  repair : Table
  /-- Mortar ways retired from their set, one bit each by bank × 4,096 + set, and bit 16 for a set that is bypassed (R488,
  R490). -/
  waysOut : Table
  /-- Chisel engines whose jobs their partners take, one bit each (R488, R490). -/
  chiselOut : Nat
  /-- Lines with a hard error: physical channel, line, pilot tick (R488). -/
  hardErrors : List (Nat × Nat × Nat)
  /-- Soundings of a physical core, course or mason core: its number, pilot tick (R488). -/
  soundings : List (Nat × Nat)
  /-- Next repointing line by channel, mortar bank and bed bank (R404). -/
  repoint : Table
  /-- Tick of the last retraining by channel, plus one (R403), and of the last sounding of each idle spare (R489). -/
  retrained : Table
  routineAt : Table
  /-- Domains of this pier declared failed and not replaced: number as in `Domain` (R437, R493). -/
  failed : List Nat
  /-- Shards under divergence repair (R356, R357). -/
  repairing : List Repair
  /-- The tensor of the descriptor by which the pier knows a parameter, by tensor id (R353, R355, R362; log 30). -/
  known : List (Nat × Tens)
  deriving DecidableEq, Repr

/-! ## Quoins and ports -/

/-- A CXL port (R389 to R392). -/
structure CxlPort where
  present : Bool
  linkUp : Bool
  registered : Bool
  truncated : Bool
  refused : Bool
  width : Nat
  speed : Nat
  sizeMib : Nat
  deriving DecidableEq, Repr

/-- One block-update of the deferral queue (R349), with the tensors that its header read (R117). -/
structure DeferEntry where
  d : Tens
  a : Tens
  port : Nat
  tensor : Nat
  apply : Bool
  last : Bool
  program : Nat
  first : Nat
  epoch : Nat
  policy : Nat
  stream : QKey
  hyper : List Nat
  grads : List Nat
  bound : List (Option Tens)
  deriving DecidableEq, Repr

/-- A quoin's trowel block (R351, R493): queue base, queue, entries waiting for room, draws of its trowel lanes, entries
placed since start, the share draining is being discarded or found no pending accumulation (R350), its norm sums as fp64
codes by lane × 3 + sum (R346), partner bits, and the trowels whose work their partners take while they are sounded (R488). -/
structure Quoin where
  deferBase : U64
  queue : List DeferEntry
  placing : List DeferEntry
  placed : Nat
  draws : Table
  discard : Bool
  fresh : Bool
  sums : Table
  spare : U64
  out : Nat
  deriving DecidableEq, Repr

/-- A message from the module to a host (R452, R453): type, tag, status byte at +8, payload. -/
structure OutMsg where
  mtype : Nat
  tag : Nat
  status : Nat
  payload : List Byte
  deriving DecidableEq, Repr

/-- A keystone watch (R460): its watch tag, and the tag of its message, which its record echoes (R452). -/
structure Watch where
  key : Nat
  cond : Nat
  value : Nat
  push : Nat
  pushLen : Nat
  tag : Nat
  mtag : Nat
  met : Bool
  deriving DecidableEq, Repr

/-- A data flit in a replay buffer: its sequence number, its 238 payload bytes and how often it has been sent (R450). -/
structure TxFlit where
  seq : Nat
  payload : List Byte
  sends : Nat
  deriving DecidableEq, Repr

/-- A Plumbline port (R440 to R465). -/
structure Port where
  /-- PLMB_STATUS (R446), whose link_up is train_state 5. -/
  present : Bool
  trainState : Nat
  reversed : Bool
  spareUsed : Bool
  retired : Nat
  width : Nat
  rate : Nat
  bound : Bool
  hostId : Nat
  /-- Context id of the binding (R462, R480). -/
  context : Nat
  /-- The link is up, or is being retrained with what it holds kept (R451). -/
  linked : Bool
  /-- Physical lanes that have failed and wait for a retrain, those that have, bytes corrected by physical lane with the number of their flit,
  flits received (R446). -/
  laneFails : List Nat
  badLanes : List Nat
  laneErrors : List (Nat × Nat)
  flits : Nat
  /-- Which rate and width pair is being tried, the preset that the port asks of its partner, and the one that the partner has asked for
  (R443, R444). -/
  trying : Nat
  preset : Nat
  txPreset : Nat
  /-- Sequence states of the logical lanes, sent and received (R441), and the symbols of the last flit on the nine lanes (R440). -/
  txScr : List Nat
  rxScr : List Nat
  lineOut : List (List Nat)
  /-- The training flits that the port last sent and last received, by physical lane (R444). -/
  trainSent : List (List Byte)
  trainGot : List (List Byte)
  /-- Next sequence number, replay buffer, ticks of the last three quick retrains without progress, newest first, bytes waiting for the
  buffer, flits since the last idle one, header of the last flit sent (R442, R450, R451). -/
  txSeq : Nat
  replay : List TxFlit
  retrains : List Nat
  backlog : List Byte
  sinceIdle : Nat
  txHdr : Nat
  /-- Expected sequence number, whether any flit has been accepted, flits accepted since the last ack, an ack owed, a nak sent
  for the gap at hand, payload bytes not yet a whole message (R450, R452). -/
  rxExpected : Nat
  rxAny : Bool
  rxSinceAck : Nat
  ackOwed : Bool
  nakSent : Bool
  rxBytes : List Byte
  /-- Messages that wait behind a held submission (R455), marked when their host has departed. -/
  inbox : List (Bool × List Byte)
  /-- Credits the module holds and those it owes, by queue 0 to 3, and messages held for want of one (R454). -/
  credits : Table
  owed : Table
  held : List OutMsg
  /-- Messages handed to the link, oldest first (the model's own record of what the host is sent). -/
  sent : List OutMsg
  watches : List Watch
  /-- Deliveries wait for a link since the main supply was lost (R509, R511). -/
  waits : Bool
  deriving DecidableEq, Repr

/-! ## Management -/

/-- One Skovlaper (R501 to R506): its firmware runs; SKOV_ROLE and SKOV_WDOG, the tick its watchdog window began; boots
so far (the model's own count, for free values), keys derived from its PUF (R528), floors in force and whether unauthenticated (R516, R518), version and
measurement of its firmware (R521), the value that its last register read returned, and the status of its last register access
(R12). -/
structure Skov where
  up : Bool
  active : Bool
  peerReady : Bool
  peerRecovery : Bool
  recovery : Bool
  fwCopy : Nat
  takeovers : Nat
  wdogMs : Nat
  kickTick : Nat
  expiries : Nat
  boots : Nat
  keys : Bool
  fwFloor : Nat
  imageFloor : Nat
  floorUnauth : Bool
  fwVersion : Nat
  fwMeas : List Byte
  answer : Nat
  status : Nat
  deriving DecidableEq, Repr

/-- A firmware update session (R526): who opened it, target, total length, lowest offset still allowed, blocks of the target
erased, the bytes held in Skovlaper memory, tick of its last message. -/
structure Session where
  owner : Manager
  target : Nat
  length : Nat
  next : Nat
  erased : Nat
  head : List Byte
  lastTick : Nat
  deriving DecidableEq, Repr

/-- An error or event record (R497). -/
structure Record where
  kind : Nat
  cls : Nat
  severity : Nat
  unitKind : Nat
  response : Nat
  unit : Nat
  seq : Nat
  stamp : Nat
  address : Nat
  die : Nat
  opcode : Nat
  physical : Nat
  count : Nat
  detail0 : Nat
  detail1 : Nat
  number : Nat
  deriving DecidableEq, Repr

/-- An admitted request (R423 to R426, R504): its number, port, class, id, tag, arrival and promised ticks, headers of its
program still to complete and completed, whether one ended in error, the completion tick of the last, whether its late
notice was issued, whether its program met a failed domain, the cause and unit of a late notice (R427), and whether its
host has departed (R465). -/
structure Request where
  number : Nat
  port : PortId
  cls : Nat
  id : Nat
  tag : Nat
  arrival : Nat
  promised : Nat
  todo : Nat
  done : Nat
  error : Bool
  completed : Option Nat
  delivered : Bool
  failed : Bool
  cause : Nat
  unit : Nat
  departed : Bool
  deriving DecidableEq, Repr

/-- A request that has reached the admission unit and is not decided: its port, the tag of its message and its 16 bytes (R421, R459). -/
structure AdmitWait where
  port : PortId
  tag : Nat
  payload : List Byte
  deriving DecidableEq, Repr

/-- A unit being sounded: since when, whether a margin monitor tripped, and the physical unit out of service once a spare
stands in for it (R487, R488): of a core, 32 × its physical course + the core. -/
structure Sounding where
  unit : SUnit
  start : Nat
  margin : Bool
  old : Option Nat
  deriving DecidableEq, Repr

/-- Supplies, pins and the power state (R510, R511, R534, R535). -/
structure Power where
  standby : Bool
  main : Bool
  shortPin : Bool
  pwrDis : Bool
  regulators : Bool
  heldDown : Bool
  tripped : Bool
  tripSensor : Nat
  deriving DecidableEq, Repr

/-- The function state and the loaded image (R467, R472); `ever`: an image has loaded since power-on (R462). `stopStep`, 0
while not stopping, `stopAbort` and the tick at which the wait of step 3 began (R478); `downAfter`: the main regulators
go off once stopped (R525). `waitSince`: the tick at which step 9 of start-up began (R469). -/
structure Func where
  state : Nat
  slot : Nat
  checkA : Nat
  checkB : Nat
  generation : Nat
  context : Nat
  loaded : Bool
  ever : Bool
  imageSv : Nat
  keySlot : Nat
  policyBase : Nat
  imageMeas : List Byte
  cxlWait : Nat
  cxlTimeout : Nat
  waitSince : Nat
  stopStep : Nat
  stopAbort : Bool
  stopSince : Nat
  downAfter : Bool
  deriving DecidableEq, Repr

/-- The module. -/
structure State where
  /-- Commands waiting, first in first out (the model's own). -/
  pending : List Instr
  /-- Counter of free values (the model's own; log 5). -/
  free : Nat
  /-- The pilot time count (R7, R35). -/
  tick : Nat
  power : Power
  func : Func
  /-- Memory as the home mortars show it: GDDR 7 and CXL windows (R367, R380). -/
  mem : List Host.Cell
  /-- Poisoned lines, by line address, rising (R386). -/
  poison : List Nat
  piers : Vector Pier 8
  quoins : Vector Quoin 4
  cxl : Vector CxlPort 8
  ports : Vector Port 2
  skovs : Vector Skov 2
  /-- RC counters by register address (R550). -/
  counters : Table
  /-- Stream queues that hold headers, submissions that wait (R24, R82, R369). -/
  queues : List Queue
  waitingSubs : List WaitingSub
  /-- The module sequencer on quoin C is active (R17). -/
  seqOnC : Bool
  /-- Step keystone: base, and the tick of a completion not yet applied (R416). -/
  stepBase : Nat
  stepDone : Option Nat
  /-- U headers that have run since start, by pier (R387 step 5). -/
  uRan : Table
  /-- Links: spares used by (link × 2 + direction) × 10 + group; failed sends of the oldest cycle by link and direction;
  CRC-8 failures by group with the link cycle of each; link cycles received; retired links; links out of rotation for a test; rotation of an edge by
  edge × 2 + direction (R22, R23, R495). -/
  laneSpares : Table
  linkFails : Table
  groupFails : List (Nat × Nat)
  linkCycles : Table
  retired : List Nat
  testing : List Nat
  edgeRot : Table
  /-- The cycles that a link's sending end keeps for replay, by link × 2 + direction, oldest first (R495). -/
  linkKept : List (Nat × List Byte)
  /-- Keystone operations that wait on links, in order (R496). -/
  linkHeld : List LinkPacket
  /-- Crossings by the number of the domain they lead into: entries that the sending side holds (R429, R430, R434) and, at 1,000 + that
  number, the tick, plus one, since which they have waited (R437); and the queue pointer, entries delivered modulo 16 (R428, R430). -/
  crossHeld : Table
  crossPtr : Table
  /-- Promise table: word w of class c at 8c + w (R418). -/
  promises : Table
  /-- Commitment ticks by pier (R424), acceptances by class since start (R425), requests, requests numbered so far. -/
  commit : Table
  accepts : Table
  requests : List Request
  requestCount : Nat
  /-- Requests of the tick that have arrived and are still to be decided, and the rotation's next port (R421). -/
  admits : List AdmitWait
  admitRot : Nat
  /-- Of what waits at both Plumbline ports, the port that the rotation serves first (R409). -/
  portRot : Nat
  /-- Decisions that the standby has made and the active has not sent: the request and the delivery (R504). -/
  unsent : List (Request × List Byte)
  /-- Units being sounded (R487). -/
  sounding : List Sounding
  /-- Units left in service with a lasting fault or served by a partner, by pier (R493). -/
  degraded : List Nat
  /-- Sensors: value as 32-bit two's complement, level, valid, tick at which the present level's limit was met (R507, R508). -/
  sensorValue : Table
  sensorLevel : Table
  sensorValid : Table
  sensorSince : Table
  /-- Records held before writing with the tick each was made, the two logs' records as their 64 bytes in flash, the next number (R498,
  R499). -/
  held : List (Nat × Record)
  log0 : List (List Byte)
  log1 : List (List Byte)
  recordCount : Nat
  /-- Flash devices 0 and 1: bytes written, by offset, and blocks of the management region that have been erased since the
  module was shipped (R471, R512, R546). -/
  flash0 : List Host.Cell
  flash1 : List Host.Cell
  erased0 : List Nat
  erased1 : List Nat
  session : Option Session
  /-- Answers for the SMBus controller, by command code (R527). -/
  smbus : List (Nat × List Byte)
  deriving DecidableEq, Repr

/-! ## Reset -/

/-- Image-set registers at reset (R84, R165, R191, R250, R291, R395, R420, R431, R489 and the tables of 10). -/
def PierCfg.reset : PierCfg where
  fpMode := 0
  spill := 12
  predAudit := 6
  bondLo := 0
  bondHi := 0
  linkShare := 0x0808_0820
  gStanding := 0
  sleep := 0xC350_0010
  routine := 1
  seedG := 0
  seedF := 0
  seedB := 0
  seedU := 0
  statsBase := 0
  statsCount := 0
  sparseBase := 0
  tableBase := 0
  paramBase := 0
  paramRange := 0
  progBase := 0
  normBase := 0
  fprintBase := 0
  ckptBase := 0
  ckptCxl := 0
  keyStep := 0
  bedSplit := 0x15

/-- A logical mason core before an image starts it: on its own physical core, waiting (R474). -/
def Mason.reset (n : Nat) : Mason := ⟨n, true, none, none, 0, 0, none⟩

def Pier.reset : Pier where
  cfg := .reset
  awake := false
  epoch := 0
  policy := 0
  bondPos := 0
  chanMap := 0x001A_C688
  evacNext := none
  spareStatus := 0
  progOk := 0
  ckptPhase := 0
  ckptDrainOk := false
  ckptLastEpoch := 0
  ckpt := none
  fpFlushed := 0
  nonfinite := 0
  coursesAwake := []
  courseStir := []
  stirred := 0
  tiles := []
  walks := []
  lines := []
  bed := []
  mortar := []
  plru := []
  checks := []
  checkCells := []
  runs := []
  stores := []
  draws := []
  trowelDraws := []
  keys := []
  keys1 := []
  keys2 := []
  keyRot := []
  keyDeferred := []
  keyArriving := []
  submitBad := []
  jobs := []
  jobCount := 0
  applies := []
  masons := (List.range 8).map Mason.reset
  coreMap := []
  coreSpare := []
  courseMap := []
  courseSpare := 0
  masonSpare := 0
  keySpare := []
  repair := []
  waysOut := []
  chiselOut := 0
  hardErrors := []
  soundings := []
  repoint := []
  retrained := []
  routineAt := []
  failed := []
  repairing := []
  known := []

def CxlPort.reset : CxlPort := ⟨false, false, false, false, false, 0, 0, 0⟩

def Quoin.reset : Quoin := ⟨0, [], [], 0, [], false, false, [], 0, 0⟩

def Port.reset : Port where
  present := false
  trainState := 0
  reversed := false
  spareUsed := false
  retired := 15
  width := 0
  rate := 0
  bound := false
  hostId := 0
  context := 0
  linked := false
  laneFails := []
  badLanes := []
  laneErrors := []
  flits := 0
  trying := 0
  preset := 0
  txPreset := 0
  txScr := []
  rxScr := []
  lineOut := []
  trainSent := []
  trainGot := []
  txSeq := 0
  replay := []
  retrains := []
  backlog := []
  sinceIdle := 0
  txHdr := 0
  rxExpected := 0
  rxAny := false
  rxSinceAck := 0
  ackOwed := false
  nakSent := false
  rxBytes := []
  inbox := []
  credits := []
  owed := []
  held := []
  sent := []
  watches := []
  waits := false

/-- A Skovlaper at power-on: active on quoin B, standby on quoin D (R502). -/
def Skov.reset (d : Bool) : Skov where
  up := false
  active := !d
  peerReady := false
  peerRecovery := false
  recovery := false
  fwCopy := 0
  takeovers := 0
  wdogMs := 100
  kickTick := 0
  expiries := 0
  boots := 0
  keys := false
  fwFloor := 0
  imageFloor := 0
  floorUnauth := false
  fwVersion := 0
  fwMeas := []
  answer := 0
  status := 0

/-- Off: no supply (R510); P1 mated, PWR_DIS pulled up on the module and open (R535). -/
def Power.reset : Power := ⟨false, false, true, true, false, false, false, 0⟩

def Func.reset : Func where
  state := 0
  slot := 0
  checkA := 0
  checkB := 0
  generation := 0
  context := 0
  loaded := false
  ever := false
  imageSv := 0
  keySlot := 0
  policyBase := 0
  imageMeas := []
  cxlWait := 0
  cxlTimeout := 0
  waitSince := 0
  stopStep := 0
  stopAbort := false
  stopSince := 0
  downAfter := false

/-- The module as shipped, without supplies, every register at its reset value (R546, R510; log 2). -/
def State.reset : State where
  pending := []
  free := 0
  tick := 0
  power := .reset
  func := .reset
  mem := []
  poison := []
  piers := Vector.replicate 8 .reset
  quoins := Vector.replicate 4 .reset
  cxl := Vector.replicate 8 .reset
  ports := Vector.replicate 2 .reset
  skovs := #v[.reset false, .reset true]
  counters := []
  queues := []
  waitingSubs := []
  seqOnC := false
  stepBase := 0
  stepDone := none
  uRan := []
  laneSpares := []
  linkFails := []
  groupFails := []
  linkCycles := []
  retired := []
  testing := []
  edgeRot := []
  linkKept := []
  linkHeld := []
  crossHeld := []
  crossPtr := []
  promises := []
  commit := []
  accepts := []
  requests := []
  requestCount := 0
  admits := []
  admitRot := 0
  portRot := 0
  unsent := []
  sounding := []
  degraded := []
  sensorValue := []
  sensorLevel := []
  sensorValid := []
  sensorSince := []
  held := []
  log0 := []
  log1 := []
  recordCount := 0
  flash0 := []
  flash1 := []
  erased0 := []
  erased1 := []
  session := none
  smbus := []

end Sys2Proof.Machine
end

