-- ==== Sys2Proof/Machine/Lanes.lean ====
section
/-! DEFINITION. The lanes of a Plumbline port: symbols and scrambling (R440, R441), the lanes that carry data (R445, R446), and a flit
sent over them (R442, R447 to R449). -/

namespace Sys2Proof.Machine

/-! ## Symbols and scrambling (R440, R441) -/

/-- The PAM4 level of a bit pair, by Gray mapping. -/
def pamLevel (pair : Nat) : Nat :=
  match pair % 4 with
  | 0 => 0
  | 1 => 1
  | 3 => 2
  | _ => 3

/-- The four symbols of a byte, pair [1:0] first. -/
def symbols (b : Byte) : List Nat := [0, 2, 4, 6].map fun i => pamLevel (b.toNat >>> i)

/-- A lane's sequence state when Config ends. -/
def prbsSeed (lane : Nat) : Nat := 0x7FFF_FFFF ^^^ lane

/-- The next eight bits of x^31 + x^28 + 1 from a state, the first the highest; the state holds the last 31 bits, the newest lowest
(DESIGN CHOICE: the sequence is what is fed back; log 103). -/
def prbsBits (s : Nat) : Nat := (s >>> 23 ^^^ s >>> 20) % 256
def prbsNext (s : Nat) : Nat := (256 * s + prbsBits s) % 2 ^ 31

/-- Eight bits in the other order: a byte's bit 0 is the first on its lane. -/
def flipBits (z : Nat) : Nat := (List.range 8).foldl (fun n i => n + z / 2 ^ i % 2 * 2 ^ (7 - i)) 0

/-- The bytes of a flit with the sequences of their lanes added, byte i on logical lane i mod w; and the lanes' next states. Applied to
what it gives, with the same states, it gives the bytes back. -/
def scramble (w : Nat) (scr : List Nat) (flit : List Byte) : List Byte × List Nat :=
  let r := flit.foldl (fun (a : List Byte × List Nat × Nat) b =>
    let lane := a.2.2 % max 1 w
    let s := a.2.1.getD lane 0
    ((b ^^^ BitVec.ofNat 8 (flipBits (prbsBits s))) :: a.1, a.2.1.set lane (prbsNext s), a.2.2 + 1)) ([], scr, 0)
  (r.1.reverse, r.2.1)

/-! ## The lanes in use (R445, R446) -/

/-- The physical lanes in the order of the logical ones, the spare in the place of the lane that it stands for. -/
def Port.laneOrder (p : Port) : List Nat :=
  (List.range 8).map fun l =>
    let i := if p.reversed then 7 - l else l
    if p.spareUsed && p.retired == i then 8 else i

/-- Those of them that work; at x4 the first four carry data (DESIGN CHOICE; log 103). -/
def Port.goodLanes (p : Port) : List Nat := p.laneOrder.filter fun i => !p.badLanes.contains i
def Port.lanes (p : Port) : List Nat := if p.width == 8 then p.laneOrder else p.goodLanes.take 4

/-- Whether the lanes that work allow a width. -/
def Port.allows (p : Port) (width : Nat) : Bool := p.goodLanes.length ≥ width

/-- A physical lane lost: the spare takes its place where it can (R446). -/
def Port.loseLane (p : Port) (lane : Nat) : Port :=
  if p.badLanes.contains lane then p
  else
    let take := lane < 8 && !p.spareUsed && !p.badLanes.contains 8
    { p with
      badLanes := p.badLanes ++ [lane], spareUsed := p.spareUsed || take, retired := if take then lane else p.retired }

/-- The symbols of a flit's bytes on the nine lanes, as the lanes in use carry them. -/
def Port.onLanes (p : Port) (flit : List Byte) : List (List Nat) :=
  (List.range 9).map fun i =>
    if !p.lanes.contains i then []
    else (List.range (flit.length / max 1 p.width)).flatMap fun k => symbols (flit.getD (k * p.width + p.lanes.idxOf i) 0)

/-- Lanes' sequences seeded as Config ends, both ways. -/
def Port.seeded (p : Port) : Port := { p with txScr := (List.range 8).map prbsSeed, rxScr := (List.range 8).map prbsSeed }

/-! ## A flit sent (R442, R447 to R449) -/

/-- The header of a flit (R449): kind, seq, and the ack and nak that it carries. -/
def Port.flitHdr (p : Port) (kind seq : Nat) : Nat :=
  kind + 4 * seq + (if p.rxAny then 2 ^ 14 * subMod 4096 p.rxExpected 1 + 2 ^ 26 else 0) + 2 ^ 27 * b2n p.nakSent

/-- One flit on the lanes, which carries the ack that is owed. -/
def Port.sendOne (p : Port) (kind seq : Nat) (payload : List Byte) : Port :=
  let h := p.flitHdr kind seq
  let r := scramble p.width p.txScr (buildFlit h payload)
  { p with
    txHdr := h, ackOwed := false, rxSinceAck := 0, txScr := r.2, lineOut := p.onLanes r.1
    sinceIdle := if kind == 0 then 0 else p.sinceIdle + 1 }

/-- An idle flit; a data flit, new or again, behind an idle one where none has gone for 2,047 flits (R442). -/
def Port.sendIdle (p : Port) : Port := p.sendOne 0 0 []
def Port.sendData (p : Port) (seq : Nat) (payload : List Byte) : Port :=
  (if p.sinceIdle ≥ 2047 then p.sendIdle else p).sendOne 1 seq payload

end Sys2Proof.Machine
end

