-- ==== Sys2Proof/Machine/Ops.lean ====
section
/-! DEFINITION. The shared operations over the state: parts of the state, memory and its caches (11_memory_system.md), the
address map, counters, records, messages to hosts, routes between piers and keystone operations on their way. -/

namespace Sys2Proof.Machine

/-! ## Parts of the state -/

def State.pier (s : State) (p : PierId) : Pier := s.piers[p]
def State.updPier (s : State) (p : PierId) (f : Pier → Pier) : State := { s with piers := s.piers.set p (f s.piers[p]) }
def State.quoin (s : State) (q : QuoinId) : Quoin := s.quoins[q]
def State.updQuoin (s : State) (q : QuoinId) (f : Quoin → Quoin) : State := { s with quoins := s.quoins.set q (f s.quoins[q]) }
def State.port (s : State) (p : PortId) : Port := s.ports[p]
def State.updPort (s : State) (p : PortId) (f : Port → Port) : State := { s with ports := s.ports.set p (f s.ports[p]) }
def State.cxlPort (s : State) (q : Fin 8) : CxlPort := s.cxl[q]
def State.updCxl (s : State) (q : Fin 8) (f : CxlPort → CxlPort) : State := { s with cxl := s.cxl.set q (f s.cxl[q]) }
/-- Skovlaper of quoin B (`false`) or D (`true`). -/
def skovIx (d : Bool) : Fin 2 := if d then 1 else 0
def State.skov (s : State) (d : Bool) : Skov := s.skovs[skovIx d]
def State.updSkov (s : State) (d : Bool) (f : Skov → Skov) : State :=
  { s with skovs := s.skovs.set (skovIx d) (f s.skovs[skovIx d]) }

/-- The active Skovlaper is quoin D's (R502). -/
def State.activeD (s : State) : Bool := (s.skov true).active && !(s.skov false).active

/-- A pier number from a word's low three bits. -/
def pierOf (n : Nat) : PierId := ⟨n % 8, Nat.mod_lt _ (by decide)⟩
def quoinOf (n : Nat) : QuoinId := ⟨n % 4, Nat.mod_lt _ (by decide)⟩
def portOf (n : Nat) : PortId := ⟨n % 2, Nat.mod_lt _ (by decide)⟩
def cxlOf (n : Nat) : Fin 8 := ⟨n % 8, Nat.mod_lt _ (by decide)⟩
def streamOf (n : Nat) : Fin 4 := ⟨n % 4, Nat.mod_lt _ (by decide)⟩

def allPiers : List PierId := [0, 1, 2, 3, 4, 5, 6, 7]
def allPorts : List PortId := [0, 1]

/-- A fresh free value and the state with its counter advanced (log 5). -/
def State.takeFree (s : State) : Nat × State := (Config.freeNat s.free, { s with free := s.free + 1 })

/-! ## The address map (R30, R367, R368) -/

/-- The corner pier of a quoin (R15). -/
def cornerPier : QuoinId → PierId
  | 0 => 0 | 1 => 3 | 2 => 7 | 3 => 4

/-- The quoin whose corner pier a pier is (R15). -/
def cornerQuoin (p : PierId) : Option QuoinId :=
  if p == 0 then some 0 else if p == 3 then some 1 else if p == 7 then some 2 else if p == 4 then some 3 else none

/-- The quoin of a CXL port (R16). -/
def cxlQuoin (q : Fin 8) : QuoinId := quoinOf (q.val / 2)

/-- The quoin of a Plumbline port (R16). -/
def portQuoin (p : PortId) : QuoinId := if p == 0 then 0 else 2

/-- What an address names: a GDDR 7 byte of a pier, a present byte of a CXL window, an offset of a control block, or
nothing (R367). -/
inductive Place where
  | gddr (p : PierId) (off : Nat)
  | cxl (q : Fin 8) (off : Nat)
  | control (p : PierId) (off : Nat)
  | absent
  deriving DecidableEq, Repr

def gddrBase (p : PierId) : Nat := 0x4_0000_0000 * p.val
def cxlBase (q : Fin 8) : Nat := 0x1000_0000_0000 + 0x200_0000_0000 * q.val
def controlBase (p : PierId) : Nat := 0xF_FF00_0000_0000 + 0x100_0000 * p.val

/-- Bytes of a port's window that are present (R390). -/
def CxlPort.bytes (c : CxlPort) : Nat := if c.registered then 0x10_0000 * c.sizeMib else 0

/-- CXLP_STATUS (R390). -/
def CxlPort.word (c : CxlPort) : Nat :=
  b2n c.present + b2n c.linkUp * 2 + b2n c.registered * 4 + b2n c.truncated * 8 + b2n c.refused * 16 + 2 ^ 8 * c.width +
  2 ^ 13 * c.speed + 2 ^ 32 * c.sizeMib

def State.place (s : State) (a : Nat) : Place :=
  let a := wrap52 a
  if a < 0x20_0000_0000 then .gddr (pierOf (a / 0x4_0000_0000)) (a % 0x4_0000_0000)
  else if 0x1000_0000_0000 ≤ a && a < 0x2000_0000_0000 then
    let q := cxlOf ((a - 0x1000_0000_0000) / 0x200_0000_0000)
    let off := (a - 0x1000_0000_0000) % 0x200_0000_0000
    if off < (s.cxlPort q).bytes then .cxl q off else .absent
  else if 0xF_FF00_0000_0000 ≤ a && a < 0xF_FF00_0800_0000 then
    .control (pierOf ((a - 0xF_FF00_0000_0000) / 0x100_0000)) ((a - 0xF_FF00_0000_0000) % 0x100_0000)
  else .absent

/-- The home pier of a memory address (R30); none for a control block or an absent address. -/
def State.memHome (s : State) (a : Nat) : Option PierId :=
  match s.place a with
  | .gddr p _ => some p
  | .cxl q _ => some (cornerPier (cxlQuoin q))
  | _ => none

/-- What an operand access at a pier meets (R370, R372, R373). -/
inductive Reach where
  | ok
  | absent
  | foreign
  deriving DecidableEq, Repr

def State.reach (s : State) (p : PierId) (a : Nat) : Reach :=
  match s.memHome a with
  | none => .absent
  | some h => if h == p then .ok else .foreign

/-! ## Memory in canonical form -/

/-- A byte of memory; an unlisted address reads zero (log 3). -/
def memGet : List Host.Cell → Nat → Byte
  | [], _ => 0
  | (k, v) :: t, a => if k == a then v else memGet t a

/-- Memory with one byte written: addresses stay rising and no entry holds the unlisted value. -/
def memSet : List Host.Cell → Nat → Byte → List Host.Cell
  | [], a, b => if b == 0 then [] else [(a, b)]
  | (k, v) :: t, a, b =>
    if a < k then (if b == 0 then (k, v) :: t else (a, b) :: (k, v) :: t)
    else if a == k then (if b == 0 then t else (a, b) :: t)
    else (k, v) :: memSet t a b

/-- The canonical form: addresses above a bound and strictly rising, no entry zero. -/
def memWfFrom : Nat → List Host.Cell → Bool
  | _, [] => true
  | lo, (k, v) :: t => lo ≤ k && v != 0 && memWfFrom (k + 1) t

def Memory.wf (m : List Host.Cell) : Bool := memWfFrom 0 m

/-- Bytes written upward from an address, on the 2^52 circle (R116). -/
def memWrite (m : List Host.Cell) (a : Nat) : List Byte → List Host.Cell
  | [] => m
  | b :: bs => memWrite (memSet m (wrap52 a) b) (a + 1) bs

/-- n bytes read upward from an address, on the 2^52 circle. -/
def memRead (m : List Host.Cell) (a : Nat) : Nat → List Byte
  | 0 => []
  | n + 1 => memGet m (wrap52 a) :: memRead m (a + 1) n

/-- A byte as the module reads it by a path that is no operand access: zero where no memory is present (R564). -/
def State.rawByte (s : State) (a : Nat) : Byte := if (s.memHome a).isSome then memGet s.mem (wrap52 a) else 0

def State.rawBytes (s : State) (a : Nat) : Nat → List Byte
  | 0 => []
  | n + 1 => s.rawByte a :: s.rawBytes (a + 1) n

/-- A little-endian word of n bytes by the same path. -/
def State.rawWord (s : State) (a n : Nat) : Nat := ofBytes (s.rawBytes a n)

/-! ## Counters (R550, R551) -/

def pierReg (p : PierId) (w : Nat) : Nat := controlBase p + 0x20_0000 + w
def pierCtr (p : PierId) (k : Nat) : Nat := pierReg p (0x400 + 8 * k)
def quoinReg (q : QuoinId) (w : Nat) : Nat := controlBase (cornerPier q) + 0x80_0000 + w
def courseReg (c : CourseId) (w : Nat) : Nat := pierReg c.pier (0x10_0000 + 0x4000 * c.course.val + w)
def layoutAnomaly (c : CourseId) : Nat := courseReg c 0x2008
def formatAnomaly (c : CourseId) : Nat := courseReg c 0x2010
def chanReg (p : PierId) (ch w : Nat) : Nat := pierReg p (0x1_0000 + 0x1000 * ch + w)
def cxlReg (q : Fin 8) (w : Nat) : Nat := quoinReg (cxlQuoin q) (0x100 * (q.val % 2) + w)
def trwReg (q : QuoinId) (w : Nat) : Nat := quoinReg q (0x200 + w)
def plmbReg (p : PortId) (w : Nat) : Nat := quoinReg (portQuoin p) (0x400 + w)
def skovReg (d : Bool) (w : Nat) : Nat := quoinReg (if d then 3 else 1) (0x1000 + w)

/-- Indices of the pier counters (R551). -/
def kUnitAnomaly := 0
def kHdrAnomaly := 1
def kTagAnomaly := 2
def kStatsSkipped := 3
def kTopkTrunc := 4
def kBadRange := 5
def kBadOrder := 6
def kMalformed := 7
def kDrops := 8
def kOverflow := 9
def kAudited := 10
def kUnserved := 11
def kMiss := 12
def kRewrites := 13
def kDropped := 14
def kAdded := 15
def kNoop := 16
def kFallback := 17
def kTableWait := 18
def kTableAnomaly := 19
def kStaleGrad := 20
def kUpdApplied := 21
def kUpdIdentity := 22
def kUpdFrozen := 23
def kUpdNoentry := 24
def kUpdDouble := 25
def kReplicaRepair := 26
def kOwnerMove := 27
def kShardLost := 28
def kExportShort := 29
def kCkptShort := 30
def kAbsent := 31
def kForeign := 32
def kSubmitBad := 33
def kPoisonRead := 34
def kDropAbsent := 35
def kDropNospec := 36
def kDropForeign := 37
def kDropCxl := 38
def kDropError := 39
def kRepointFixed := 40
def kKeyBad := 41
def kSramCorrected := 42
def kSramUncorrected := 43
def kMarginTrip := 44
def kLinkReplay := 45
def kLaneTest := 46
def kReadHit := 47
def kReadMiss := 48
def kSpecFill := 49

/-- A counter advanced, stopping at all ones (R550). -/
def State.bump (s : State) (reg n : Nat) : State := { s with counters := s.counters.addSat reg n }
def State.bumpPier (s : State) (p : PierId) (k n : Nat) : State := s.bump (pierCtr p k) n

/-! ## Records (R497, R498) -/

/-- Whether a held record takes another occurrence (R498): of an event only the same event, since every change of a channel map is
written (R382; log 22). -/
def Record.merges (a b : Record) : Bool :=
  a.cls == b.cls && a.unitKind == b.unitKind && a.unit == b.unit && a.physical == b.physical && a.die == b.die &&
  (a.kind != 0x41 || (a.detail0 == b.detail0 && a.detail1 == b.detail1))

/-- A record handed to Skovlaper: merged into a held one, held, or dropped when the buffer is full (R498). Nothing is held
while no Skovlaper has power. -/
def State.log (s : State) (r : Record) : State :=
  if !s.power.standby then s
  else if s.held.any (fun h => h.2.merges r) then
    { s with held := replaceFirst (fun h => h.2.merges r) (fun h => (h.1, { h.2 with count := h.2.count + 1 })) s.held }
  else if s.held.length < Config.heldCap then { s with held := s.held ++ [(s.tick, r)] }
  else s.bump (skovReg s.activeD 0x40) 1

/-- An error record with the fields most rules give; the others zero. -/
def errorRecord (cls severity unitKind response unit stamp : Nat) : Record :=
  { kind := 0x40, cls := cls, severity := severity, unitKind := unitKind, response := response, unit := unit, seq := 0,
    stamp := stamp, address := 0, die := 0, opcode := 0, physical := 0, count := 1, detail0 := 0, detail1 := 0, number := 0 }

/-- An event record (R530): severity 0, unit_kind 13, no unit, die of the active Skovlaper's quoin (log 22). -/
def State.event (s : State) (code arg : Nat) : State :=
  s.log { errorRecord 0x0D 0 13 0 0xFFFF s.tick with
    kind := 0x41, die := if s.activeD then 11 else 9, detail0 := code, detail1 := arg }

/-- The pier-level unit address of a pier (R26). -/
def pierUnit (p : PierId) : Nat := 0x6000 + 0x400 * p.val
/-- The course-level unit address (R26). -/
def courseUnit (c : CourseId) : Nat := 0x2000 + 0x400 * c.pier.val + 0x100 * (c.course.val / 12) + 0x10 * (c.course.val % 12)
/-- The core-level unit address (R26, R178). -/
def coreUnit (c : CoreId) : Nat :=
  0x400 * c.pier.val + 0x100 * (c.course.val / 12) + 0x10 * (c.course.val % 12) + c.core.val

/-! ## Channels and their check buffer (R383 to R385) -/

/-- The end of the GDDR 7 windows (R367). -/
def gddrEnd : Nat := 0x20_0000_0000

/-- The physical channel that serves a pier offset (R382, R383). -/
def Pier.channelOf (p : Pier) (off : Nat) : Nat :=
  let ch := (off % 1024 / 64 + 2 * (off / 1024)) % 6
  fld p.chanMap.toNat (3 * ch + 2) (3 * ch)

/-- The check line of a data line, by number, and the data line's place among its eight (R383, R384). -/
def checkOf (line : Nat) : Nat × Nat :=
  let off := line % 0x4_0000_0000
  (off / 512, off % 512 / 64)

/-- The 8 check bytes of a data line: two for each of its codewords (R384). -/
def checkBytes (data : List Byte) : List Byte :=
  (List.range 4).flatMap fun w => leBytes 2 (Config.checkBits (leAt data (16 * w) 16))

/-- A check line as the device holds it: as last written; one never written fits lines of zeros (log 3). -/
def Pier.checkCell (p : Pier) (n : Nat) : List Byte :=
  match p.checkCells.find? (fun c => c.1 == n) with
  | some c => c.2
  | none => (List.replicate 8 (checkBytes (List.replicate 64 0))).flatten

/-- A check line as the controllers have it: in the buffer, or as the device holds it. -/
def Pier.checkAt (p : Pier) (n : Nat) : CheckLine :=
  (p.checks.find? fun c => c.num == n).getD ⟨n, p.checkCell n, 0⟩

/-- A check line written back, if it differs from the device's. -/
def Pier.putCheck (p : Pier) (c : CheckLine) : Pier :=
  if c.written == 0 then p
  else { p with checkCells := (c.num, c.bytes) :: p.checkCells.filter fun x => x.1 != c.num }

/-- A check line most recently used; the one that it displaces is written back (R385). -/
def Pier.useCheck (p : Pier) (c : CheckLine) : Pier :=
  let rest := p.checks.filter fun x => x.num != c.num
  let p := match rest[Config.checkCap - 1]? with
    | some old => p.putCheck old
    | none => p
  { p with checks := c :: rest.take (Config.checkCap - 1) }

/-- A channel's read of a data line, which takes its check line. -/
def Pier.channelRead (p : Pier) (line : Nat) : Pier := p.useCheck (p.checkAt (checkOf line).1)

/-- A channel's write of a data line: its 8 check bytes change in the buffer; once all eight lines of the check line have been
written, it is written back (R385). -/
def Pier.channelWrite (p : Pier) (line : Nat) (data : List Byte) : Pier :=
  let (n, i) := checkOf line
  let c := p.checkAt n
  let c := { c with
    bytes := c.bytes.take (8 * i) ++ checkBytes data ++ c.bytes.drop (8 * i + 8), written := c.written ||| 2 ^ i }
  if c.written == 255 then (p.putCheck c).useCheck { c with written := 0 } else p.useCheck c

/-- A line of a mortar whose dirty contents go back to its channel (R378). -/
def Pier.writeBack (p : Pier) (mem : List Host.Cell) (l : MortLine) : Pier :=
  if l.dirty && l.line < gddrEnd then p.channelWrite l.line (memRead mem l.line 64) else p

/-- Every dirty line of the mortar written back, and the mortar emptied. -/
def Pier.flushMortar (p : Pier) (mem : List Host.Cell) : Pier :=
  { p.mortar.foldl (fun p l => p.writeBack mem l) p with mortar := [] }

/-! ## The mortar cache (R377, R378) -/

def lineOf (a : Nat) : Nat := wrap52 a / 64 * 64

/-- Bank × 4,096 + set of a line (R377). -/
def mortIx (a : Nat) : Nat :=
  let bank := fld a 11 6 ^^^ fld a 17 12 ^^^ fld a 23 18 ^^^ fld a 29 24
  4096 * bank + fld a 23 12

/-- The 15 tree bits after an access to a way: each node on its path points to the other half. -/
def plruTouch (bits way : Nat) : Nat :=
  ([3, 2, 1, 0].foldl (fun (acc : Nat × Nat) i =>
    let d := (way >>> i) % 2
    (setFld acc.1 acc.2 acc.2 (1 - d), 2 * acc.2 + 1 + d)) (bits, 0)).1

/-- The way that the tree bits name. -/
def plruVictim (bits : Nat) : Nat :=
  ([3, 2, 1, 0].foldl (fun (acc : Nat × Nat) _ =>
    let d := (bits >>> acc.2) % 2
    (2 * acc.1 + d, 2 * acc.2 + 1 + d)) (0, 0)).1

/-- Whether a way of a set is retired, and whether the set is bypassed (R488, R490). -/
def Pier.wayOut (p : Pier) (ix w : Nat) : Bool := bitAt (p.waysOut.get ix) w
def Pier.bypassed (p : Pier) (ix : Nat) : Bool := p.waysOut.get ix % 65536 == 65535 || bitAt (p.waysOut.get ix) 16

/-- The way a new line takes in its set: the lowest free one, else the one the tree names, or the next in service (log 18). -/
def Pier.wayFor (p : Pier) (ix : Nat) : Nat :=
  let used := (p.mortar.filter (fun l => mortIx l.line == ix)).map (·.way)
  match findUp (fun w => !used.contains w && !p.wayOut ix w) 0 16 with
  | some w => w
  | none =>
    let v := plruVictim (p.plru.get ix)
    match findUp (fun i => !p.wayOut ix ((v + i) % 16)) 0 16 with
    | some i => (v + i) % 16
    | none => v

/-- Whether the mortar holds a line. -/
def Pier.holds (p : Pier) (line : Nat) : Bool := p.mortar.any (fun l => l.line == line)

/-- A pier whose mortar holds a line, most recently used; an older line of its way is evicted and, if dirty, written back (R377,
R378). -/
def Pier.touchLine (p : Pier) (mem : List Host.Cell) (line : Nat) : Pier :=
  let ix := mortIx line
  match p.mortar.find? (fun l => l.line == line) with
  | some l => { p with plru := p.plru.set ix (plruTouch (p.plru.get ix) l.way) }
  | none =>
    if p.bypassed ix then p else
    let w := p.wayFor ix
    let p := (p.mortar.filter fun l => mortIx l.line == ix && l.way == w).foldl (fun p l => p.writeBack mem l) p
    { p with
      mortar := ⟨line, w, false, 0, none⟩ :: p.mortar.filter (fun l => !(mortIx l.line == ix && l.way == w))
      plru := p.plru.set ix (plruTouch (p.plru.get ix) w) }

/-- A line read at its home pier: from its channel where the mortar does not hold it, and allocated (R378). -/
def State.readLine (s : State) (p : PierId) (line : Nat) : State :=
  s.updPier p fun pr => (if pr.holds line || gddrEnd ≤ line then pr else pr.channelRead line).touchLine s.mem line

/-- A demand read of a line at its home pier: counted as hit or miss (R552), allocated (R378). -/
def State.demandLine (s : State) (p : PierId) (line : Nat) : State :=
  let hit := (s.pier p).holds line
  (s.readLine p line).bumpPier p (if hit then kReadHit else kReadMiss) 1

def State.demandLines (s : State) (p : PierId) (ls : List Nat) : State := ls.foldl (fun s l => s.demandLine p l) s

/-- A pier trowel's read of a line at its home pier (R378): served from the mortar's line on a hit; on a miss from the channel, without
allocating, whose check line it takes (R385). -/
def State.trowelLine (s : State) (p : PierId) (line : Nat) : State :=
  s.updPier p fun pr => if pr.holds line then pr.touchLine s.mem line
    else if gddrEnd ≤ line then pr else pr.channelRead line

def State.trowelLines (s : State) (p : PierId) (ls : List Nat) : State := ls.foldl (fun s l => s.trowelLine p l) s

/-- Lists joined, each element once. -/
def joinLines (a b : List Nat) : List Nat := b.foldl (fun acc x => if acc.contains x then acc else acc ++ [x]) a

/-- The lines that n bytes from an address touch, ascending. -/
def linesOf (a n : Nat) : List Nat :=
  if n == 0 then [] else (List.range ((a % 64 + n + 63) / 64)).map (fun i => lineOf (a + 64 * i))

/-- A line that some of its writer's bytes go to: dirty in the mortar, sharers cleared (R378, R379); a dirty CXL line keeps
what the device holds (R392). -/
def State.dirtyLine (s : State) (p : PierId) (line : Nat) : State :=
  let isCxl := match s.place line with | .cxl _ _ => true | _ => false
  let old := memRead s.mem line 64
  s.updPier p fun pr =>
    let pr := pr.touchLine s.mem line
    let mark : MortLine → MortLine := fun l =>
      let under := if l.under.isSome then l.under else if isCxl then some old else none
      { l with dirty := true, sharers := 0, under := under }
    { pr with mortar := replaceFirst (fun l => l.line == line) mark pr.mortar }

/-- Bed caches that may hold a line may keep its bytes from before a write (R376). -/
def State.staleLine (s : State) (p : PierId) (line : Nat) : State :=
  if (s.pier p).bed.any (fun b => b.line == line) then
    let old := memRead s.mem line 64
    s.updPier p fun pr => { pr with bed := pr.bed.map fun b =>
      if b.line == line then { b with held := 0, olds := if b.held == 0 then b.olds else b.olds ++ [(b.held, old)] } else b }
  else s

/-- How a write reaches memory (R378): through the mortar, by a pier trowel, or by a quoin trowel. -/
inductive WriteVia where
  | mortar
  | trowel
  | quoin
  deriving DecidableEq, Repr

/-- A line of GDDR 7 that its mortar does not hold written by its channel. -/
def State.channelLine (s : State) (p : PierId) (line : Nat) (new : List Host.Cell) : State :=
  if (s.pier p).holds line || gddrEnd ≤ line then s else s.updPier p (·.channelWrite line (memRead new line 64))

/-- The part of the caches and channels in a write to one line at its home pier, which leaves memory as given; a write of the whole
line does not read it first. -/
def State.cacheWrite (s : State) (via : WriteVia) (p : PierId) (line : Nat) (new : List Host.Cell) (whole : Bool) : State :=
  let s := s.staleLine p line
  match via with
  | .mortar => ((if whole then s else s.readLine p line).dirtyLine p line).channelLine p line new
  | .trowel => if (s.pier p).holds line then s.dirtyLine p line else s.channelLine p line new
  | .quoin => s.updPier p fun pr => { pr with mortar := pr.mortar.filter (fun l => l.line != line) }

/-- Bytes written to present memory through its home mortar (R378, R380). A whole-line write ends its poison (R386). Bytes
for addresses that are no memory are discarded. `full`: lines that this write and others beside it replace whole, so that none of
them reads the line first. -/
def State.writePart (s : State) (via : WriteVia) (full : List Nat) (a : Nat) (bs : List Byte) : State :=
  let ls := linesOf a bs.length
  let ok := (List.range bs.length).filterMap fun i =>
    if (s.memHome (a + i)).isSome then some (wrap52 (a + i), byteAt bs i) else none
  let whole := ls.filter fun l => (List.range 64).all fun i => ok.any (fun c => c.1 == l + i)
  let new := ok.foldl (fun m c => memSet m c.1 c.2) s.mem
  let s := ls.foldl (fun s l => match s.memHome l with
    | some p => s.cacheWrite via p l new (whole.contains l || full.contains l)
    | none => s) s
  { s with
    mem := new
    poison := if s.poison.isEmpty then [] else s.poison.filter (fun l => !whole.contains l) }

/-- Bytes written by themselves. -/
def State.writeBytes (s : State) (via : WriteVia) (a : Nat) (bs : List Byte) : State := s.writePart via [] a bs

/-- A little-endian word of n bytes written. -/
def State.writeWord (s : State) (via : WriteVia) (a n v : Nat) : State := s.writeBytes via a (leBytes n v)

/-! ## Wake on access (R36, R434, R435) -/

/-- The number of a clock domain in the tables of the state. -/
def domainNo : Domain → Nat
  | .course c => 48 * c.pier.val + c.course.val
  | .mortar p => 400 + p.val
  | .mason p k => 500 + 8 * p.val + k.val
  | .spareCourse p => 930 + p.val
  | .spareMason p => 940 + p.val
  | .gddr p ch => 600 + 7 * p.val + ch.val
  | .linkEnd l d => 700 + 2 * l.val + b2n d
  | .cxl q => 900 + q.val
  | .plumbline p => 910 + p.val
  | .quoin q => 920 + q.val

/-- The crossing into a domain with nothing waiting, and with one entry more from a tick on (R434, R437). -/
def clearCross (t : Table) (n : Nat) : Table := (t.set n 0).set (1000 + n) 0
def holdCross (t : Table) (n tick : Nat) : Table :=
  (t.set n (t.get n + 1)).set (1000 + n) (if t.get n == 0 then tick + 1 else t.get (1000 + n))

/-- The entries held before a domain cross into it (R428, R434). -/
def State.deliver (s : State) (d : Domain) : State :=
  let n := domainNo d
  { s with crossPtr := s.crossPtr.set n ((s.crossPtr.get n + s.crossHeld.get n) % 16), crossHeld := clearCross s.crossHeld n }

/-- The power state of SKOV_POWER: 1 Standby, 2 Idle, 3 Run (R510). -/
def State.powerState (s : State) : Nat :=
  if !s.power.regulators then 1 else if s.piers.toList.any (·.awake) then 3 else 2

/-- The event of a power state: cause 0 command, 1 supply, 2 sensor trip (R530). -/
def State.powerEvent (s : State) (n cause : Nat) : State := s.event 0x02 (n + 2 ^ 8 * cause)

/-- A change of the piers that run, with its event where the power state goes from Idle to Run or back (R510, R511); neither a command, a
supply nor a trip, it bears cause 0 (DESIGN CHOICE; log 22). -/
def State.runChange (s t : State) : State :=
  if s.powerState == t.powerState then t else t.powerEvent t.powerState 0

/-- A pier busy, and a course of it, in a tick: their idle windows begin again (R432, R433). -/
def Pier.stir (p : Pier) (tick : Nat) : Pier := { p with stirred := tick }
def Pier.stirCourse (p : Pier) (c tick : Nat) : Pier := { p with courseStir := p.courseStir.set c tick }

/-- A pier's mortar domain running, its bond position at 0, what waited before it delivered (R293, R435); a domain declared failed
is held stopped (R438). -/
def State.wakePier (s : State) (p : PierId) : State :=
  if (s.pier p).failed.contains (domainNo (.mortar p)) then s
  else if (s.pier p).awake then s.updPier p (·.stir s.tick)
  else (s.runChange (s.updPier p fun pr => { pr.stir s.tick with awake := true, bondPos := 0 })).deliver (.mortar p)

/-- A course's clock running, and its pier's; what waited before it delivered (R434). -/
def State.wakeCourse (s : State) (c : CourseId) : State :=
  let s := s.wakePier c.pier
  if (s.pier c.pier).failed.contains (domainNo (.course c)) then s
  else
    let s := s.updPier c.pier (·.stirCourse c.course.val s.tick)
    if (s.pier c.pier).coursesAwake.contains c.course.val then s
    else (s.updPier c.pier fun pr => { pr with coursesAwake := pr.coursesAwake ++ [c.course.val] }).deliver (.course c)

/-- Whether a pier's mortar domain has been declared failed (R438). -/
def State.deadPier (s : State) (p : PierId) : Bool := (s.pier p).failed.contains (domainNo (.mortar p))

/-- Whether the crossing to a line refuses its read (R438): the mortar domain of its home pier, or of a line that the mortar does not
hold its channel's, has been declared failed and not replaced. -/
def State.dead (s : State) (p : PierId) (line : Nat) : Bool :=
  let pr := s.pier p
  !pr.failed.isEmpty && (s.deadPier p ||
    (line < gddrEnd && pr.failed.contains (600 + 7 * p.val + pr.channelOf (line % 0x4_0000_0000)) && !pr.holds line))

/-! ## Routes (R15, R18, R21, R22) -/

/-- The next pier of a route: along the row to the column, then between the rows (R21). -/
def nextPier (p d : PierId) : PierId :=
  if p.val % 4 < d.val % 4 then pierOf (p.val + 1)
  else if d.val % 4 < p.val % 4 then pierOf (p.val + 7)
  else d

/-- The piers that a packet passes after its source, its destination last. -/
def routeFrom : Nat → PierId → PierId → List PierId
  | 0, _, _ => []
  | n + 1, p, d => if p == d then [] else nextPier p d :: routeFrom n (nextPier p d) d

def route (p d : PierId) : List PierId := routeFrom 5 p d

/-- The edge between neighbouring piers (R18). -/
def edgeOf (a b : PierId) : Nat :=
  let lo := min a.val b.val
  let hi := max a.val b.val
  if hi - lo == 4 then 6 + lo else if lo < 4 then lo else lo - 1

/-- The links of an edge 0 to 9, or of a quoin as edge 10 + quoin (R18). -/
def edgeLinks (e : Nat) : List Nat :=
  if e < 10 then [4 * e, 4 * e + 1, 4 * e + 2, 4 * e + 3] else [40 + 2 * (e - 10), 41 + 2 * (e - 10)]

/-- The edge of a link. -/
def linkEdge (l : Nat) : Nat := if l < 40 then l / 4 else 10 + (l - 40) / 2

/-- Links of an edge that carry traffic (R22, R23, R488). -/
def State.workingLinks (s : State) (e : Nat) : List Nat :=
  (edgeLinks e).filter fun l => !s.retired.contains l && !s.testing.contains l

/-- An edge's rotation n packets further (R22). -/
def State.turnEdge (s : State) (e dir n : Nat) : State :=
  { s with edgeRot := s.edgeRot.set (2 * e + dir) ((s.edgeRot.get (2 * e + dir) + n) % max 1 (s.workingLinks e).length) }

/-- The link that the edge's rotation gives the next packet, and the rotation advanced (R22). An edge of which no link works sends on its
lowest-numbered one (DESIGN CHOICE; log 89). -/
def State.rotateEdge (s : State) (e dir : Nat) : Nat × State :=
  let ls := s.workingLinks e
  (ls.getD (s.edgeRot.get (2 * e + dir) % ls.length) (edgeLinks e).head!, s.turnEdge e dir 1)

/-- The edges of a route between piers, each with its direction (R18, R21). -/
def pathEdges (p d : PierId) : List (Nat × Nat) :=
  List.zipWith (fun (a b : PierId) => (edgeOf a b, if a.val < b.val then 0 else 1)) (p :: route p d) (route p d)

/-- The same from a quoin, and back to it. -/
def quoinEdges (q : QuoinId) (d : PierId) : List (Nat × Nat) := (10 + q.val, 0) :: pathEdges (cornerPier q) d
def backEdges (q : QuoinId) (d : PierId) : List (Nat × Nat) := pathEdges d (cornerPier q) ++ [(10 + q.val, 1)]

/-- n packets sent over the edges of a route (R22; log 89 says which traffic is counted). -/
def State.sendPackets (s : State) (path : List (Nat × Nat)) (n : Nat) : State :=
  if n == 0 then s else path.foldl (fun (s : State) e => s.turnEdge e.1 e.2 n) s

/-- Lines that a pier reads in another's memory: the packets of the requests and of the answers, and the other pier awake (R22, R435;
log 89). -/
def State.remoteRead (s : State) (p h : PierId) (n : Nat) : State :=
  if h == p || n == 0 then s else ((s.wakePier h).sendPackets (pathEdges p h) n).sendPackets (pathEdges h p) n

/-- Bytes that are no operands read by a pier wherever they lie: descriptors, owner tables, lists (R117, R564). -/
def State.fetchFar (s : State) (p : PierId) (a n : Nat) : State :=
  (linesOf a n).foldl (fun (s : State) l => match s.memHome l with
    | some h => s.remoteRead p h 1
    | none => s) s

/-- Whether a pier's mortar domain runs (R34, R433, R438). -/
def State.runs (s : State) (p : PierId) : Bool := (s.pier p).awake && !s.deadPier p

/-- Whether a course's domain runs, and its pier's. -/
def State.courseRuns (s : State) (c : CourseId) : Bool :=
  s.runs c.pier && (s.pier c.pier).coursesAwake.contains c.course.val && !(s.pier c.pier).failed.contains (domainNo (.course c))

/-- The links that end on a pier, ascending (R412). -/
def linkEnds (p : PierId) : List Nat :=
  (List.range 48).filter fun l =>
    if l < 40 then
      let e := l / 4
      let (a, b) := if e < 3 then (e, e + 1) else if e < 6 then (e + 1, e + 2) else (e - 6, e - 2)
      p.val == a || p.val == b
    else match cornerQuoin p with
      | some q => (l - 40) / 2 == q.val
      | none => false

/-! ## Keystone operations on their way (R412) -/

/-- The pier and local number of a keystone id (R55). -/
def keyPier (k : Nat) : PierId := pierOf (k / 4096)
def keyLocal (k : Nat) : Nat := k % 4096

/-- The value that most of three copies hold, bit by bit (R484). -/
def majority (a b c : Nat) : Nat := a &&& b ||| a &&& c ||| b &&& c

/-- A keystone read and set in its three copies (R484). -/
def Pier.keyAt (p : Pier) (k : Nat) : Nat := majority (p.keys.get k) (p.keys1.get k) (p.keys2.get k)
def Pier.setKey (p : Pier) (k v : Nat) : Pier :=
  { p with keys := p.keys.set k v, keys1 := p.keys1.set k v, keys2 := p.keys2.set k v }

/-- Where a keystone operation starts: inside a pier at a requester port, or at a quoin. -/
inductive KeyFrom where
  | pier (p : PierId) (port : Nat)
  | quoin (q : QuoinId)
  deriving DecidableEq, Repr

/-- A keystone operation arrived at its keystone's pier, which an arriving packet wakes (R412, R435). -/
def State.keyArrive (s : State) (d : PierId) (op : KeyOp) : State :=
  (s.wakePier d).updPier d fun pr => { pr with keyArriving := pr.keyArriving ++ [op] }

/-- A keystone operation on its way over the rest of its route, having last come over a link: each edge's rotation chooses its link
(R22); behind a link cycle that is being replayed it waits on that link, in order (R495, R496); it arrives on the port of the link
end where its route ends (R412). -/
def State.keyTravel : List (Nat × Nat) → Nat → PierId → KeyOp → State → State
  | [], last, d, op, s => s.keyArrive d { op with port := 8 + (linkEnds d).idxOf last }
  | (e, dir) :: rest, _, d, op, s =>
    let (l, s) := s.rotateEdge e dir
    let i := 2 * l + dir
    if s.linkFails.get i != 0 || s.linkHeld.any (fun x => x.link == i)
    then { s with linkHeld := s.linkHeld ++ [⟨i, rest, d, op⟩] }
    else State.keyTravel rest l d op s

/-- A keystone operation sent to its keystone's pier, to arrive on the port where it arrives (R412, R414). -/
def State.sendKey (s : State) (src : KeyFrom) (key kind operand : Nat) (answer : TasAnswer) : State :=
  let d := keyPier key
  let op := fun port => (⟨key % 32768, port, kind, operand % 0x1_0000_0000, answer⟩ : KeyOp)
  match src with
  | .pier p port => if p == d then s.keyArrive d (op port) else State.keyTravel (pathEdges p d) 0 d (op port) s
  | .quoin q => State.keyTravel (quoinEdges q d) 0 d (op 0) s

/-- The operations that waited on a link's direction sent on, in order (R496): over that link, whose cycle has been accepted; or, once it
is retired, over the other links of its edge (R23). -/
def State.releaseLink (s : State) (i : Nat) (retired : Bool) : State :=
  let mine := s.linkHeld.filter fun x => x.link == i
  mine.foldl (fun (s : State) x =>
    if retired then State.keyTravel ((linkEdge (i / 2), i % 2) :: x.rest) 0 x.dest x.op s
    else State.keyTravel x.rest (i / 2) x.dest x.op s) { s with linkHeld := s.linkHeld.filter fun x => x.link != i }

/-! ## Messages to hosts (R452 to R455) -/

/-- The 16-byte message header and payload (R452). -/
def OutMsg.bytes (m : OutMsg) : List Byte :=
  leBytes 8 (m.mtype + 256 * m.payload.length + 0x1_0000_0000 * m.tag) ++ leBytes 8 (m.status % 256) ++ m.payload

/-- The flits of a message: 238 payload bytes each, the last padded with type 0x00 (R447, R452). -/
def cutFlits : Nat → List Byte → List (List Byte)
  | 0, _ => []
  | n + 1, bs => if bs.isEmpty then [] else padTo 238 (bs.take 238) :: cutFlits n (bs.drop 238)

/-- Waiting payload sent in new data flits while the link is Active and the replay buffer has room (R450). -/
def Port.fill : Nat → Port → Port
  | 0, p => p
  | n + 1, p =>
    if p.trainState != 5 || p.backlog.isEmpty || p.replay.length ≥ Config.replayCap then p
    else
      let bs := padTo 238 (p.backlog.take 238)
      Port.fill n { p.sendData p.txSeq bs with
        replay := p.replay ++ [⟨p.txSeq, bs, 1⟩]
        txSeq := (p.txSeq + 1) % 4096
        backlog := p.backlog.drop 238 }

/-- A message handed to the link. -/
def Port.transmit (p : Port) (m : OutMsg) : Port :=
  let p := { p with
    sent := p.sent ++ [m]
    backlog := p.backlog ++ (cutFlits 3 m.bytes).flatten }
  p.fill Config.replayCap

/-- The queue of a message type from the module (R453); CREDIT and pad have none. -/
def outQueue (mtype : Nat) : Nat :=
  if mtype == 0x11 || mtype == 0x12 then 0 else if mtype == 0x13 then 1 else if mtype == 0x14 then 2 else 3

/-- A message for a port's host: sent when the queue has a credit and holds no earlier message, else held (R454). With no
link it is discarded and counted (R465), but a delivery waits for a link after the loss of the main supply (R509). -/
def State.send (s : State) (p : PortId) (m : OutMsg) : State :=
  let pt := s.port p
  let q := outQueue m.mtype
  if !pt.linked then
    if m.mtype == 0x14 && pt.waits then s.updPort p fun pt => { pt with held := pt.held ++ [m] }
    else s.bump (plmbReg p 0x10) 1
  else if pt.held.any (fun h => outQueue h.mtype == q) || pt.credits.get q == 0 then
    s.updPort p fun pt => { pt with held := pt.held ++ [m] }
  else
    s.updPort p fun pt => ({ pt with credits := pt.credits.set q (pt.credits.get q - 1) } : Port).transmit m

/-- The held messages that credits now allow, in order, sent (R454). -/
def Port.release (p : Port) : Port :=
  p.held.foldl (fun (p : Port) m =>
    let q := outQueue m.mtype
    if p.credits.get q == 0 || p.held.any (fun h => outQueue h.mtype == q) then { p with held := p.held ++ [m] }
    else ({ p with credits := p.credits.set q (p.credits.get q - 1) } : Port).transmit m) { p with held := [] }

/-- IDENT and CREDIT need no credit (R454). -/
def State.sendFree (s : State) (p : PortId) (m : OutMsg) : State :=
  if !(s.port p).linked then s else s.updPort p (·.transmit m)

/-! ## Answers to accesses (R12, R32, R371, R453) -/

/-- MEM_ACK with a status (R453). -/
def memAck (tag : U32) (status : Nat) : OutMsg := ⟨0x12, tag.toNat, status, []⟩

/-- A read's answer to whoever asked: a host's MEM_DATA (R453), discarded and counted once it has departed (R465), a mason core's register or its load access fault (R32, R371), a
Skovlaper's value and status (R12). -/
def State.answerRead (s : State) (src : Source) (status n v : Nat) : State :=
  match src with
  | .host p tag => s.send p ⟨0x11, tag.toNat, status, leBytes n v⟩
  | .gone p => s.bump (plmbReg p 0x10) 1
  | .mason p k => s.updPier p fun pr => { pr with masons := pr.masons.modify k.val fun m =>
      { m with loaded := v, faulted := if status == 0 then 0 else 1 } }
  | .skov d => s.updSkov d fun k => { k with answer := v, status := status }

/-- A write's answer: a host's MEM_ACK; a mason core's store that fails takes an access fault (R32, R371); a Skovlaper's status. -/
def State.answerWrite (s : State) (src : Source) (status : Nat) : State :=
  match src with
  | .host p tag => s.send p (memAck tag status)
  | .gone p => s.bump (plmbReg p 0x10) 1
  | .mason p k => s.updPier p fun pr => { pr with masons := pr.masons.modify k.val fun m =>
      { m with faulted := if status == 0 then 0 else 2 } }
  | .skov d => s.updSkov d fun k => { k with status := status }

/-! ## Soundings started (R487) -/

/-- How a unit leaves service at once when its sounding starts (R488): a mortar set is written back and bypassed; a GDDR 7 interface
retrains (R403); a chisel engine's jobs go back, for its partner; a quoin trowel's port is served by its partner; a mason core's state
is saved while a spare waits (R491). A core or course leaves by SPARE_TAKEOVER. -/
def State.takeOut (s : State) (u : SUnit) : State :=
  match u with
  | .mortarSet p bank set =>
    let ix := 4096 * bank.val + set.val
    s.updPier p fun pr =>
      let pr := (pr.mortar.filter fun l => mortIx l.line == ix).foldl (fun pr l => pr.writeBack s.mem l) pr
      { pr with
      mortar := pr.mortar.filter fun l => mortIx l.line != ix
      waysOut := pr.waysOut.set ix (setFld (pr.waysOut.get ix) 16 16 1) }
  | .gddrInterface p ch => s.updPier p fun pr => { pr with retrained := pr.retrained.set ch.val (s.tick + 1) }
  | .chisel p w => s.updPier p fun pr => { pr with
      chiselOut := setFld pr.chiselOut w.val w.val 1
      jobs := pr.jobs.map fun j => if j.taken == some w then { j with taken := none } else j }
  | .quoinTrowel q i => s.updQuoin q fun w => { w with out := setFld w.out i.val i.val 1 }
  | .mason p k =>
    if (s.pier p).masonSpare == 10 then s
    else s.updPier p fun pr => { pr with masons := pr.masons.modify k.val fun m => { m with saving := some s.tick } }
  | _ => s

/-- A unit's sounding starts unless it is being sounded; `margin`: a margin monitor tripped, which a running sounding notes. A physical
unit that a spare has replaced is another unit (R487). -/
def State.startSounding (s : State) (u : SUnit) (margin : Bool) : State :=
  let mine : Sounding → Bool := fun x => x.unit == u && x.old.isNone
  if s.sounding.any mine then
    { s with sounding := replaceFirst mine (fun x => { x with margin := x.margin || margin }) s.sounding }
  else (({ s with sounding := s.sounding ++ [⟨u, s.tick, margin, none⟩] } : State).takeOut u).bump (skovReg s.activeD 0x28) 1

/-- The GDDR 7 region, by physical channel and MiB of device offsets, that holds a pier offset (R382, R383, R488). -/
def Pier.regionOf (p : Pier) (off : Nat) : Fin 7 × Nat :=
  (⟨p.channelOf off % 7, Nat.mod_lt _ (by decide)⟩, (192 * (off / 1024) + 64 * (off % 1024 / 64 / 6)) / 0x10_0000)

end Sys2Proof.Machine
end

