-- ==== Sys2Proof/Machine/Operands.lean ====
section
/-! DEFINITION. Operand forms: header fields (R42), tensor descriptors and owner tables (R115 to R144), element addresses
(R121 to R123), the reads and writes that a share makes and what is counted for them (R370 to R373, R386, R564). -/

namespace Sys2Proof

open Machine

/-! ## Header fields (R42, R43) -/

def Header.opcode (h : Header) : Nat := fld h.w0.toNat 7 0
def Header.stream (h : Header) : Nat := fld h.w0.toNat 9 8
def Header.report (h : Header) : Bool := bitAt h.w0.toNat 10
def Header.unit (h : Header) : Nat := fld h.w0.toNat 31 16
def Header.cls (h : Header) : Nat := fld h.w0.toNat 37 32
def Header.seq (h : Header) : Nat := fld h.w0.toNat 63 48
def Header.waitKey (h : Header) : Nat := fld h.w1.toNat 14 0
def Header.waitEn (h : Header) : Bool := bitAt h.w1.toNat 15
def Header.waitCond (h : Header) : Nat := fld h.w1.toNat 18 16
def Header.waitInval (h : Header) : Bool := bitAt h.w1.toNat 19
def Header.sigKey (h : Header) : Nat := fld h.w1.toNat 46 32
def Header.sigEn (h : Header) : Bool := bitAt h.w1.toNat 47
def Header.sigOp (h : Header) : Nat := fld h.w1.toNat 49 48
def Header.waitValue (h : Header) : Nat := fld h.w2.toNat 31 0
def Header.sigOperand (h : Header) : Nat := fld h.w2.toNat 63 32
def Header.refD (h : Header) : Nat := h.w3.toNat
def Header.refA (h : Header) : Nat := h.w4.toNat
def Header.refB (h : Header) : Nat := h.w5.toNat
def Header.refC (h : Header) : Nat := h.w6.toNat
def Header.imm (h : Header) : Nat := h.w7.toNat

end Sys2Proof

namespace Sys2Proof.Machine

/-- Whether a descriptor reference names a descriptor (R43). -/
def refOn (r : Nat) : Bool := bitAt r 63
/-- The descriptor address of a reference (R44). -/
def refAddr (r : Nat) : Nat := fld r 51 6 * 64

/-- A header from its 64 bytes (R42). -/
def headerOf (bs : List Byte) : Header :=
  let w := fun i => BitVec.ofNat 64 (leAt bs (8 * i) 8)
  ⟨w 0, w 1, w 2, w 3, w 4, w 5, w 6, w 7⟩

/-! ## Descriptors and owner tables -/

/-- The tensor that a descriptor gives, its owner table not read. -/
def Desc.tens (d : Desc) : Tens where
  base := fld d.d0.toNat 51 0
  fmt := fld d.d0.toNat 59 56
  layout := fld d.d0.toNat 63 60
  e0 := fld d.d1.toNat 31 0
  e1 := fld d.d1.toNat 63 32
  e2 := fld d.d2.toNat 31 0
  e3 := fld d.d2.toNat 63 32
  s0 := sx32to64 (fld d.d3.toNat 31 0)
  s1 := sx32to64 (fld d.d3.toNat 63 32)
  s2 := sx32to64 (fld d.d4.toNat 31 0)
  s3 := sx32to64 (fld d.d4.toNat 63 32)
  scale := fld d.d5.toNat 31 0
  gen := fld d.d5.toNat 39 32
  vlen := fld d.d5.toNat 63 40
  ownerAt := 4096 * fld d.d6.toNat 39 0
  tid := fld d.d6.toNat 63 44
  aux := fld d.d7.toNat 45 0 * 64
  twin := fld d.d7.toNat 55 50
  tw := 0
  ref := none
  own := none
  missing := none
  mixed := []
  guess := 0

/-- The all-zero descriptor, read for a reference that names none. -/
def Desc.zero : Desc := ⟨0, 0, 0, 0, 0, 0, 0, 0⟩

def descOf (bs : List Byte) : Desc :=
  let w := fun i => BitVec.ofNat 64 (leAt bs (8 * i) 8)
  ⟨w 0, w 1, w 2, w 3, w 4, w 5, w 6, w 7⟩

def State.readDesc (s : State) (ref : Nat) : Desc := descOf (s.rawBytes (refAddr ref) 64)

/-- The first address of a range that is no memory (R564). -/
def State.missingIn (s : State) (a n : Nat) : Option Nat :=
  (findUp (fun i => (s.memHome (a + i)).isNone) 0 n).map fun i => wrap52 (a + i)

/-- The tensor uses lists or codes, and so ignores its owner field (R223). -/
def Tens.sparse (t : Tens) : Bool := t.layout == 4 || t.layout == 5

/-- An owner table at an address, for a tensor's extents (R138, R139). -/
def State.readOwner (s : State) (t : Tens) (a : Nat) : Owner :=
  let b0 := s.rawWord a 4
  let b1 := s.rawWord (a + 4) 4
  let b0 := if b0 == 0 then t.e0 else b0
  let b1 := if b1 == 0 then t.e1 else b1
  let n0 := cdiv t.e0 b0
  let n1 := cdiv t.e1 b1
  { b0 := b0, b1 := b1, slot := s.rawWord (a + 8) 5
    parts := (List.range 8).map fun p => wrap52 (s.rawWord (a + 16 + 8 * p) 8)
    n0 := n0, n1 := n1
    ents := (List.range (n0 * n1 * t.e2 * t.e3)).map fun i => s.rawWord (a + 128 + 2 * i) 2 }

/-- A descriptor's tensor with its owner table, as read once by a header (R117). -/
def State.tensOf (s : State) (d : Desc) : Tens :=
  let t := d.tens
  if t.sparse || t.ownerAt == 0 then t
  else
    let o := s.readOwner t t.ownerAt
    { t with own := some o, missing := s.missingIn t.ownerAt (128 + 2 * o.ents.length) }

/-- The tensor that a reference names, in the buffer for policy version v (R117, R123). -/
def State.readTens (s : State) (ref v : Nat) : Tens :=
  let t := s.tensOf (s.readDesc ref)
  let m := s.missingIn (refAddr ref) 64
  { t with
    tw := if t.twin != 0 && v % 2 == 1 then 2 ^ t.twin else 0, ref := some (refAddr ref)
    missing := if m.isSome then m else t.missing }

/-- A tensor read earlier with its owner table as it stands now (R357). -/
def State.reown (s : State) (t : Tens) : Tens :=
  if t.sparse || t.ownerAt == 0 then t else { t with own := some (s.readOwner t t.ownerAt) }

/-- The all-zero tensor, for a reference that names none. -/
def Tens.zero : Tens := Desc.zero.tens

/-- What a header reads once when it starts: the tensors of its references d, a, b and c (R117). -/
def State.readOps (s : State) (h : Header) (v : Nat) : List Tens :=
  [h.refD, h.refA, h.refB, h.refC].map fun r => if refOn r then { s.readTens r v with guess := s.free } else .zero

/-- A tensor read earlier, with the scale its descriptor holds now where that is of another generation (R70). -/
def State.rescale (s : State) (t : Tens) : Tens :=
  match t.ref with
  | none => t
  | some r =>
    let d := (descOf (s.rawBytes r 64)).tens
    if d.gen == t.gen then t else { t with scale := d.scale, gen := d.gen }

/-- The same tensor in the buffer for another version. -/
def Tens.ver (t : Tens) (v : Nat) : Tens := { t with tw := if t.twin != 0 && v % 2 == 1 then 2 ^ t.twin else 0 }

/-- Whether the two buffers are one (R123). -/
def Tens.single (t : Tens) : Bool := t.twin == 0 || t.twin ≥ 52

/-- The list area of a sparse tensor in its buffer (R123, R220). -/
def Tens.auxT (t : Tens) : Nat := wrap52 (t.aux + t.tw)

/-- The tensor read as row-major (R90, R121, R148); what a block-list or 2-of-4 tensor has at aux is no companion (R120). -/
def Tens.rowMajor (t : Tens) : Tens := { t with layout := 0, aux := if t.sparse then 0 else t.aux }

def Tens.form (t : Tens) : Fmt := Fmt.ofCode t.fmt

/-- Elements of the declared extents (R133). -/
def Tens.count (t : Tens) : Nat := t.e0 * t.e1 * t.e2 * t.e3

def Tens.ext (t : Tens) (i : Nat) : Nat := match i with | 0 => t.e0 | 1 => t.e1 | 2 => t.e2 | _ => t.e3

/-- Whether dimension 0 holds the logical rows (R124). -/
def Tens.swapped (t : Tens) : Bool := t.layout == 1 || t.layout == 3 || t.layout == 5

/-- Logical rows and columns (R124). -/
def Tens.rows (t : Tens) : Nat := if t.swapped then t.e0 else t.e1
def Tens.cols (t : Tens) : Nat := if t.swapped then t.e1 else t.e0

/-- Descriptor indices i0 and i1 of a logical position (R124). -/
def Tens.idx (t : Tens) (r c : Nat) : Nat × Nat := if t.swapped then (r, c) else (c, r)

/-- The valid length of a row (R136, R137). -/
def Tens.valid (t : Tens) : Nat := if t.vlen == 0 || t.vlen > t.e0 then t.e0 else t.vlen

/-- The element offset that a layout's formula gives dimensions 0 and 1 (R121, R122). -/
def Tens.off01 (t : Tens) (i0 i1 : Nat) : Nat :=
  if t.layout == 2 || t.layout == 3 then i0 % 4 + i0 / 4 * t.s0 + i1 * t.s1 else i0 * t.s0 + i1 * t.s1

/-- An element at offset o from a base, in format f (R119, R122); `dist` leads from the base to the error terms. -/
def locAt (f : Fmt) (b o : Nat) (dist : Option Nat) : Loc :=
  let o := wrap64 o
  if f == .fp4 then ⟨wrap52 (b + o / 2), 1 + o % 2, 1, none⟩
  else ⟨wrap52 (b + o * f.size), 0, f.size, dist.map fun d => wrap52 (b + d + 2 * o)⟩

/-- The distance from a base to the error terms of a g8 tensor with a companion buffer (R120). -/
def Tens.dist (t : Tens) : Option Nat :=
  if t.form == .g8 && t.aux != 0 && !t.sparse then some (subMod (2 ^ 52) t.aux t.base) else none

/-- The entry of an owner table that holds an element (R139, R140). -/
def Tens.entry (t : Tens) (o : Owner) (i0 i1 i2 i3 : Nat) : Nat :=
  i0 / o.b0 + o.n0 * (i1 / o.b1 + o.n1 * (i2 + t.e2 * i3))

def Owner.owner (o : Owner) (e : Nat) : PierId := pierOf (o.ents.getD e 0 % 8)

/-- Whether a pier owns or replicates an entry (R139). -/
def Owner.holds (o : Owner) (p : PierId) (e : Nat) : Bool :=
  let w := o.ents.getD e 0
  w % 8 == p.val || bitAt w (8 + p.val)

/-- The local slot of an entry on a pier (R140). -/
def Owner.lam (o : Owner) (p : PierId) (e : Nat) : Nat := ((List.range e).filter (o.holds p)).length

/-- Where pier p finds an element, its block given by the entry of element (h0, i1, i2, i3) (R122, R140, R144); none when it
does not hold that block (R143). -/
def Tens.locFrom (t : Tens) (p : PierId) (h0 i0 i1 i2 i3 : Nat) : Option Loc :=
  match t.own with
  | none => some (locAt t.form (t.base + t.tw) (t.off01 i0 i1 + i2 * t.s2 + i3 * t.s3) t.dist)
  | some o =>
    let e := t.entry o h0 i1 i2 i3
    if o.holds p e then
      let j0 := h0 % o.b0 + (i0 - h0)
      some (locAt t.form (o.parts.getD p.val 0 + t.tw) (o.lam p e * o.slot + t.off01 j0 (i1 % o.b1)) t.dist)
    else none

/-- Where pier p finds an element (R122, R140). -/
def Tens.loc (t : Tens) (p : PierId) (i0 i1 i2 i3 : Nat) : Option Loc := t.locFrom p i0 i0 i1 i2 i3

/-- Where pier p finds an element of a row operation, by the block of the row's element 0 (R144). -/
def Tens.locRow (t : Tens) (p : PierId) (i0 i1 i2 i3 : Nat) : Option Loc := t.locFrom p 0 i0 i1 i2 i3

/-- An element of a value block (R121): block at value position v, offset w in the block. -/
def Tens.blockLoc (t : Tens) (v w : Nat) : Loc := locAt t.form (t.base + t.tw) (256 * v + w) none

/-- Value slot v of group q of a 2-of-4 tensor, and the nibble number of its code (R121). -/
def Tens.slotLoc (t : Tens) (q v i1 i2 i3 : Nat) : Loc :=
  locAt t.form (t.base + t.tw) (2 * q + v + i1 * t.s1 + i2 * t.s2 + i3 * t.s3) none

def Tens.codeAddr (t : Tens) (q i1 i2 i3 : Nat) : Nat × Nat :=
  let n := wrap64 (q + wrap64 (i1 * t.s1 + i2 * t.s2 + i3 * t.s3) / 2)
  (wrap52 (t.auxT + n / 2), n % 2)

/-- Whether pier p may write an element's block: it owns it, or nothing divides the tensor (R142). -/
def Tens.owns (t : Tens) (p : PierId) (i0 i1 i2 i3 : Nat) : Bool :=
  match t.own with
  | none => true
  | some o => o.owner (t.entry o i0 i1 i2 i3) == p

/-- Where pier p writes an element: the owner's copy alone (R142). -/
def Tens.locW (t : Tens) (p : PierId) (i0 i1 i2 i3 : Nat) : Option Loc :=
  if t.owns p i0 i1 i2 i3 then t.loc p i0 i1 i2 i3 else none

/-- The u32 element of a tensor that pier p writes at descriptor indices, whatever its format field holds (R50, R142, R208,
R210, R214). -/
def Tens.u32Loc (t : Tens) (p : PierId) (i0 i1 i2 i3 : Nat) : Option Loc := ({ t with fmt := 9 } : Tens).locW p i0 i1 i2 i3

/-! ## Where a share runs -/

/-- What a share is run for and by: its pier, queue, header, the epoch and policy it read at its start (R417), the unit's
geometry (R101) with its first wall, course and core, a core with a failed accumulator with the number of its row
(R485), and the tensors of its references, with those that its pier's parameter entry binds, as it read them (R117). -/
structure Env where
  p : PierId
  q : QKey
  h : Header
  epoch : Nat
  policy : Nat
  W : Nat
  L : Nat
  P : Nat
  wall : Nat
  course : Nat
  core : Nat
  bad : Option (Nat × Nat)
  ops : List Tens
  bound : List (Option Tens)
  deriving DecidableEq, Repr

/-- The tensors of a header's references d, a, b and c, in the buffers of its policy version (R117, R123). -/
def Env.opd (e : Env) (i : Nat) : Tens := (e.ops.getD i .zero).ver e.policy
def Env.tD (e : Env) : Tens := e.opd 0
def Env.tA (e : Env) : Tens := e.opd 1
def Env.tB (e : Env) : Tens := e.opd 2
def Env.tC (e : Env) : Tens := e.opd 3

/-- A state that the parameter entry of the share's pier binds, or for 3 its accumulator, in the buffer for a version (R331). -/
def Env.bind (e : Env) (i v : Nat) : Option Tens := ((e.bound.getD i none).map fun t => t.ver v)

/-- The level of a unit address (R26). -/
def unitLevel (u : Nat) : Nat := fld u 15 13

/-- The geometry of a unit, a module-level one at the pier that runs the share (R101, R110). -/
def envOf (p : PierId) (q : QKey) (h : Header) (epoch policy : Nat) (ops : List Tens) : Env :=
  let u := q.unit.toNat
  let w := fld u 9 8
  let c := fld u 7 4
  let k := fld u 3 0
  let m := fun W L P w c k => (⟨p, q, h, epoch, policy, W, L, P, w, c, k, none, ops, []⟩ : Env)
  match unitLevel u with
  | 0 => m 1 1 1 w c k
  | 1 => m 1 1 16 w c 0
  | 2 => m 1 12 16 w 0 0
  | _ => m 4 12 16 0 0 0

/-- Logical core number, course × 16 + core, of the unit's core k of course j of wall i. -/
def Env.coreNo (e : Env) (i j k : Nat) : Nat := 192 * (e.wall + i) + (e.course + j) * 16 + e.core + k

/-- Cores of the unit, and its n-th in unit-address order (R109). -/
def Env.cores (e : Env) : Nat := e.W * e.L * e.P
def Env.nthCore (e : Env) (n : Nat) : Nat := e.coreNo (n / (e.L * e.P)) (n / e.P % e.L) (n % e.P)

def courseId (p : PierId) (c : Nat) : CourseId := ⟨p, ⟨c % 48, Nat.mod_lt _ (by decide)⟩⟩
def coreId (p : PierId) (n : Nat) : CoreId :=
  ⟨p, ⟨n / 16 % 48, Nat.mod_lt _ (by decide)⟩, ⟨n % 16, Nat.mod_lt _ (by decide)⟩⟩

/-- The tag that a header's packets of a tensor carry (R66, R68): stream, format, tensor id, epoch and policy of the producing unit,
scale generation. -/
def Env.tag (e : Env) (t : Tens) : Nat :=
  e.h.stream + 2 ^ 2 * (t.fmt % 16) + 2 ^ 8 * t.tid + 2 ^ 28 * (e.epoch % 0x1_0000) + 2 ^ 44 * (e.policy % 0x1000) +
  2 ^ 56 * (t.gen % 0x100)

/-- The highest lines of the runs in some lines: of four or more consecutive ones, or of those that go on from a line at which a
run stood (R399). `n` counts the consecutive lines up to the last one seen. -/
def runTops (old : List Nat) : Nat → Nat → List Nat → List Nat
  | last, n, [] => if n ≥ 4 then [last] else []
  | last, n, l :: ls =>
    if n != 0 && l == last + 64 then runTops old l (n + 1) ls
    else (if n ≥ 4 then [last] else []) ++ runTops old l (if 64 ≤ l && old.contains (l - 64) then 4 else 1) ls

/-- A core's access engine after its demand fetches, in their order: its four newest runs (R399). -/
def Pier.trackRuns (p : Pier) (core : Nat) (ls : List Nat) : Pier :=
  let old := match p.runs.find? (fun r => r.core == core) with | some r => r.tops | none => []
  let new := (runTops old 0 0 ls).reverse
  if new.isEmpty then p
  else
    let kept := old.filter fun t => !ls.contains (t + 64) && !new.contains t
    { p with runs := ⟨core, (new ++ kept).take Config.runCap⟩ :: p.runs.filter fun r => r.core != core }

/-- Demand fetches of the access engines of a share's cores in their runs (R399): each line with the core that fetches it. -/
def State.noteRuns (s : State) (e : Env) (ls : List (Nat × Nat)) : State :=
  if e.h.stream == 3 then s
  else s.updPier e.p fun pr => ((ls.map (·.1)).eraseDups).foldl (fun pr k =>
    pr.trackRuns k ((ls.filter fun x => x.1 == k).map (·.2))) pr

/-- Lines of the share's pier that its cores fetch. -/
def State.engineLines (s : State) (e : Env) (ls : List (Nat × Nat)) : State :=
  (s.demandLines e.p (ls.map (·.2))).noteRuns e ls

/-- The stream's flush bit, for vector-class values (R165). -/
def State.flushBit (s : State) (p : PierId) (stream : Nat) : Bool := bitAt (s.pier p).cfg.fpMode.toNat stream

/-! ## Reading -/

/-- Whose access engine fetches what is read: a core's, or of a course one of its cores for each line (R88). -/
inductive Fetcher where
  | core (n : Nat)
  | course (c : Nat)
  deriving DecidableEq, Repr

/-- The logical core that fetches a line: of a course, core (line index mod 16) (R88). -/
def Fetcher.coreFor (f : Fetcher) (line : Nat) : Nat :=
  match f with
  | .core n => n
  | .course c => 16 * c + line / 64 % 16

/-- What a share's accesses met: the first absent and the first foreign address, poisoned lines, lines read, each with the core that
fetched it (R88, R372, R373, R386, R552), and whether a failed domain refused one (R438); `by_`, who reads now. -/
structure Met where
  absent : Option Nat
  foreign : Option Nat
  poison : List Nat
  fetched : List (Nat × Nat)
  refused : Bool
  by_ : Fetcher
  deriving DecidableEq, Repr

def Met.none : Met := ⟨Option.none, Option.none, [], [], false, .core 0⟩

/-- The lines read, once for each fetch. -/
def Met.lines (m : Met) : List Nat := m.fetched.map (·.2)

/-- What follows is read by another engine. -/
def Met.on (m : Met) (f : Fetcher) : Met := { m with by_ := f }

/-- A line that is read at its home pier: noted, with its poison; or refused. -/
def Met.line (m : Met) (s : State) (h : PierId) (l : Nat) : Met :=
  if s.dead h l then { m with refused := true }
  else
    let x := (m.by_.coreFor l, l)
    let m := if m.fetched.contains x then m else { m with fetched := m.fetched ++ [x] }
    if s.poison.contains l && !m.poison.contains l then { m with poison := m.poison ++ [l] } else m

/-- The access of n bytes at an address by pier p. -/
def Met.touch (m : Met) (s : State) (p : PierId) (a n : Nat) : Met :=
  match s.reach p a with
  | .absent => { m with absent := if m.absent.isSome then m.absent else some (wrap52 a) }
  | .foreign => { m with foreign := if m.foreign.isSome then m.foreign else some (wrap52 a) }
  | .ok => (linesOf a n).foldl (fun m l => m.line s p l) m

/-- The access of an element that pier p reads; an element of a block that p does not hold is foreign (R373), with the
address of its owner's copy. -/
def Met.elem (m : Met) (s : State) (p : PierId) : Option Loc → Met
  | some l =>
    let m := m.touch s p l.addr l.size
    match l.comp with
    | some c => m.touch s p c 2
    | Option.none => m
  | Option.none => { m with foreign := if m.foreign.isSome then m.foreign else some 0 }

/-- The access of an element's old error term, which a g8 destination takes in (R173). -/
def Met.oldErr (m : Met) (s : State) (p : PierId) (any : Bool) : Option Loc → Met
  | some l => match l.comp with
    | some c => if any && (s.memHome c).isSome then m else m.touch s p c 2
    | Option.none => m
  | Option.none => m

/-- An absent address among what a header reads besides operands (R564). -/
def Met.meta (m : Met) : Option Nat → Met
  | some a => { m with absent := if m.absent.isSome then m.absent else some a }
  | Option.none => m

/-- How a share reads: at its pier, through the bed caches of a course or from the mortar, or from any home (R394). -/
structure View where
  p : PierId
  bed : Option Nat
  any : Bool
  deriving DecidableEq, Repr

/-- The earlier contents that a view may find in a line: views below 48 name a course, the others 48 + a core. -/
def BedLine.oldsFor (b : BedLine) (v : Nat) : List (List Byte) :=
  if v < 48 then (if b.course == v then b.olds.map (·.2) else [])
  else if b.course == (v - 48) / 16 then (b.olds.filter fun o => bitAt o.1 ((v - 48) % 16)).map (·.2) else []

/-- A byte as the view reads it: from another home, from no memory or through a crossing that refuses it zero (R372, R373, R438); from a line that the bed caches may
hold in an earlier state, any of its contents (R376, log 7). -/
def State.viewByte (s : State) (v : View) (a : Nat) : Byte :=
  match s.memHome a with
  | none => 0
  | some h =>
    if h != v.p && !v.any then 0
    else
      let now := if s.dead h (lineOf a) then 0 else memGet s.mem (wrap52 a)
      match v.bed with
      | none => now
      | some c =>
        let olds := ((s.pier v.p).bed.filter fun b => b.line == lineOf a).flatMap (·.oldsFor c)
        match olds[Config.staleRead s.free (lineOf a + c) % (olds.length + 1)]? with
        | some old => byteAt old (wrap52 a % 64)
        | none => now

def State.viewWord (s : State) (v : View) (a : Nat) : Nat → Nat
  | 0 => 0
  | n + 1 => (s.viewByte v a).toNat + 256 * s.viewWord v (a + 1) n

/-- The canonical NaN code of a format, +0 where it has none (R156, R386). -/
def Fmt.poisonCode (f : Fmt) : Nat :=
  match f.spec with
  | some sp => sp.nanCode
  | none => 0

/-- Whether a view's read of an address reaches memory: neither absent nor foreign nor refused (R372, R373, R438). -/
def State.sees (s : State) (v : View) (a : Nat) : Bool :=
  match s.memHome a with
  | none => false
  | some h => (h == v.p || v.any) && !s.dead h (lineOf a)

/-- Whether a view's read of an address delivers poison (R386). -/
def State.poisoned (s : State) (v : View) (a : Nat) : Bool := s.poison.contains (lineOf a) && s.sees v a

/-- An element's code and its error term's code; a poisoned line gives NaN codes (R386), but an absent or foreign element is zero (R372,
R373). -/
def State.code (s : State) (v : View) (f : Fmt) : Option Loc → Nat × Nat
  | none => (0, 0)
  | some l =>
    if s.poisoned v l.addr then (f.poisonCode, 0)
    else
      let w := s.viewWord v l.addr l.size
      let q := if l.nib == 0 then w else if l.nib == 1 then w % 16 else w / 16
      let e := match l.comp with
        | some c => if s.poisoned v c then 0 else s.viewWord v c 2
        | none => 0
      (q, e)

/-- An element's value in the vector class before scaling: a g8 element with its error term (R149, R155, R164, R172); an error
term of +0 adds nothing and leaves q's sign. -/
def vecVal (f : Fmt) (flush : Bool) (c : Nat × Nat) : FV :=
  let q : FV := ⟨decodeFlush f c.1 flush, flush && codeSub f c.1⟩
  if f == .g8 && c.2 != 0 then ⟨q.v.add (decodeFlush .bf16 c.2 flush), q.fl || (flush && codeSub .bf16 c.2)⟩ else q

/-- An element as vector-unit work reads it, in working precision (R160). -/
def Wp.read (w : Wp) (t : Tens) (c : Nat × Nat) : FV :=
  let x := vecVal t.form w.flush c
  w.rnd ((f32 t.scale).mul x.v) x.fl

/-- The working precision for a tensor (R160). -/
def Tens.wp (t : Tens) (flush : Bool) : Wp := ⟨t.form == .fp64, flush⟩

/-! ## Writing -/

/-- One element written: its write tile (R129), place, code and error term. -/
structure Wr where
  tile : Nat
  loc : Option Loc
  code : Nat
  err : Nat
  deriving DecidableEq, Repr

/-- One element's code put to memory; an fp4 element only its nibble (R131). -/
def State.putCode (s : State) (via : WriteVia) (full : List Nat) (l : Loc) (code : Nat) : State :=
  if l.nib == 0 then s.writePart via full l.addr (leBytes l.size code)
  else
    let b := (s.rawByte l.addr).toNat
    let b := if l.nib == 1 then b / 16 * 16 + code % 16 else b % 16 + code % 16 * 16
    s.writePart via full l.addr [BitVec.ofNat 8 b]

/-- An element's code and its error term put to memory, each where it is at home. -/
def State.putPart (s : State) (via : WriteVia) (full : List Nat) (l : Loc) (comp : Option Nat) (ok : Bool) (code err : Nat) : State :=
  let s := if ok then s.putCode via full l code else s
  match comp with
  | some c => s.writePart via full c (leBytes 2 err)
  | none => s

/-- One element's bytes put to memory with its error term. -/
def State.putElem (s : State) (via : WriteVia) (l : Loc) (code err : Nat) : State := s.putPart via [] l l.comp true code err

/-- Whether a write to a tensor is a gradient write that its home pier's trowels find stale (R71, R340). -/
def State.staleGrad (s : State) (p : PierId) (epoch tid : Nat) : Bool :=
  let pr := s.pier p
  pr.epoch % 0x1_0000 != epoch % 0x1_0000 &&
  (let base := 4096 * fld pr.cfg.paramBase.toNat 51 12
   let n := min (fld pr.cfg.paramRange.toNat 40 20) 0x10_0000
   (findUp (fun i =>
      let w := s.rawWord (base + 64 * i + 32) 4
      bitAt w 20 && fld w 19 0 == tid) 0 n).isSome)

/-- What writing has done so far: the state, lines written, the tile that last wrote each element, gradient lines
discarded with their pier, what was met, of poisoned lines the bytes written, 1 for the low nibble and 2 for the high, and the lines
that the writes at hand replace whole. -/
structure Put where
  s : State
  met : Met
  lines : List Nat
  last : List (Nat × Nat × Nat)
  stale : List (PierId × Nat)
  cover : List (Nat × Nat)
  full : List Nat
  deriving DecidableEq, Repr

/-- The bytes of an element, each with the nibbles it takes. -/
def Loc.bytes (l : Loc) : List (Nat × Nat) := (List.range l.size).map fun i => (wrap52 (l.addr + i), if l.nib == 0 then 3 else l.nib)

/-- Where an access to an element's bytes is at home, or free of homes (R394), it is made; otherwise it is met and discarded. -/
def Met.part (m : Met) (s : State) (p : PierId) (any : Bool) (a n : Nat) : Met × Bool :=
  match s.memHome a with
  | Option.none => (m.touch s p a n, false)
  | some h =>
    if h != p && !any then (m.touch s p a n, false)
    else if s.deadPier h then ({ m with refused := true }, false)
    else (m, true)

/-- One write of a share: an absent or foreign place discards it, an element and its error term each by its own home (R372,
R373); an element that another write tile has written keeps either value (R131, log 6); a stale gradient is discarded
(R340). -/
def Put.one (e : Env) (via : WriteVia) (any : Bool) (tid : Nat) (a : Put) (w : Wr) : Put :=
  match w.loc with
  | none => { a with met := a.met.elem a.s e.p none }
  | some l =>
    let (met, ok) := a.met.part a.s e.p any l.addr l.size
    let (met, comp) := match l.comp with
      | some c => let (met, okc) := met.part a.s e.p any c 2; (met, if okc then some c else none)
      | none => (met, none)
    let a := { a with met := met }
    let h := (a.s.memHome l.addr).getD e.p
    if !ok && comp.isNone then a
    else if ok && a.s.staleGrad h e.epoch tid then
      (if a.stale.contains (h, lineOf l.addr) then a else { a with stale := a.stale ++ [(h, lineOf l.addr)] })
    else
      let seen := a.last.find? (fun x => x.1 == l.addr && x.2.1 == l.nib)
      let keep := match seen with
        | some x => x.2.2 != w.tile && Config.survivor (a.s.free + a.last.length) l.addr
        | none => false
      if keep then a
      else
        let bytes := (if ok then l.bytes else []) ++ (match comp with | some c => [(c, 3), (wrap52 (c + 1), 3)] | none => [])
        let ls := bytes.map fun b => lineOf b.1
        { a with
          s := a.s.putPart via a.full l comp ok w.code w.err
          lines := ls.foldl (fun acc x => if acc.contains x then acc else acc ++ [x]) a.lines
          last := (l.addr, l.nib, w.tile) :: a.last.filter (fun x => !(x.1 == l.addr && x.2.1 == l.nib))
          cover := a.cover ++ bytes.filter fun b => a.s.poison.contains (lineOf b.1) }

/-- An error record of a header, for program and anomaly classes (R559). -/
def hdrRecord (s : State) (p : PierId) (h : Header) (cls severity : Nat) : Record :=
  { errorRecord cls severity 15 0 h.unit s.tick with opcode := h.opcode, seq := h.seq, die := p.val }

/-- An operand-anomaly record: the pier counter that added, by its register offset, and how much (R497, R559). -/
def State.anomaly (s : State) (e : Env) (k n addr : Nat) : State :=
  s.log { hdrRecord s e.p e.h 0x0B 0 with address := addr, detail0 := 0x400 + 8 * k, detail1 := n }

/-- Nothing written yet. -/
def Put.start (s : State) (met : Met) : Put := ⟨s, met, [], [], [], [], []⟩

/-- The lines that some bytes, each with its nibbles, make up whole. -/
def coveredLines (bs : List (Nat × Nat)) : List Nat :=
  ((bs.map fun b => lineOf b.1).eraseDups).filter fun l =>
    let mine := bs.filter fun b => lineOf b.1 == l
    mine.length ≥ 64 && (List.range 64).all fun i => (mine.foldl (fun m b => if b.1 == l + i then m ||| b.2 else m) 0) == 3

/-- The lines that a list of writes replaces whole: such a line leaves the drain as one write (R82, R378). -/
def fullLines (ws : List Wr) : List Nat :=
  coveredLines (ws.flatMap fun w => match w.loc with
    | none => []
    | some l => l.bytes ++ (match l.comp with | some c => [(c, 3), (wrap52 (c + 1), 3)] | none => []))

/-- The writes of a share in order. -/
def Put.run (e : Env) (via : WriteVia) (any : Bool) (tid : Nat) (a : Put) (ws : List Wr) : Put :=
  ws.foldl (Put.one e via any tid) { a with full := fullLines ws }

/-- Whether writes have replaced the whole of a poisoned line (R386). -/
def Put.whole (a : Put) (line : Nat) : Bool :=
  (List.range 64).all fun i => (a.cover.foldl (fun m c => if c.1 == line + i then m ||| c.2 else m) 0) == 3

/-- The end of a share's writes: discarded gradient lines counted and recorded (R71); poison ended on the lines that its drain
has replaced whole (R386). -/
def Put.close (e : Env) (a : Put) : State :=
  let st := a.stale.foldl (fun st x =>
    (st.bumpPier x.1 kStaleGrad 1).anomaly { e with p := x.1 } kStaleGrad 1 x.2) a.s
  { st with
    free := st.free + a.last.length + 1
    poison := if a.cover.isEmpty then st.poison else st.poison.filter fun l => !a.whole l }

/-- Whether a header's accesses fail it: a poisoned line does, and a failed domain (R372, R386, R438). -/
def Met.bad (m : Met) : Bool := !m.poison.isEmpty || m.refused

/-- What is counted and recorded once per header for its accesses at a pier (R372, R373, R386). -/
def State.account (s : State) (e : Env) (m : Met) : State :=
  let s := match m.absent with
    | some a => (s.bumpPier e.p kAbsent 1).anomaly e kAbsent 1 a
    | none => s
  let s := match m.foreign with
    | some a => (s.bumpPier e.p kForeign 1).anomaly e kForeign 1 a
    | none => s
  match m.poison with
  | [] => s
  | a :: _ =>
    (s.bumpPier e.p kPoisonRead m.poison.length).log
      { hdrRecord s e.p e.h 0x02 3 with
        unitKind := 3, response := 3, unit := pierUnit e.p, address := a, detail0 := 5 }

end Sys2Proof.Machine
end

