-- ==== Sys2Proof/Machine/Overlap.lean ====
section
/-! DEFINITION. The spans of tensors (R145), and the reads of a header that meet its own writes (R132). -/

namespace Sys2Proof.Machine

/-! ## Spans (R145) -/

/-- The least and greatest of a stride's contribution over an extent, as exact integers (R145). -/
def spanOf (s n : Nat) : Int × Int :=
  let x := sx 64 s * ((n : Int) - 1)
  if n == 0 then (0, 0) else (min 0 x, max 0 x)

/-- The same of dimension 0 in groups of four, the last of which may be short (R121, R145). -/
def groupSpan (s n : Nat) : Int × Int :=
  let whole := spanOf s (n / 4)
  let last := sx 64 s * ((n / 4 : Nat) : Int)
  if n % 4 == 0 then (whole.1, whole.2 + 3)
  else if n < 4 then (0, (n - 1 : Nat))
  else (min whole.1 last, max (whole.2 + 3) (last + (n % 4 - 1 : Nat)))

/-- The least and greatest element offset of a descriptor's formula over extents e0 and e1 (R145). -/
def Tens.offSpan (t : Tens) (e0 e1 : Nat) (outer : Bool) : Int × Int :=
  let d0 := if t.layout == 2 || t.layout == 3 then groupSpan t.s0 e0 else spanOf t.s0 e0
  let d1 := spanOf t.s1 e1
  let d2 := if outer then spanOf t.s2 t.e2 else (0, 0)
  let d3 := if outer then spanOf t.s3 t.e3 else (0, 0)
  (d0.1 + d1.1 + d2.1 + d3.1, d0.2 + d1.2 + d2.2 + d3.2)

/-- An arc of the address circle: first byte and length (R145). -/
structure Arc where
  first : Nat
  len : Nat
  deriving DecidableEq, Repr

def arcOf (f : Fmt) (base : Nat) (lo hi : Int) : Arc :=
  let a : Int := if f == .fp4 then Int.fdiv lo 2 else lo * f.size
  let z : Int := if f == .fp4 then Int.fdiv hi 2 + 1 else (hi + 1) * f.size
  ⟨(((base : Int) + a) % (2 ^ 52 : Nat)).toNat, min (z - a).toNat (2 ^ 52)⟩

/-- The span of a tensor (R145). -/
def Tens.arcs (t : Tens) : List Arc :=
  if t.count == 0 then []
  else match t.own with
    | none =>
      let (lo, hi) := t.offSpan t.e0 t.e1 true
      [arcOf t.form (t.base + t.tw) lo hi]
    | some o => allPiers.filterMap fun p =>
      let held := (List.range o.ents.length).filter (o.holds p)
      let spans := held.map fun x =>
        let w0 := min o.b0 (t.e0 - x % o.n0 * o.b0)
        let w1 := min o.b1 (t.e1 - x / o.n0 % o.n1 * o.b1)
        let (lo, hi) := t.offSpan w0 w1 false
        let z : Int := (o.lam p x * o.slot : Nat)
        (lo + z, hi + z)
      match spans with
      | [] => none
      | x :: xs =>
        let r := xs.foldl (fun a y => (min a.1 y.1, max a.2 y.2)) x
        some (arcOf t.form (o.parts.getD p.val 0 + t.tw) r.1 r.2)

def Arc.meets (a b : Arc) : Bool :=
  a.len ≥ 2 ^ 52 || b.len ≥ 2 ^ 52 ||
  (a.len != 0 && b.len != 0 && (subMod (2 ^ 52) b.first a.first < a.len || subMod (2 ^ 52) a.first b.first < b.len))

/-- Whether a copy overlaps (R145). -/
def overlaps (a d : Tens) : Bool := a.arcs.any fun x => d.arcs.any fun y => x.meets y

/-! ## Sources over a header's destination (R132) -/

/-- The bytes of an element and of its error term. -/
def Loc.arcs (l : Loc) : List Arc := ⟨l.addr, l.size⟩ :: l.comp.toList.map fun c => ⟨c, 2⟩

/-- Whether two elements share a byte, or for fp4 a nibble. -/
def Loc.meets (l m : Loc) : Bool :=
  if l.nib != 0 && m.nib != 0 then l.addr == m.addr && l.nib == m.nib
  else l.arcs.any fun x => m.arcs.any fun y => x.meets y

/-- The capacity word of a list area as a pier reads it: zero where it is absent or foreign (R220, R372, R373). -/
def State.capAt (s : State) (p : PierId) (a : Nat) : Nat := s.viewWord ⟨p, none, false⟩ (a + 4) 4

/-- The entries that a block-list tensor has room for (R220). -/
def State.listCap (s : State) (p : PierId) (t : Tens) : Nat := if t.layout == 4 then s.capAt p t.auxT else 0

/-- The tensor whose elements are the u32 words of positions (R208, R210, R214). -/
def Tens.words (t : Tens) : Tens := { t with fmt := 9, aux := 0 }

/-- What a tensor's elements lie in: value blocks, of which there are n, value slots, or the spans of its layout's formula; a
row operation takes every tensor as its formula has it (R144). -/
def Tens.region (t : Tens) (row : Bool) (n : Nat) : List Arc :=
  if t.count == 0 then []
  else if !row && t.layout == 4 then [⟨wrap52 (t.base + t.tw), n * 32 * t.form.bits⟩]
  else if !row && t.layout == 5 then ({ t with layout := 0, e0 := 2 * cdiv t.e0 4, s0 := 1 } : Tens).arcs
  else match t.dist with
    | none => t.arcs
    | some c =>
      if t.own.isSome then [⟨0, 2 ^ 52⟩]
      else
        let (lo, hi) := t.offSpan t.e0 t.e1 true
        t.arcs ++ [arcOf .bf16 (t.base + t.tw + c) lo hi]

/-- A tensor's elements as pier p finds them, with their logical indices; `own`: of the blocks that it owns alone (R142). -/
def Tens.places (t : Tens) (p : PierId) (row own : Bool) (n : Nat) : List (List Nat × Loc) :=
  if !row && t.layout == 4 then
    (List.range n).flatMap fun v => (List.range 256).map fun w => ([v, w], t.blockLoc v w)
  else
    let outer := (List.range t.e3).flatMap fun i3 => (List.range t.e2).flatMap fun i2 => (List.range t.e1).map fun i1 => (i1, i2, i3)
    if !row && t.layout == 5 then
      outer.flatMap fun (i1, i2, i3) => (List.range (cdiv t.e0 4)).flatMap fun q =>
        (List.range 2).map fun v => ([q, v, i1, i2, i3], t.slotLoc q v i1 i2 i3)
    else
      outer.flatMap fun (i1, i2, i3) => (List.range t.e0).filterMap fun i0 =>
        let mine := match t.own with
          | none => true
          | some o => !own || o.owner (t.entry o (if row then 0 else i0) i1 i2 i3) == p
        if !mine then none
        else
          let ix := if !row && t.swapped then [i1, i0, i2, i3] else [i0, i1, i2, i3]
          (if row then t.locRow p i0 i1 i2 i3 else t.loc p i0 i1 i2 i3).map fun l => (ix, l)

/-- Whether two tensors have every element of one index at one place: then each read is at its own write's index. -/
def Tens.sameMap (a d : Tens) (row : Bool) : Bool :=
  (row || !(a.sparse || d.sparse)) && a.base == d.base && a.tw == d.tw && a.layout == d.layout && a.s0 == d.s0 &&
  a.s1 == d.s1 && a.s2 == d.s2 && a.s3 == d.s3 && a.form.bits == d.form.bits && a.own == d.own && a.dist == d.dist &&
  (a.own.isNone || a.e2 == d.e2)

/-- A source with the elements that meet a destination's at other indices marked (R132): there each read returns the prior value
or one that the header wrote. At the same index a read returns the prior value. -/
def Tens.against (a : Tens) (p : PierId) (row : Bool) (na : Nat) (d : Tens) (nd : Nat) : Tens :=
  if a.count == 0 || d.count == 0 || d.fmt ≥ 10 || a.sameMap d row ||
      !((a.region row na).any fun x => (d.region row nd).any fun y => x.meets y) then a
  else
    let ds := d.places p row true nd
    { a with mixed := a.mixed ++ (a.places p row false na).filterMap fun x =>
        let hits := ds.filter fun y => y.2.meets x.2
        if hits.any (fun y => y.1 != x.1) && !(hits.any fun y => y == x) then some x.2 else none }

/-- The code and error term that a header reads at an element that its own writes may have changed, before those are known: a free
value, which `Out.settled` then holds to what R132 allows (log 8). -/
def Tens.guessed (t : Tens) (x : Loc) : Nat × Nat :=
  let n := Config.overlapRead t.guess (2 * x.addr + x.nib % 2)
  (n % 2 ^ t.form.bits, if x.comp.isSome then n / 2 ^ t.form.bits % 0x1_0000 else 0)

/-- A source element's code and error term: free where the header's own writes may be met (R132, log 8). -/
def State.elem (s : State) (v : View) (t : Tens) (l : Option Loc) : Nat × Nat :=
  match l with
  | none => s.code v t.form none
  | some x => if t.mixed.contains x then t.guessed x else s.code v t.form (some x)

/-- The value of one byte that a write of an element puts at an address, if it writes it whole. -/
def Wr.byteAt (w : Wr) (a : Nat) : Option Nat :=
  match w.loc with
  | none => none
  | some l =>
    if l.nib == 0 && subMod (2 ^ 52) a l.addr < l.size then some (w.code / 256 ^ subMod (2 ^ 52) a l.addr % 256)
    else match l.comp with
      | some c => if subMod (2 ^ 52) a c < 2 then some (w.err / 256 ^ subMod (2 ^ 52) a c % 256) else none
      | none => none

/-- Whether a guess at an element is the prior value or one that the header wrote there (R132): where elements of another place overlap
it, byte by byte. -/
def Tens.agreesAt (t : Tens) (prior : Nat × Nat) (ws : List Wr) (x : Loc) : Bool :=
  let g := t.guessed x
  g == prior || ws.any (fun w => w.loc == some x && (w.code, w.err) == g) ||
  (ws.any (fun w => w.loc != some x && (w.loc.map (·.meets x)).getD false) && x.nib == 0 &&
    (List.range x.size).all fun i =>
      let b := g.1 / 256 ^ i % 256
      b == prior.1 / 256 ^ i % 256 || ws.any fun w => w.byteAt (x.addr + i) == some b)

/-- Whether all of a tensor's guesses are such values. -/
def State.agrees (s : State) (p : PierId) (t : Tens) (ws : List Wr) : Bool :=
  t.mixed.all fun x => t.agreesAt (s.code ⟨p, none, false⟩ t.form (some x)) ws x

end Sys2Proof.Machine
end

