-- ==== Sys2Proof/Machine/Flags.lean ====
section
/-! DEFINITION. The flags and figures that a share leaves: PIER_FP_FLUSHED (R166), PIER_NONFINITE (R206), side statistics
(R200 to R205), sparse figures (R255 to R258) and the anomaly counters of courses (R90, R121, R149). -/

namespace Sys2Proof.Machine

/-- A word with one bit set. -/
def setBit (w : U64) (n : Nat) : U64 := w ||| BitVec.ofNat 64 (2 ^ n)

/-- A vector-class value of a stream was flushed on a pier (R166). -/
def State.setFlushed (s : State) (p : PierId) (stream : Nat) : State :=
  s.updPier p fun pr => { pr with fpFlushed := setBit pr.fpFlushed stream }

def State.flushedIf (s : State) (p : PierId) (stream : Nat) (b : Bool) : State := if b then s.setFlushed p stream else s

/-- A drain of a stream took a non-finite w, or saturated (R206). -/
def State.setNonfinite (s : State) (p : PierId) (stream : Nat) (nonfin sat : Bool) : State :=
  s.updPier p fun pr =>
    let w := if nonfin then setBit pr.nonfinite stream else pr.nonfinite
    { pr with nonfinite := if sat then setBit w (4 + stream) else w }

/-- The layout- or format-anomaly counter of each course of a list, one per header (R90, R121, R149). -/
def State.courseAnomaly (s : State) (p : PierId) (layout : Bool) (cs : List Nat) (n : Nat) : State :=
  cs.foldl (fun s c => s.bump (if layout then layoutAnomaly (courseId p c) else formatAnomaly (courseId p c)) n) s

/-! ## Side statistics -/

/-- What one core's drains have taken in so far (R200, R203). -/
structure Side where
  amax : Nat
  nan : Bool
  infinite : Bool
  saturated : Bool
  sumSq : Val
  elements : Nat
  deriving DecidableEq, Repr

def Side.empty : Side := ⟨0, false, false, false, .zero, 0⟩

/-- An fp64 sum with one nearest-even rounding. -/
def add64 (a b : Val) : Val := FpSpec.s64.round .even (a.add b)

/-- One drained element: its fp32 value w and whether its conversion wrote a limit, which counts for a finite w (R200, R201). -/
def Side.take (a : Side) (w : Val) (sat : Bool) : Side :=
  match w with
  | .nan => { a with nan := true }
  | .inf _ => { a with infinite := true }
  | .fin _ _ _ =>
    { a with amax := max a.amax (f32Code w.abs), sumSq := add64 a.sumSq (w.mul w), elements := a.elements + 1
             saturated := a.saturated || sat }

/-- A core's figures added to those of the cores before it (R203). -/
def Side.join (a b : Side) : Side :=
  ⟨max a.amax b.amax, a.nan || b.nan, a.infinite || b.infinite, a.saturated || b.saturated, add64 a.sumSq b.sumSq,
    a.elements + b.elements⟩

def Side.fig (a : Side) (p : PierId) (tid : Nat) : StatFig :=
  ⟨p, tid, a.amax, a.nan || a.infinite, a.nan, a.infinite, a.saturated, FpSpec.s64.encode a.sumSq, a.elements⟩

/-- Figures of two products of one share. -/
def StatFig.join (a b : StatFig) : StatFig :=
  { a with
    amax := max a.amax b.amax, nonfinite := a.nonfinite || b.nonfinite, nan := a.nan || b.nan
    infinite := a.infinite || b.infinite, saturated := a.saturated || b.saturated
    sumSq := FpSpec.s64.encode (add64 (FpSpec.s64.decode a.sumSq) (FpSpec.s64.decode b.sumSq))
    elements := a.elements + b.elements }

/-- fp64 codes added exactly and rounded once (R202, R256). -/
def addCode64 (a b : Nat) : Nat := FpSpec.s64.encode (add64 (FpSpec.s64.decode a) (FpSpec.s64.decode b))

/-- Entries of the statistics and sparse tables (R200). -/
def PierCfg.tableCount (c : PierCfg) : Nat := min (fld c.statsCount.toNat 16 0) 65536

/-- The line that the entry of a share's statistics lies in, if they are combined at all. -/
def State.statLine (s : State) (f : StatFig) : Option Nat :=
  let c := (s.pier f.pier).cfg
  let a := 4096 * fld c.statsBase.toNat 51 12 + 32 * f.tensor
  if c.tableCount == 0 || f.tensor ≥ c.tableCount || s.reach f.pier a != .ok then none else some (lineOf a)

/-- A share's statistics combined into the entry of its tensor id (R201, R202, R204, R205). -/
def State.combineStat (s : State) (epoch seq : Nat) (f : StatFig) : State :=
  let c := (s.pier f.pier).cfg
  if c.tableCount == 0 then s
  else
    let a := 4096 * fld c.statsBase.toNat 51 12 + 32 * f.tensor
    if f.tensor ≥ c.tableCount || s.reach f.pier a != .ok then s.bumpPier f.pier kStatsSkipped 1
    else
      let w0 := s.rawWord a 8
      let same := fld w0 47 32 == epoch % 0x1_0000
      let amax := if same then max (fld w0 31 0) f.amax else f.amax
      let flag := fun n b => b2n (b || (same && bitAt w0 n)) * 2 ^ n
      let hd := if same then min 4095 (fld w0 63 52 + 1) else 1
      let w0' := amax + 2 ^ 32 * (epoch % 0x1_0000) + flag 48 f.nonfinite + flag 49 f.nan + flag 50 f.infinite +
        flag 51 f.saturated + 2 ^ 52 * hd
      let sq := if same then addCode64 (s.rawWord (a + 8) 8) f.sumSq else f.sumSq
      let n := if same then wrap64 (s.rawWord (a + 16) 8 + f.elements) else f.elements
      s.writeBytes .mortar a (leBytes 8 w0' ++ leBytes 8 sq ++ leBytes 8 n ++ leBytes 8 (seq % 0x1_0000))

/-! ## Sparse figures -/

def SparseFig.empty (p : PierId) (tid : Nat) : SparseFig := ⟨p, tid, 0, 0, 0, 0, 0, 0, 0, 0, 0, 0⟩

/-- Whether there is anything to record (R256). -/
def SparseFig.some (f : SparseFig) : Bool :=
  f.drops + f.malformed + f.badEntries + f.audited + f.missed + f.unserved + f.overflow != 0 || f.loss != 0

def SparseFig.join (a b : SparseFig) : SparseFig :=
  { a with
    drops := a.drops + b.drops, loss := addCode64 a.loss b.loss, malformed := a.malformed + b.malformed
    badEntries := a.badEntries + b.badEntries, audited := a.audited + b.audited, missed := a.missed + b.missed
    missAmax := max a.missAmax b.missAmax, unserved := a.unserved + b.unserved
    missSumSq := addCode64 a.missSumSq b.missSumSq, overflow := a.overflow + b.overflow }

/-- Figures joined to those a list holds for the same pier and tensor. -/
def addFig (l : List SparseFig) (f : SparseFig) : List SparseFig :=
  if !f.some then l
  else if l.any (fun g => g.pier == f.pier && g.tensor == f.tensor) then
    replaceFirst (fun g => g.pier == f.pier && g.tensor == f.tensor) (fun g => g.join f) l
  else l ++ [f]

/-- Saturating 32-bit and 64-bit sums. -/
def satAdd32 (a b : Nat) : Nat := min (a + b) 0xFFFF_FFFF
def satAdd64 (a b : Nat) : Nat := min (a + b) 0xFFFF_FFFF_FFFF_FFFF

/-- The line of a sparse entry, as `State.statLine`. -/
def State.sparseLine (s : State) (f : SparseFig) : Option Nat :=
  let c := (s.pier f.pier).cfg
  let base := 4096 * fld c.sparseBase.toNat 51 12
  let a := base + 64 * f.tensor
  if c.tableCount == 0 || base == 0 || f.tensor ≥ c.tableCount || s.reach f.pier a != .ok then none else some (lineOf a)

/-- A share's sparse figures combined into the entry of their tensor id (R255, R256). -/
def State.combineSparse (s : State) (epoch seq : Nat) (f : SparseFig) : State :=
  let c := (s.pier f.pier).cfg
  let base := 4096 * fld c.sparseBase.toNat 51 12
  if c.tableCount == 0 || base == 0 then s
  else
    let a := base + 64 * f.tensor
    if f.tensor ≥ c.tableCount || s.reach f.pier a != .ok then s.bumpPier f.pier kStatsSkipped 1
    else
      let same := fld (s.rawWord a 8) 15 0 == epoch % 0x1_0000
      let old := fun o n => if same then s.rawWord (a + o) n else 0
      let hd := if same then min 65535 (fld (s.rawWord a 8) 31 16 + 1) else 1
      let sum := fun o v => leBytes 4 (satAdd32 (old o 4) v)
      s.writeBytes .mortar a
        (leBytes 2 epoch ++ leBytes 2 hd ++ leBytes 4 0 ++ leBytes 8 (satAdd64 (old 8 8) f.drops) ++
         leBytes 8 (if same then addCode64 (old 16 8) f.loss else f.loss) ++ sum 24 f.malformed ++ sum 28 f.badEntries ++
         sum 32 f.audited ++ sum 36 f.missed ++ leBytes 4 (max (old 40 4) f.missAmax) ++ sum 44 f.unserved ++
         leBytes 8 (if same then addCode64 (old 48 8) f.missSumSq else f.missSumSq) ++ sum 56 f.overflow ++
         leBytes 2 seq ++ leBytes 2 0)

/-- A pier counter of sparse anomalies advanced by a share's additions, with its one record (R257, R258). -/
def State.sparseCount (s : State) (e : Env) (k n : Nat) : State :=
  if n == 0 then s else (s.bumpPier e.p k n).anomaly e k n 0

/-! ## What a share answers -/

/-- The outcome of a pier's share of a header; the writes it made, and the sources it read with guesses (R132). -/
structure Out where
  s : State
  err : Bool
  lines : List Nat
  stats : List StatFig
  sparse : List SparseFig
  jobs : Nat
  wrote : List Wr
  marked : List Tens
  deriving DecidableEq, Repr

def Out.of (s : State) : Out := ⟨s, false, [], [], [], 0, [], []⟩

/-- A share run with its guesses at the elements that overlap its own writes; where one of them is neither the prior value nor one that
the share wrote, run with the prior values (R132, log 8). -/
def State.settled (s : State) (p : PierId) (run : Bool → Out) : Out :=
  let o := run true
  if o.marked.all fun t => s.agrees p t o.wrote then o else run false

/-- A source marked against a destination, in a run with guesses. -/
def Tens.guard (a : Tens) (mix : Bool) (p : PierId) (row : Bool) (na : Nat) (d : Tens) (nd : Nat) : Tens :=
  if mix then a.against p row na d nd else a

/-- The lines that a share reads, by the way in which its unit reads: access engines, or trowels (R378). -/
def State.readLines (s : State) (e : Env) (via : WriteVia) (met : Met) : State :=
  match via with
  | .mortar => s.engineLines e met.fetched
  | .trowel => s.trowelLines e.p met.lines
  | .quoin => s

/-- A share's accesses accounted and its writes made. -/
def State.settle (s : State) (e : Env) (via : WriteVia) (any : Bool) (tid : Nat) (met : Met) (ws : List Wr) : Out :=
  let a := (Put.start (s.readLines e via met) met).run e via any tid ws
  { Out.of ((a.close e).account e a.met) with err := a.met.bad, lines := a.lines, wrote := ws }

end Sys2Proof.Machine
end

