-- ==== Sys2Proof/Machine/Tables.lean ====
section
/-! DEFINITION. Activation tables (R305 to R310) and the fallback functions (R314 to R317). -/

namespace Sys2Proof.Machine

/-! ## The table block and the stores -/

/-- Address of a pier's table block (R305). -/
def PierCfg.tableAt (c : PierCfg) : Nat := 4096 * fld c.tableBase.toNat 51 12

/-- A core's store while it is available (R305, R314). -/
def Pier.store (p : Pier) (core : Nat) : Option TableStore := p.stores.find? (fun t => t.core == core && t.avail)

/-- Whether a core, or its course, is being sounded in its place (R314, R487): no spare stands in for it yet. -/
def State.coreSounded (s : State) (p : PierId) (core : Nat) : Bool :=
  s.sounding.any fun x => x.old.isNone && (match x.unit with
    | .core c => c.pier == p && 16 * c.course.val + c.core.val == core
    | .course c => c.pier == p && c.course.val == core / 16
    | _ => false)

/-- A core's store, unless it is being sounded (R314). -/
def State.store (s : State) (p : PierId) (core : Nat) : Option TableStore :=
  if s.coreSounded p core then none else (s.pier p).store core

/-- Word of n bytes at an offset of the tables as a core reads them: its store, or the block in memory (R314). -/
def State.tableWord (s : State) (p : PierId) (core off n : Nat) : Nat :=
  match s.store p core with
  | some t => ofBytes ((List.range n).map fun i => memGet t.bytes (off + i))
  | none => s.rawWord ((s.pier p).cfg.tableAt + off) n

/-- A directory entry (R306). -/
structure TabEntry where
  kind : Nat
  builtin : Nat
  fwd : Nat
  der : Nat
  emin : Int
  nb : Nat
  k : Nat
  deriving DecidableEq, Repr

def State.tabEntry (s : State) (p : PierId) (core id : Nat) : TabEntry :=
  let w := s.tableWord p core (16 * id) 8
  { kind := fld w 1 0, builtin := fld w 5 2, fwd := fld w 18 8, der := fld w 29 19, emin := sx 8 (fld w 39 32)
    nb := fld w 44 40 + 1, k := min (fld w 47 45) 4 }

/-- An evaluated value and whether a segment above 1,983 was read (R307, R309). -/
structure Ev where
  v : FV
  beyond : Bool
  deriving DecidableEq, Repr

/-- The segment of a part that a value falls in (R307). -/
def TabEntry.segment (t : TabEntry) (x : Val) : Nat :=
  let sg := b2n x.sign
  let main := (2 * t.nb) <<< t.k
  match x with
  | .fin _ m _ =>
    if m == 0 then main + sg
    else
      let ex := x.expo
      if ex < -126 || ex < t.emin then main + sg
      else if ex ≥ t.emin + t.nb then main + 2 + sg
      else
        let top := if Nat.log2 m ≥ t.k then m >>> (Nat.log2 m - t.k) else m <<< (t.k - Nat.log2 m)
        ((sg * t.nb + (ex - t.emin).toNat) <<< t.k) + top % 2 ^ t.k
  | _ => main + 2 + sg

/-- A coefficient of a segment; a segment above 1,983 reads as +0 (R307). -/
def State.coeff (s : State) (p : PierId) (core seg i : Nat) (w : Wp) : FV :=
  if seg > 1983 then .zero
  else
    let c := s.tableWord p core (1024 + 16 * seg + 4 * i) 4
    ⟨decodeFlush .fp32 c w.flush, w.flush && codeSub .fp32 c⟩

/-- An elementwise part at a working-precision fp32 value (R307). -/
def State.evaluate (s : State) (p : PierId) (core : Nat) (w : Wp) (t : TabEntry) (first : Nat) (x : FV) : Ev :=
  let seg := first + t.segment x.v
  let c := fun i => s.coeff p core seg i w
  match x.v with
  | .nan => ⟨x, false⟩
  | .inf _ => ⟨⟨(c 0).v, x.fl || (c 0).fl⟩, seg > 1983⟩
  | _ => ⟨w.fma (w.fma (w.fma (c 3) x (c 2)) x (c 1)) x (c 0), seg > 1983⟩

/-! ## Fallback functions (R316) -/

/-- e^x to about 190 bits. -/
def expVal : Val → Val
  | .nan => .nan
  | .inf s => if s then .zero else .inf false
  | .fin s m e =>
    if m == 0 then .one
    else if (Nat.log2 m : Int) + e ≥ 12 then (if s then .fin false 1 (-9000) else .fin false 1 9000)
    else expApprox s m e

/-- The logistic function. -/
def sigma (x : Val) : Val := Val.one.div (Val.one.add (expVal x.neg))

/-- A decimal constant with six places. -/
def micro (n : Nat) : Val := (Val.fin false n 0).div (.fin false 1000000 0)

def two : Val := .fin false 2 0

/-- Twice the argument of GELU's tanh: 2 × 0.797885 (x + 0.044715 x³). -/
def geluArg (x : Val) : Val := (two.mul (micro 797885)).mul (x.add ((micro 44715).mul (x.mul (x.mul x))))

/-- A fallback function or its derivative (R316), to far more bits than fp32 at finite arguments, its limits at ±∞, a zero limit being +0
(DESIGN CHOICE: R316 gives no sign; log 96); at NaN, where x > 0 does not hold, the rectifier and its derivative are +0, the
identity's derivative is 1, and the others NaN. -/
def builtinVal (b : Nat) (der : Bool) (x : Val) : Val :=
  match x with
  | .nan =>
    match b, der with
    | 1, true => .one
    | 2, _ => .zero
    | _, _ => .nan
  | .inf s =>
    match b, der with
    | 3, false => if s then .zero else x
    | 3, true => if s then .zero else .one
    | 4, false => if s then .zero else x
    | 4, true => if s then .zero else .one
    | 5, false => if s then .zero else .one
    | 5, true => .zero
    | 6, false => .fin s 1 0
    | 6, true => .zero
    | 7, false => .inf false
    | 7, true => x
    | 8, _ => if s then .zero else x
    | 2, false => if s then .zero else x
    | 2, true => if s then .zero else .one
    | _, false => x
    | _, true => .one
  | .fin s m _ =>
    match b, der with
    | 2, false => if s || m == 0 then .zero else x
    | 2, true => if s || m == 0 then .zero else .one
    | 3, false => x.mul (sigma (geluArg x))
    | 3, true =>
      let z := geluArg x
      let z' := (two.mul (micro 797885)).mul (Val.one.add ((micro 134145).mul (x.mul x)))
      (sigma z).add ((x.mul z').mul ((sigma z).mul (sigma z.neg)))
    | 4, false => x.mul (sigma x)
    | 4, true => (sigma x).mul (Val.one.add (x.mul (sigma x.neg)))
    | 5, false => sigma x
    | 5, true => (sigma x).mul (sigma x.neg)
    | 6, false =>
      let y := expVal (two.mul x)
      (y.add Val.one.neg).div (y.add .one)
    | 6, true => (Val.fin false 4 0).mul ((sigma (two.mul x)).mul (sigma (two.mul x).neg))
    | 7, false => (x.mul x).mul (.fin false 1 (-1))
    | 7, true => x
    | 8, _ => expVal x
    | _, false => x
    | _, true => .one

/-- The fp32 values within a relative 2^−14 of a finite value, one chosen by a free deviation (R316, log 10). -/
def deviate (dev : Nat) (v : Val) : Val :=
  match v with
  | .fin s m e =>
    if m == 0 then v
    else
      let (n, q) := roundMag .s32 .even m e
      let d := n / 16384 - 1
      .fin s (n + dev % (2 * d + 1) - d) q
  | v => v

/-- A fallback function in fp32 (R316): codes 1, 2 and 7 up to one rounding of each operation. -/
def builtinEval (w : Wp) (b : Nat) (der : Bool) (x : FV) : FV :=
  if b == 7 && !der then w.mul (w.mul x x) ⟨.fin false 1 (-1), false⟩
  else if b == 1 || b == 2 || b == 7 then w.rnd (builtinVal b der x.v) x.fl
  else w.rnd (deviate (Config.builtinDev b der (FpSpec.s32.encode x.v)) (builtinVal b der x.v)) x.fl

/-- Builtin codes that name a function; the others wait for the store (R316, R317). -/
def builtinOn (b : Nat) : Bool := 1 ≤ b && b ≤ 8

/-- Whether a table id on some core of a list needs the fallback of an entry that has none (R317). -/
def State.mustWait (s : State) (p : PierId) (cores : List Nat) (id : Nat) : Bool :=
  cores.any fun c =>
    (s.store p c).isNone &&
    (let t := s.tabEntry p c id
     t.kind == 1 && !builtinOn t.builtin)

/-- One elementwise lookup on a core: table path or fallback; an absent table or, for a drain, a row kind is the identity,
and the factor 1 for a derivative (R308, R309, R314). -/
structure Look where
  v : FV
  anomaly : Bool
  fallback : Bool
  deriving DecidableEq, Repr

def State.lookup (s : State) (p : PierId) (core id : Nat) (w : Wp) (der : Bool) (x : FV) : Look :=
  let t := s.tabEntry p core id
  if t.kind != 1 then ⟨if der then ⟨.one, x.fl⟩ else x, true, false⟩
  else if (s.store p core).isSome then
    let r := s.evaluate p core w t (if der then t.der else t.fwd) x
    ⟨r.v, r.beyond, false⟩
  else ⟨builtinEval w t.builtin der x, false, true⟩

end Sys2Proof.Machine
end

