-- ==== Sys2Proof/Machine/Lists.lean ====
section
/-! DEFINITION. Sparse operands: block lists and their acceptance (R219 to R226), position codes (R227, R228), and the
reading of a matrix operand's elements in the logical view (R90, R92, R124 to R126, R149). -/

namespace Sys2Proof.Machine

/-! ## Block lists -/

/-- Block extents of a block-list tensor (R219). -/
def Tens.br (t : Tens) : Nat := min (cdiv t.e1 16) 65536
def Tens.bc (t : Tens) : Nat := min (cdiv t.e0 16) 65536

/-- An accepted entry: block row, block column, value position. -/
structure Blk where
  r : Nat
  k : Nat
  v : Nat
  deriving DecidableEq, Repr

/-- A scan's outcome (R224): accepted blocks in list order, entries skipped for range and for order, accesses met. -/
structure Scan where
  blocks : List Blk
  badRange : Nat
  badOrder : Nat
  met : Met
  deriving DecidableEq, Repr

/-- The key of the column-sorted order (R221). -/
def colKey (e : Nat) : Nat := 0x1_0000 * (e % 0x1_0000) + e / 0x1_0000

/-- What a scan holds while it runs: the outcome and the last accepted key. -/
def acceptOne (col : Bool) (n BR BC : Nat) (a : Scan × Option Nat) (x : Nat × Nat) : Scan × Option Nat :=
  let (sc, last) := a
  let (e, v) := x
  let r := e / 0x1_0000
  let k := e % 0x1_0000
  let key := if col then colKey e else e
  if r ≥ BR || k ≥ BC || v ≥ n then ({ sc with badRange := sc.badRange + 1 }, last)
  else if (match last with | some l => decide (key ≤ l) | none => false) then ({ sc with badOrder := sc.badOrder + 1 }, last)
  else ({ sc with blocks := sc.blocks ++ [⟨r, k, v⟩] }, some key)

/-- The scan of a list against block extents (R224); a list area at aux 0 has no entries (R149, R225). -/
def State.scan (s : State) (v : View) (t : Tens) (col : Bool) (BR BC : Nat) : Scan :=
  if t.aux == 0 then ⟨[], 0, 0, .none⟩
  else
    let a := t.auxT
    let n := s.viewWord v a 4
    let cap := s.viewWord v (a + 4) 4
    let base := if col then a + 64 + 4 * cap else a + 64
    let ix := List.range n
    let ents := ix.map fun i => (s.viewWord v (base + 4 * i) 4, if col then s.viewWord v (a + 64 + 8 * cap + 4 * i) 4 else i)
    let met := Met.none.touch s v.p a 8
    let met := ix.foldl (fun m i =>
      let m := m.touch s v.p (base + 4 * i) 4
      if col then m.touch s v.p (a + 64 + 8 * cap + 4 * i) 4 else m) met
    (ents.foldl (acceptOne col n BR BC) (⟨[], 0, 0, met⟩, none)).1

/-- The value position of a block in a scan's blocks. -/
def blockAt (bs : List Blk) (r k : Nat) : Option Nat := (bs.find? (fun b => b.r == r && b.k == k)).map (·.v)

/-- Two outcomes of accesses as one. -/
def Met.join (a b : Met) : Met :=
  { absent := if a.absent.isSome then a.absent else b.absent
    foreign := if a.foreign.isSome then a.foreign else b.foreign
    poison := b.poison.foldl (fun acc x => if acc.contains x then acc else acc ++ [x]) a.poison
    fetched := b.fetched.foldl (fun acc x => if acc.contains x then acc else acc ++ [x]) a.fetched
    refused := a.refused || b.refused
    by_ := a.by_ }

/-! ## Position codes -/

/-- The position code of group q (R121, R149): 0 without a code area. -/
def State.code24 (s : State) (v : View) (t : Tens) (q i1 i2 i3 : Nat) : Nat :=
  if t.aux == 0 then 0
  else
    let (a, hi) := t.codeAddr q i1 i2 i3
    let b := (s.viewByte v a).toNat
    if hi == 0 then b % 16 else b / 16

/-- The slots that a code places, with their positions in the group; a malformed code places slot 0 only (R228). -/
def sel24 (code : Nat) : List (Nat × Nat) :=
  let p0 := code % 4
  let p1 := code / 4 % 4
  if p0 == p1 then [(0, p0)] else [(0, p0), (1, p1)]

def malformed24 (code : Nat) : Bool := code % 4 == code / 4 % 4

/-- The value slot that a 2-of-4 tensor's element takes, if its group's code selects its position (R227). -/
def State.slot24 (s : State) (v : View) (t : Tens) (i0 i1 i2 i3 : Nat) : Option Loc :=
  match (sel24 (s.code24 v t (i0 / 4) i1 i2 i3)).find? (fun x => x.2 == i0 % 4) with
  | some x => some (t.slotLoc (i0 / 4) x.1 i1 i2 i3)
  | none => none

/-- Malformed groups among those of a 2-of-4 tensor, each counted once (R228). -/
def State.malformedGroups (s : State) (v : View) (t : Tens) : Nat :=
  ((List.range (cdiv t.e0 4)).flatMap fun q => (List.range t.e1).flatMap fun i1 =>
    (List.range t.e2).flatMap fun i2 => (List.range t.e3).filter fun i3 => malformed24 (s.code24 v t q i1 i2 i3)).length

/-! ## Matrix operands -/

/-- Format classes of the matrix engine: 0 fp4, 1 the 8-bit class, 2 the 16-bit class (R91, R92). -/
def matClass (fmt : Nat) : Nat :=
  match Fmt.ofCode fmt with
  | .fp4 => 0
  | .fp8a | .fp8b | .int8 | .g8 => 1
  | _ => 2

/-- MACs per core per course cycle of a pair of classes (R91). -/
def macRate (a b : Nat) : Nat := if a == 2 || b == 2 then 256 else if a == 1 || b == 1 then 512 else 1024

/-- Products of a K-group (R188). -/
def groupSize (a b : Nat) : Nat := macRate a b / 16

/-- Bytes of an element as the matrix engine receives it, in half bytes (R92, R235). -/
def halfBytes (cls : Nat) : Nat := if cls == 0 then 1 else if cls == 1 then 2 else 4

/-- The value that the matrix engine takes from a code (R92, R155, R163): g8 its value alone, fp32 and fp64 through bf16, u32
and reserved formats +0. -/
def matVal (fmt : Nat) (c : Nat) : Val :=
  match Fmt.ofCode fmt with
  | .u32 | .reserved => .zero
  | .fp32 => rneFlush .sb16 (decodeCode .fp32 c)
  | .fp64 => rneFlush .sb16 (decodeCode .fp64 c)
  | f => decodeFlush f c true

/-- Whether a tensor as an operand gives zeros with no access: a u32 or reserved format, or an extent 0 (R92, R149). -/
def Tens.blank (t : Tens) : Bool := t.count == 0 || t.fmt ≥ 9

/-- A dense operand's element at a logical position, wrapped by its own extents (R125, R126). -/
def Tens.matLoc (t : Tens) (p : PierId) (r c i2 i3 : Nat) : Option Loc :=
  let (i0, i1) := t.idx (r % t.rows) (c % t.cols)
  t.loc p i0 i1 (i2 % t.e2) (i3 % t.e3)

def State.matElem (s : State) (v : View) (t : Tens) (r c i2 i3 : Nat) : Val :=
  if t.blank then .zero else matVal t.fmt (s.elem v t (t.matLoc v.p r c i2 i3)).1

/-! ## List areas as written (R220, R240, R276) -/

/-- Blocks in the row-sorted and the column-sorted order (R221). -/
def rowSorted (bs : List (Nat × Nat)) : List (Nat × Nat) :=
  sortBy (fun x y => 0x1_0000 * x.1 + x.2 < 0x1_0000 * y.1 + y.2) bs
def colSorted (bs : List (Nat × Nat)) : List (Nat × Nat) :=
  sortBy (fun x y => 0x1_0000 * x.2 + x.1 < 0x1_0000 * y.2 + y.1) bs

def entryOf (b : Nat × Nat) : Nat := 0x1_0000 * b.1 + b.2

/-- Bytes of a presence map (R220). -/
def mapBytes (BR BC : Nat) : Nat := cdiv (BR * BC) 8

/-- The presence map of blocks, as bytes. -/
def presenceOf (BR BC : Nat) (bs : List (Nat × Nat)) : List Byte :=
  (List.range (mapBytes BR BC)).map fun j =>
    BitVec.ofNat 8 ((List.range 8).foldl (fun acc b =>
      let n := 8 * j + b
      if bs.any (fun x => x.1 * BC + x.2 == n) then acc + 2 ^ b else acc) 0)

/-- Bytes of a list area put by the chisel engines of a pier; those of another home or of no memory are discarded. -/
def State.putHome (s : State) (p : PierId) (via : WriteVia) (a : Nat) (bs : List Byte) : State :=
  if (List.range bs.length).all (fun i => s.reach p (a + i) == .ok) then s.writeBytes via a bs
  else (List.range bs.length).foldl (fun s i =>
    if s.reach p (a + i) == .ok then s.writeBytes via (a + i) [byteAt bs i] else s) s

/-- Both lists and the value positions of blocks in row-sorted order (R220 to R222). -/
def State.putLists (s : State) (p : PierId) (a cap : Nat) (bs : List (Nat × Nat)) : State :=
  let cs := colSorted bs
  let s := s.putHome p .mortar (a + 64) (bs.flatMap fun b => leBytes 4 (entryOf b))
  let s := s.putHome p .mortar (a + 64 + 4 * cap) (cs.flatMap fun b => leBytes 4 (entryOf b))
  s.putHome p .mortar (a + 64 + 8 * cap) (cs.flatMap fun b => leBytes 4 (bs.idxOf b))

/-- Count and mask version, in one write of the first line (R240, R260); capacity and reserved bytes stay. -/
def State.putCount (s : State) (p : PierId) (a n : Nat) : State :=
  let cap := s.capAt p a
  let mv := s.viewWord ⟨p, none, false⟩ (a + 8) 4
  s.putHome p .mortar a (leBytes 4 n ++ leBytes 4 cap ++ leBytes 4 (mv + 1))

end Sys2Proof.Machine
end

