-- ==== Sys2Proof/Machine/Walk.lean ====
section
/-! DEFINITION. The shape choice and the walk of a product over a unit's courses and cores (R99 to R107, R560), its time per
row (R234, R235), and the generators that its drains draw from (R177 to R179). -/

namespace Sys2Proof.Machine

/-! ## Bed memory (R79, R83 to R85) -/

/-- The owners of the buffers in grant order, at most three; G's one where none is asked for (R85). -/
def PierCfg.bufferOwners (c : PierCfg) : List Nat :=
  let w := c.bedSplit.toNat
  let all := List.replicate (fld w 1 0) 0 ++ List.replicate (fld w 3 2) 1 ++ List.replicate (fld w 5 4) 2
  if all.isEmpty then [0] else all.take 3

/-- What an offset of the 256 KiB of a core's bed memory holds: a stationary buffer, the spill buffer, the bed cache (R83). -/
inductive BedRegion where
  | buffer (b off : Nat)
  | spill (off : Nat)
  | cache (off : Nat)
  deriving DecidableEq, Repr

/-- The regions in the order in which R83 names them, the buffers by number (DESIGN CHOICE; log 97). -/
def PierCfg.bedRegion (c : PierCfg) (off : Nat) : BedRegion :=
  let n := 65536 * c.bufferOwners.length
  if off < n then .buffer (off / 65536) (off % 65536)
  else if off < n + 12288 then .spill (off - n)
  else .cache (off - n - 12288)

/-- The bank of an offset: 16 banks interleaved on 64-byte lines (R83). -/
def bedBank (off : Nat) : Nat := off / 64 % 16

/-- Lines of a core's bed cache: 180, 116 or 52 KiB (R83). -/
def PierCfg.bedLines (c : PierCfg) : Nat := (262144 - 12288 - 65536 * c.bufferOwners.length) / 64

/-- A line taken from the bed caches of some cores of its course, each old copy with it (R52, R375, R376). -/
def BedLine.without (b : BedLine) (cores : Nat) : Option BedLine :=
  let keep := 0xFFFF - cores % 0x1_0000
  let b := { b with
    held := b.held &&& keep, olds := (b.olds.map fun o => (o.1 &&& keep, o.2)).filter fun o => o.1 != 0 }
  if b.held == 0 && b.olds.isEmpty then none else some b

/-! ## Shapes -/

/-- Tile of shape i in a class (R99). -/
def tileK (i cls : Nat) : Nat := (if cls == 0 then 512 else if cls == 1 then 256 else 128) * 2 ^ i
def tileN (i : Nat) : Nat := 256 / 2 ^ i

/-- A chosen shape (R101). Of its terms the procedure declares only M, K, N, t and the chains as u32; the others, the cost e and the row
counts among them, are natural numbers here and never wrap (DESIGN CHOICE; log 96). -/
structure Shape where
  Ki : Nat
  Ni : Nat
  kg : Nat
  ns : Nat
  chains : Nat
  groups : Nat
  rounds : Nat
  ms : Nat
  rows : Nat
  cost : Nat
  deriving DecidableEq, Repr

/-- One candidate of the shape choice, if its chain fits a wall (R101). -/
def shapeOf (M K N i cls rate W L P : Nat) : Option Shape :=
  let Ki := tileK i cls
  let Ni := tileN i
  let t := Ki * Ni / rate
  let kg := cdiv K Ki
  if kg > L then none
  else
    let ns := cdiv N Ni
    let chains := W * (L / kg)
    let groups := cdiv ns P
    let rounds := cdiv groups chains
    let ms := if rounds == 1 then max 1 (min (chains / groups) (M / 16)) else 1
    let rows := 16 * cdiv M (16 * ms)
    let h := 8 + cdiv (12 * Ni) 64
    some ⟨Ki, Ni, kg, ns, chains, groups, rounds, ms, rows, rounds * rows * t + (kg - 1) * (t + h)⟩

/-- The cheapest shape, the lower number on a tie; none: R102 splits K. -/
def chooseShape (M K N cls rate W L P : Nat) : Option Shape :=
  [0, 1, 2, 3].foldl (fun best i =>
    match best, shapeOf M K N i cls rate W L P with
    | none, x => x
    | some b, some x => if x.cost < b.cost then some x else some b
    | some b, none => some b) none

/-- The K parts of a product, as start and length (R102): one when the deepest shape's chain fits a wall. -/
def kParts (K cls L : Nat) : List (Nat × Nat) :=
  let part := L * tileK 3 cls
  if K ≤ part then [(0, K)]
  else (List.range (cdiv K part)).map fun i => (i * part, min part (K - i * part))

/-! ## The walk -/

/-- What one core drains in one round (R103, R107): its core number, chain and round, rows and columns of the product, and
the courses of its chain's links. -/
structure DTile where
  core : Nat
  chain : Nat
  round : Nat
  k : Nat
  row0 : Nat
  rows : Nat
  col0 : Nat
  cols : Nat
  links : List Nat
  deriving DecidableEq, Repr

/-- The course (wall × 12 + course) of link j of chain c (R103). -/
def Env.linkCourse (e : Env) (sh : Shape) (c j : Nat) : Nat :=
  (e.wall + c % e.W) * 12 + e.course + c / e.W * sh.kg + j

/-- The tiles of a walk over M × N, rounds ascending, then chains, then cores. -/
def Env.tiles (e : Env) (sh : Shape) (M N : Nat) : List DTile :=
  (List.range sh.rounds).flatMap fun r => (List.range sh.chains).flatMap fun c =>
    let (g, row0, rows) :=
      if sh.ms > 1 then (c % sh.groups, c / sh.groups * sh.rows, sh.rows) else (r * sh.chains + c, 0, M)
    let idle := g ≥ sh.groups || (sh.ms > 1 && c / sh.groups ≥ sh.ms) || row0 ≥ M
    if idle then []
    else
      let links := (List.range sh.kg).map (e.linkCourse sh c)
      (List.range e.P).filterMap fun p =>
        let col0 := (g * e.P + p) * sh.Ni
        if col0 ≥ N then none
        else some
          { core := e.linkCourse sh c (sh.kg - 1) * 16 + e.core + p, chain := c, round := r, k := p
            row0 := row0, rows := min rows (M - row0), col0 := col0, cols := min sh.Ni (N - col0), links := links }

/-! ## Accumulation (R187 to R196) -/

/-- A value whose magnitude is below 2^−126 replaced with the zero of its sign (R163, R189 step 2, R197). -/
def Val.flush32 (x : Val) : Val :=
  match x with
  | .fin s m e => if m != 0 && (Nat.log2 m : Int) + e < -126 then .fin s 0 0 else x
  | x => x

/-- A product with the flush of R189 step 2. -/
def matProduct (a b : Val) : Val := (a.mul b).flush32

/-- One group: the exact sum of the accumulator and the group's products, rounded once (R189). -/
def addGroup (acc : Val) (ps : List Val) : Val := rneFlush .s32 (ps.foldl Val.add acc)

/-- The products that a moving row and a stationary column form over some K positions; `none`: no product (R190). -/
def productsOf : List Val → List (Option Val) → List Val
  | a :: as, some b :: bs => matProduct a b :: productsOf as bs
  | _ :: as, none :: bs => productsOf as bs
  | _, _ => []

/-- Groups in ascending order with spills at the multiples of S (R188, R189, R192, R193). -/
def accumulate (G S K : Nat) : Nat → Nat → List Val → List (Option Val) → Val × Val → Val × Val
  | 0, _, _, _, x => x
  | n + 1, k, as, bs, (acc, spill) =>
    if k ≥ K then (acc, spill)
    else
      let (acc, spill) := if k != 0 && k % S == 0 then (Val.zero, rneFlush .s64 (spill.add acc)) else (acc, spill)
      let ps := productsOf (as.take G) (bs.take G)
      let acc := if ps.isEmpty then acc else addGroup acc ps
      accumulate G S K n (k + G) (as.drop G) (bs.drop G) (acc, spill)

/-- The combined value of a spill value and an accumulator (R196). -/
def combine (x : Val × Val) : Val := FpSpec.s64.round .even (x.2.add x.1)

/-- The combined value of an element (R187, R196). -/
def combined (G S K : Nat) (as : List Val) (bs : List (Option Val)) : Val :=
  combine (accumulate G S K (cdiv K G) 0 as bs (.zero, .zero))

/-- The spill interval (R191). -/
def PierCfg.spillS (c : PierCfg) : Nat :=
  let l := fld c.spill.toNat 4 0
  2 ^ (if l < 8 then 8 else if l > 16 then 16 else l)

/-! ## The bond pattern -/

/-- Slots that a pier's pattern gives a stream (R291, R292). -/
def PierCfg.slot (c : PierCfg) (n : Nat) : Nat :=
  if n < 32 then fld c.bondLo.toNat (2 * n + 1) (2 * n) else fld c.bondHi.toNat (2 * (n - 32) + 1) (2 * (n - 32))
def PierCfg.slots (c : PierCfg) (stream : Nat) : Nat := ((List.range 64).filter fun n => c.slot n == stream).length

/-! ## Generators (R177 to R179) -/

/-- The seed of a stream (R180). -/
def PierCfg.seed (c : PierCfg) (stream : Nat) : Nat :=
  (match stream with | 0 => c.seedG | 1 => c.seedF | 2 => c.seedB | _ => c.seedU).toNat

/-- Where the draws of a generator since its reseed for an epoch are counted: 768 cores, four streams, 68 lanes (R177). -/
def drawSpan : Nat := 768 * 272
def drawKey (epoch core stream lane : Nat) : Nat := drawSpan * (epoch % 0x1_0000) + 272 * core + stream * 68 + lane

/-- The generators as they stand when a pier's epoch has become another (R178): those of the new epoch have taken no draw; a header that
started before keeps its own (R417). -/
def reseedDraws (dr : Table) (epoch : Nat) : Table := dr.filter fun x => x.1 / drawSpan != epoch % 0x1_0000

/-- The next draw of a core's lane for a header, reseeded with the epoch that the header read (R417), and the draws counted (R177,
R178). -/
def State.draw (s : State) (e : Env) (core lane : Nat) (dr : Table) : Nat × Table :=
  let key := drawKey e.epoch core e.h.stream lane
  let st := reseed ((s.pier e.p).cfg.seed e.h.stream) (coreUnit (coreId e.p core)) lane e.epoch
  (drawAt st (dr.get key), dr.set key (dr.get key + 1))

/-- The rounding of a conversion by its mode: 1 toward zero, 2 stochastic with a draw for a float destination, else
nearest-even (R165, R167, R176). -/
def State.rndOf (s : State) (e : Env) (core lane mode : Nat) (f : Fmt) (dr : Table) : Rnd × Table :=
  if mode == 1 then (.zero, dr)
  else if mode == 2 && f.spec.isSome then
    let (d, dr) := s.draw e core lane dr
    (.stoch d, dr)
  else (.even, dr)

/-- The rounding mode of drain output in a stream (R165). -/
def PierCfg.drainMode (c : PierCfg) (stream : Nat) : Nat := fld c.fpMode.toNat (5 + 2 * stream) (4 + 2 * stream)

/-! ## Writing a code (R164, R169, R173) -/

/-- A converted element: code, error term's code, saturated (R201), flushed. -/
structure Coded where
  code : Nat
  err : Nat
  sat : Bool
  fl : Bool
  deriving DecidableEq, Repr

/-- The code of a code-domain value u in a format; a g8 element takes its old error term in, unless `accum` (R173). -/
def encodeOut (f : Fmt) (r : Rnd) (flush accum : Bool) (eOld : Nat) (u : Val) : Coded :=
  if f == .g8 then
    let y := FpSpec.s32.round .even (if accum then u else u.add (decodeFlush .bf16 eOld flush))
    let fl0 := !accum && flush && codeSub .bf16 eOld
    let fl1 := flush && FpSpec.s32.subnormal y
    let y := if fl1 then Val.fin y.sign 0 0 else y
    let q := convert .fp8b r flush y
    let qv := decodeCode .fp8b q.code
    let e := if y.isFin && qv.isFin then convert .bf16 .even flush (y.add qv.neg) else ⟨0, false, false⟩
    ⟨q.code, e.code, q.sat, fl0 || fl1 || q.flushed || e.flushed⟩
  else
    let c := convert f r flush u
    ⟨c.code, 0, c.sat, c.flushed⟩

/-- Whether a converted element counts as zero for the compressor (R239). -/
def Coded.isZero (f : Fmt) (c : Coded) : Bool :=
  match f with
  | .int8 | .u32 => c.code == 0
  | .g8 => c.code % 128 == 0 && c.err % 0x8000 == 0
  | f => match f.spec with
    | some sp => c.code % 2 ^ (sp.ebits + sp.mant) == 0
    | none => true

end Sys2Proof.Machine
end

