-- ==== Sys2Proof/Machine/Product.lean ====
section
/-! DEFINITION. Matrix products and their drain: MMUL, SPMM, SPMMT and SDDMM (R56, R90 to R110, R124 to R126, R159, R187 to
R209, R231 to R254). -/

namespace Sys2Proof.Machine

/-- How the elements of d are written: dense in its layout, as blocks at their dense slots (R240), as 2-of-4 groups (R243),
at SDDMM's listed blocks (R237), or at the positions SDDMM's codes select (R238). -/
inductive Dest where
  | dense
  | packBlocks
  | packGroups
  | sampleBlocks
  | sampleGroups
  deriving DecidableEq, Repr

/-- A product as a share runs it, its operands read once (R117) and its factors computed once (R159). -/
structure Prod where
  op : Nat
  a : Tens
  b : Tens
  c : Tens
  hasC : Bool
  d : Tens
  dest : Dest
  drop : Bool
  accum : Bool
  gate : Bool
  act : Nat
  maxmin : Bool
  minimum : Bool
  bBlocks : List Blk
  active : Option (List Blk)
  K : Nat
  G : Nat
  rate : Nat
  sab : Val
  rd : Val
  S : Nat
  mode : Nat
  deriving DecidableEq, Repr

/-- A block of d that runs as one product (R126, R141): its logical origin and size, and its batch. -/
structure Region where
  m0 : Nat
  M : Nat
  n0 : Nat
  N : Nat
  i2 : Nat
  i3 : Nat
  deriving DecidableEq, Repr

/-- The products of a pier's share, in order: its owned blocks, or every batch (R126, R141). -/
def Tens.regions (t : Tens) (p : PierId) : List Region :=
  match t.own with
  | none => (List.range t.e3).flatMap fun i3 => (List.range t.e2).map fun i2 => ⟨0, t.rows, 0, t.cols, i2, i3⟩
  | some o =>
    (List.range o.ents.length).filterMap fun x =>
      if o.owner x != p then none
      else
        let lo0 := x % o.n0 * o.b0
        let lo1 := x / o.n0 % o.n1 * o.b1
        let n0 := min o.b0 (t.e0 - lo0)
        let n1 := min o.b1 (t.e1 - lo1)
        let r := x / (o.n0 * o.n1)
        if t.swapped then some ⟨lo0, n0, lo1, n1, r % t.e2, r / t.e2⟩ else some ⟨lo1, n1, lo0, n0, r % t.e2, r / t.e2⟩

/-- One element of d as a core drains it: logical place, w, active. -/
structure Cell where
  r : Nat
  c : Nat
  w : Val
  on : Bool
  deriving DecidableEq, Repr

/-! ## Operands along K -/

/-- A moving row of a product over K positions from k0: link j's course fetches K positions from j × Ki (R88, R103). -/
def State.movingRow (s : State) (pr : Prod) (p : PierId) (g : Region) (links : List Nat) (Ki k0 n r : Nat) : List Val :=
  (List.range n).map fun k => s.matElem ⟨p, links[k / Ki]?, false⟩ pr.a r (k0 + k) g.i2 g.i3

/-- The stationary operand of column c: its code, or `none` where it forms no product (R125, R190, R227, R230); a reserved or u32
format gives zeros at the positions that the list or the codes select (R92, R188). A block-list or 2-of-4 b with an extent of 0
has no element to select: as R149 reads every element of it as +0, a product with +0 is formed at every K position (DESIGN
CHOICE; log 96). -/
def State.stationCode (s : State) (pr : Prod) (p : PierId) (g : Region) (k c : Nat) : Option Nat :=
  let v : View := ⟨p, none, false⟩
  let b := pr.b
  if b.count == 0 || (b.blank && b.layout != 4 && b.layout != 5) then some 0
  else
    let tr := pr.op == 3
    let (r, cc) := if tr then (c % b.rows, k % b.cols) else (k % b.rows, c % b.cols)
    let dense := fun (_ : Unit) => some (s.elem v b (b.matLoc p r cc g.i2 g.i3)).1
    if b.layout == 4 then
      (blockAt pr.bBlocks (r / 16) (cc / 16)).map fun x =>
        if b.blank then 0 else (s.elem v b (some (b.blockLoc x (16 * (r % 16) + cc % 16)))).1
    else if b.layout == 5 then
      match s.slot24 v b r cc (g.i2 % b.e2) (g.i3 % b.e3) with
      | some l => some (if b.blank then 0 else (s.elem v b (some l)).1)
      | none => if tr then some 0 else none
    else dense ()

/-- The value that the matrix engine takes from a stationary code. -/
def Prod.statVal (pr : Prod) (c : Nat) : Val := if pr.b.blank then .zero else matVal pr.b.fmt c

/-- The stationary operand of column c as a value. -/
def State.stationary (s : State) (pr : Prod) (p : PierId) (g : Region) (k c : Nat) : Option Val :=
  (s.stationCode pr p g k c).map pr.statVal

/-! ## One element -/

/-- Where a prior value P is read from (R197, R237, R238, R246). -/
def State.priorLoc (s : State) (pr : Prod) (p : PierId) (g : Region) (r c : Nat) : Option Loc :=
  let (i0, i1) := pr.d.idx r c
  match pr.dest with
  | .packBlocks => none
  | .sampleBlocks => (pr.active.bind fun bs => blockAt bs (r / 16) (c / 16)).map fun v => pr.d.blockLoc v (16 * (r % 16) + c % 16)
  | .packGroups | .sampleGroups => s.slot24 ⟨p, none, false⟩ pr.d i0 i1 g.i2 g.i3
  | .dense => pr.d.loc p i0 i1 g.i2 g.i3

/-- The prior value P of an element for the accumulate bit, a subnormal P as zero (R197). -/
def State.prior (s : State) (pr : Prod) (p : PierId) (g : Region) (r c : Nat) : Val :=
  let l := s.priorLoc pr p g r c
  if l.isNone then .zero
  else
    let f := pr.d.form
    ((f32 pr.d.scale).mul (vecVal f true (s.code ⟨p, none, false⟩ f l)).v).flush32

/-- A drained value before the table (R159 step 1, R197). -/
def drainV (pr : Prod) (A P : Val) : Val :=
  let x := A.mul pr.sab
  rneFlush .s32 (if pr.accum then x.add P else x)

/-- Whether an output block is computed (R237, R249). -/
def Prod.isActive (pr : Prod) (r c : Nat) : Bool :=
  match pr.active with
  | none => true
  | some bs => (blockAt bs (r / 16) (c / 16)).isSome

/-- One element's w by R159 steps 1 and 2 from its combined value A (R196) and its prior value, with its lookup's marks. -/
def State.drainW (s : State) (pr : Prod) (p : PierId) (core : Nat) (A P : Val) : Look :=
  let v := drainV pr A (if pr.accum then P else .zero)
  if pr.act == 0 then ⟨⟨v, false⟩, false, false⟩ else s.lookup p core pr.act ⟨false, true⟩ false ⟨v, false⟩

/-! ## One core's tile -/

/-- What the drains of a share have produced so far. -/
structure Acc where
  put : Put
  dr : Table
  sides : List (Nat × Side)
  losses : List (Nat × Val)
  misses : List (Nat × Val)
  fig : SparseFig
  tabAnomaly : Bool
  fallback : Nat
  present : List (Nat × Nat)
  winners : List (Nat × Nat × Nat × Val)
  wrote : List Wr
  fused : List FusedEl
  deriving DecidableEq, Repr

def sideOf (l : List (Nat × Side)) (core : Nat) : Side := ((l.find? (fun x => x.1 == core)).map (·.2)).getD .empty
def lossOf (l : List (Nat × Val)) (core : Nat) : Val := ((l.find? (fun x => x.1 == core)).map (·.2)).getD .zero
def keyed {α : Type} (l : List (Nat × α)) (core : Nat) (x : α) : List (Nat × α) :=
  (core, x) :: l.filter (fun y => y.1 != core)

/-- The two positions of a group of four with the largest |w|, ascending: NaN first, the lower position on a tie (R243). -/
def keepTwo (ws : List Val) : Nat × Nat :=
  let better := fun (i j : Nat) =>
    let x := (ws.getD i .zero).abs
    let y := (ws.getD j .zero).abs
    !(if i < j then beats false x y else !(beats false y x))
  let rank := sortBy better [0, 1, 2, 3]
  let p := rank.getD 0 0
  let q := rank.getD 1 1
  (min p q, max p q)

/-- The cells of a group of four along d's dimension 0, by position (R243). -/
def groupOf (t : Tens) (cells : List Cell) (x : Cell) : List (Option Cell) :=
  let (i0, i1) := t.idx x.r x.c
  [0, 1, 2, 3].map fun j => cells.find? fun y =>
    let (y0, y1) := t.idx y.r y.c
    y0 == i0 / 4 * 4 + j && y1 == i1

/-- Whether R243 keeps a cell of its group. -/
def keptCell (t : Tens) (cells : List Cell) (x : Cell) : Bool :=
  let ws := (groupOf t cells x).map fun y => (y.map (·.w)).getD .zero
  let (p, q) := keepTwo ws
  let j := (t.idx x.r x.c).1 % 4
  j == p || j == q

/-- The old error term of a g8 element (R173). -/
def State.oldErr (s : State) (pr : Prod) (p : PierId) (g : Region) (r c : Nat) : Nat :=
  match pr.dest with
  | .dense =>
    let (i0, i1) := pr.d.idx r c
    (s.code ⟨p, none, false⟩ pr.d.form (pr.d.loc p i0 i1 g.i2 g.i3)).2
  | _ => 0

/-- A drained cell with its conversion; an inactive or dropped one is the +0 code and takes no draw (R159, R245). -/
structure Drained where
  cell : Cell
  kept : Bool
  out : Coded
  deriving DecidableEq, Repr

def zeroCode : Coded := ⟨0, 0, false, false⟩

/-- A tile's cells converted in drain order (R159 step 5, R179). An element that the compressor drops is written as the +0 code
without conversion, and takes no draw (DEDUCED from R159 step 4 and R245; log 29). -/
def State.convertCells (s : State) (e : Env) (pr : Prod) (g : Region) (core : Nat) (cells : List Cell) (dr : Table) :
    List Drained × Table :=
  cells.foldl (fun (acc : List Drained × Table) x =>
    let kept := !pr.drop || !x.on || keptCell pr.d cells x
    if !x.on || !kept then (acc.1 ++ [⟨x, kept, zeroCode⟩], acc.2)
    else
      let (r, dr) := s.rndOf e core (64 + x.c % 4) pr.mode pr.d.form acc.2
      (acc.1 ++ [⟨x, kept, encodeOut pr.d.form r true pr.accum (s.oldErr pr e.p g x.r x.c) (x.w.mul pr.rd)⟩], dr)) ([], dr)

/-- The 16 × 16 blocks of a tile with an element that converts to other than zero, or that the extents clip (R239). -/
def presentIn (pr : Prod) (ds : List Drained) : List (Nat × Nat) :=
  ds.foldl (fun acc x =>
    let b := (x.cell.r / 16, x.cell.c / 16)
    let clipped := 16 * b.1 + 16 > pr.d.rows || 16 * b.2 + 16 > pr.d.cols
    if (clipped || !x.out.isZero pr.d.form) && !acc.contains b then acc ++ [b] else acc) []

/-- The write tile of an element (R129): the core's tile, or for SDDMM its 16 × 16 block of d, within the product whose number
the tile's carries. -/
def Prod.tileOf (pr : Prod) (tile r c : Nat) : Nat :=
  if pr.op == 4 then 1048576 * (tile / 1048576) + r / 16 * cdiv pr.d.cols 16 + c / 16 else tile

/-- A tile's writes in traversal order (R129, R130, R240, R243, R245). -/
def State.tileWrites (s : State) (e : Env) (pr : Prod) (g : Region) (tile : Nat) (ds : List Drained)
    (present : List (Nat × Nat)) : List Wr :=
  let at_ := fun (x : Drained) => pr.d.idx x.cell.r x.cell.c
  let ds := if pr.d.swapped then sortBy (fun x y => (at_ x).2 < (at_ y).2 || ((at_ x).2 == (at_ y).2 && (at_ x).1 < (at_ y).1)) ds else ds
  match pr.dest with
  | .dense => ds.map fun x =>
      ⟨pr.tileOf tile x.cell.r x.cell.c, pr.d.loc e.p (at_ x).1 (at_ x).2 g.i2 g.i3, x.out.code, x.out.err⟩
  | .packBlocks => ds.filterMap fun x =>
      let b := (x.cell.r / 16, x.cell.c / 16)
      if present.contains b then
        some ⟨tile, some (pr.d.blockLoc (b.1 * pr.d.bc + b.2) (16 * (x.cell.r % 16) + x.cell.c % 16)), x.out.code, x.out.err⟩
      else none
  | .packGroups => ds.flatMap fun x =>
      let (i0, i1) := at_ x
      if i0 % 4 != 0 then []
      else
        let grp := groupOf pr.d (ds.map (·.cell)) x.cell
        let (p, q) := keepTwo (grp.map fun y => (y.map (·.w)).getD .zero)
        let slot := fun (v j : Nat) =>
          let y := ds.find? fun y => at_ y == (i0 + j, i1)
          let o := (y.map (·.out)).getD zeroCode
          (⟨tile, some (pr.d.slotLoc (i0 / 4) v i1 g.i2 g.i3), o.code, o.err⟩ : Wr)
        let code :=
          if pr.d.aux == 0 then []
          else
            let (a, hi) := pr.d.codeAddr (i0 / 4) i1 g.i2 g.i3
            [(⟨tile, some ⟨a, 1 + hi, 1, none⟩, p + 4 * q, 0⟩ : Wr)]
        [slot 0 p, slot 1 q] ++ code
  | .sampleBlocks => ds.filterMap fun x =>
      (pr.active.bind fun bs => blockAt bs (x.cell.r / 16) (x.cell.c / 16)).map fun v =>
        ⟨pr.tileOf tile x.cell.r x.cell.c, some (pr.d.blockLoc v (16 * (x.cell.r % 16) + x.cell.c % 16)), x.out.code, x.out.err⟩
  | .sampleGroups => ds.filterMap fun x =>
      (s.slot24 ⟨e.p, none, false⟩ pr.d (at_ x).1 (at_ x).2 g.i2 g.i3).map fun l =>
        ⟨pr.tileOf tile x.cell.r x.cell.c, some l, x.out.code, x.out.err⟩

/-- A row's best value so far against a new one, lower columns first (R184, R207, R209). -/
def better (mn : Bool) (old : Option (Val × Nat)) (w : Val) (c : Nat) : Val × Nat :=
  match old with
  | none => (w, c)
  | some (x, cx) => if c < cx then (if beats mn w x then (x, cx) else (w, c)) else if beats mn x w then (w, c) else (x, cx)

/-- One core's tile converted: its cells, figures and draws, before any is written (R159, R200, R203, R243, R244). -/
def State.drainTile (s : State) (e : Env) (pr : Prod) (g : Region) (core : Nat) (cells : List Cell) (acc : Acc) :
    List Drained × Acc :=
  let (ds, dr) := s.convertCells e pr g core cells acc.dr
  let side := ds.foldl (fun sd x => sd.take x.cell.w x.out.sat) (sideOf acc.sides core)
  let dropped := ds.filter fun x => !x.kept && !x.cell.w.isZero
  let loss := dropped.foldl (fun l x => add64 l x.cell.w.abs) (lossOf acc.losses core)
  let win := if !pr.maxmin then acc.winners else cells.foldl (fun l x =>
    let old := (l.find? (fun y => y.1 == x.r)).map fun y => (y.2.2.2, y.2.1)
    let (w, c) := better pr.minimum old x.w x.c
    (x.r, c, 0, w) :: l.filter (fun y => y.1 != x.r)) acc.winners
  (ds, { acc with
    dr := dr
    sides := keyed acc.sides core side
    losses := if pr.drop then keyed acc.losses core loss else acc.losses
    fig := { acc.fig with drops := acc.fig.drops + dropped.length }
    winners := win })

/-- What a core's drain has converted, by descriptor indices of d (R315). -/
def Prod.fusedOf (pr : Prod) (p : PierId) (g : Region) (core : Nat) (ds : List Drained) : List FusedEl :=
  if pr.dest != .dense then []
  else ds.map fun x =>
    let (i0, i1) := pr.d.idx x.cell.r x.cell.c
    ⟨p, core, (i0, i1, g.i2, g.i3), x.out.code, x.out.err⟩

/-! ## Row times and audits (R234, R235, R251 to R253) -/

/-- The column blocks of a block-list b that hold the columns of one of d, wrapped by b's extents (R125, R126). Where b's columns are no
multiple of 16, the columns of a block of d may lie in several: each counts (DESIGN CHOICE; log 96). -/
def Prod.blocksUnder (pr : Prod) (colBlock : Nat) : List Nat :=
  let n := if pr.op == 3 then pr.b.rows else pr.b.cols
  if n == 0 then [] else
  ((List.range 16).filterMap fun i =>
    if 16 * colBlock + i < pr.d.cols then some ((16 * colBlock + i) % n / 16) else none).eraseDups

/-- Present blocks of a link's tile in a column block (R234). For a b that is no list the K_i of the rule is the tile's own K extent,
which for a last link may be less than the menu's (DESIGN CHOICE; log 96). -/
def Prod.pj (pr : Prod) (k0 k1 colBlock : Nat) : Nat :=
  if pr.b.layout == 4 then
    (pr.bBlocks.filter fun x =>
      let (kb, nb) := if pr.op == 3 then (x.k, x.r) else (x.r, x.k)
      (pr.blocksUnder colBlock).contains nb && k0 ≤ 16 * kb && 16 * kb < k1).length
  else cdiv (k1 - k0) 16

/-- The divisor q of R234. -/
def Prod.q (pr : Prod) : Nat := max 1 (pr.G / 16)

/-- Column blocks that a tile's columns cover. -/
def blocksOf (c0 n : Nat) : List Nat := (List.range (cdiv (c0 % 16 + n) 16)).map (c0 / 16 + ·)

/-- t_k of a tile on the link with K range [k0, k1) in a row band (R234). -/
def Prod.tk (pr : Prod) (g : Region) (t : DTile) (k0 k1 band : Nat) : Nat :=
  (blocksOf (g.n0 + t.col0) t.cols).foldl (fun n j =>
    if pr.isActive (16 * band) (16 * j) then n + cdiv (pr.pj k0 k1 j) pr.q else n) 0

/-- T of a course in a row band, over the tiles of its cores (R235). -/
def Prod.rowTime (pr : Prod) (g : Region) (ts : List DTile) (k0 k1 band : Nat) : Nat :=
  let tks := ts.map fun t => pr.tk g t k0 k1 band
  let m := tks.foldl max 0
  if m == 0 then 0 else max (max 8 m) (cdiv ((k1 - k0) * halfBytes (matClass pr.a.fmt)) 128)

/-- Audited blocks of a tile in a row band that the slack of every link serves, and those it does not (R252). A block whose columns two
cores share belongs to the core of its first column (DESIGN CHOICE; log 96). -/
def Prod.auditBand (pr : Prod) (e : Env) (s : State) (g : Region) (sh : Shape) (ts : List DTile) (t : DTile)
    (kBase Kn band : Nat) : List Nat × Nat :=
  let lg := min (fld (s.pier e.p).cfg.predAudit.toNat 4 0) 16
  let cand := (blocksOf (g.n0 + t.col0) t.cols).filter fun j =>
    !pr.isActive (16 * band) (16 * j) && g.n0 + t.col0 ≤ max (16 * j) g.n0 &&
      audited lg ((s.pier e.p).cfg.seed e.h.stream) pr.d.tid e.epoch band j
  let link := fun j => (kBase + j * sh.Ki, kBase + min Kn ((j + 1) * sh.Ki))
  let slack := (List.range sh.kg).map fun j =>
    pr.rowTime g ts (link j).1 (link j).2 band - pr.tk g t (link j).1 (link j).2 band
  let r := cand.foldl (fun (a : List Nat × Nat × List Nat) j =>
    let need := (List.range sh.kg).map fun l => cdiv (pr.pj (link l).1 (link l).2 j) pr.q
    let fits := (List.range sh.kg).all fun l =>
      need.getD l 0 ≤ a.2.2.getD l 0 && pr.rowTime g ts (link l).1 (link l).2 band != 0
    if fits then (a.1 ++ [j], a.2.1, (List.range sh.kg).map fun l => a.2.2.getD l 0 - need.getD l 0)
    else (a.1, a.2.1 + 1, a.2.2)) ([], 0, slack)
  (r.1, r.2.1)

/-- Whose bed caches a tile's moving rows come from: the courses of its links, or a core-level unit's core. -/
def Env.fetchers (e : Env) (t : DTile) : List Nat := if e.P == 1 then t.links.map fun _ => 48 + t.core else t.links

/-! ## The parts of a product -/

/-- One K part of one block or batch of d as the walk runs it (R102, R126, R141): its number in the share, region, K range, shape and
tiles; without a walk when K is 0 (R560). -/
structure Plan where
  n : Nat
  part : Nat
  g : Region
  k0 : Nat
  Kn : Nat
  sh : Shape
  walk : Bool
  ts : List DTile
  deriving DecidableEq, Repr

/-- The tiles of a product without K: rows of d by R109 (R560). -/
def Prod.rowTiles (pr : Prod) (e : Env) (g : Region) : List DTile :=
  let n := if pr.d.swapped then g.N else g.M
  (List.range n).map fun x =>
    let i1 := (if pr.d.swapped then g.n0 else g.m0) + x
    let core := e.nthCore ((i1 + pr.d.e1 * (g.i2 + pr.d.e2 * g.i3)) % e.cores)
    if pr.d.swapped then ⟨core, 0, 0, 0, 0, g.M, x, 1, [core / 16]⟩ else ⟨core, 0, 0, 0, x, 1, 0, g.N, [core / 16]⟩

/-- The products of a share in the order it runs them: blocks or batches, and each one's K parts (R102, R126, R141). -/
def Prod.plans (pr : Prod) (e : Env) : List Plan :=
  let gs := (pr.d.regions e.p).filter fun g => g.M != 0 && g.N != 0
  let parts := kParts pr.K (matClass pr.b.fmt) e.L
  (List.range gs.length).flatMap fun i => match gs[i]? with
    | none => []
    | some g => (List.range parts.length).map fun j =>
      let part := parts.getD j (0, 0)
      match (if pr.K == 0 then none else chooseShape g.M part.2 g.N (matClass pr.b.fmt) pr.rate e.W e.L e.P) with
      | some sh => ⟨i * parts.length + j, j, g, part.1, part.2, sh, true, e.tiles sh g.M g.N⟩
      | none => ⟨i * parts.length + j, j, g, part.1, part.2, ⟨1, 1, 1, 1, 1, 1, 1, 1, 1, 0⟩, false, pr.rowTiles e g⟩

/-- The number of the product whose part a plan is. -/
def Plan.prod (pl : Plan) (parts : Nat) : Nat := pl.n / max 1 parts

/-- The tiles that one chain runs in one round. -/
def Plan.mates (pl : Plan) (t : DTile) : List DTile := pl.ts.filter fun u => u.chain == t.chain && u.round == t.round

/-- The K range of link j (R103). -/
def Plan.link (pl : Plan) (j : Nat) : Nat × Nat := (pl.k0 + j * pl.sh.Ki, pl.k0 + min pl.Kn ((j + 1) * pl.sh.Ki))

/-- Courses that a plan's tiles use. -/
def Plan.courses (pl : Plan) : List Nat :=
  pl.ts.foldl (fun acc t => t.links.foldl (fun acc c => if acc.contains c then acc else acc ++ [c]) acc) []

/-- Courses that a share's products use (R90, R121, R149). -/
def plansCourses (ps : List Plan) : List Nat :=
  ps.foldl (fun acc pl => pl.courses.foldl (fun acc c => if acc.contains c then acc else acc ++ [c]) acc) []

/-- Whether link j of a tile's chain fetches moving data for row y of the tile: not where its T is 0 (R235). -/
def Prod.fetches (pr : Prod) (pl : Plan) (t : DTile) (j y : Nat) : Bool :=
  pr.rowTime pl.g (pl.mates t) (pl.link j).1 (pl.link j).2 ((pl.g.m0 + t.row0 + y) / 16) != 0

/-! ## One link's rows -/

/-- The running state of an element as the corbel path carries it (R104): the codes of the fp32 accumulator and of the fp64 spill
value. -/
def stateCodes (x : Val × Val) : Nat × Nat := (FpSpec.s32.encode x.1, FpSpec.s64.encode x.2)
def stateVals (x : Nat × Nat) : Val × Val := (FpSpec.s32.decode x.1, FpSpec.s64.decode x.2)

/-- The codes of a tile of link j as its load brings them into the buffer (R83, R89): by column of one core, along the link's K range. -/
def State.tileVals (s : State) (e : Env) (pr : Prod) (pl : Plan) (t : DTile) (j : Nat) : List (List (Option Nat)) :=
  let k0 := (pl.link j).1
  (List.range t.cols).map fun x => (List.range ((pl.link j).2 - k0)).map fun k =>
    s.stationCode pr e.p pl.g (k0 + k) (pl.g.n0 + t.col0 + x)

/-- What link j of a chain makes of a row of a tile, from the state that came to it and the tile in its buffer (R83, R105, R195): one
element's state by column. -/
def State.linkRow (s : State) (e : Env) (pr : Prod) (pl : Plan) (t : DTile) (j y : Nat) (vals : List (List (Option Nat)))
    (incoming : List (Nat × Nat)) : List (Nat × Nat) :=
  let k0 := (pl.link j).1
  let n := (pl.link j).2 - k0
  let row := (List.range n).map fun k =>
    s.matElem ⟨e.p, (e.fetchers t)[j]?, false⟩ pr.a (pl.g.m0 + t.row0 + y) (k0 + k) pl.g.i2 pl.g.i3
  (List.range t.cols).map fun x =>
    let col := (vals.getD x []).map (·.map pr.statVal)
    stateCodes (accumulate pr.G pr.S pl.Kn (cdiv n pr.G) (j * pl.sh.Ki) row col (stateVals (incoming.getD x (0, 0))))

/-- The state of a row of a tile that the last link has handed to the drain (R105). -/
def State.rowDone (s : State) (e : Env) (pl : Plan) (t : DTile) (y : Nat) : Option (List (Nat × Nat)) :=
  match (s.pier e.p).walks.find? (fun w => w.q == e.q && w.course == t.links.getLastD 0) with
  | none => none
  | some w =>
    match w.done.find? (fun r => r.item.prod == pl.n && r.item.round == t.round && r.item.chain == t.chain && r.item.last && r.row == y) with
    | none => none
    | some r => r.elems[t.k]?

/-! ## Drains of a part -/

/-- The figures of a served audit block (R253): whether it is mispredicted, its largest |w| and its core's sum of w²; its lookups mark
anomalies and fallbacks as a drain's do (R309, R318). -/
def State.auditBlock (s : State) (e : Env) (pr : Prod) (pl : Plan) (t : DTile) (band j : Nat) (acc : Acc) : Acc :=
  let g := pl.g
  let cells := (List.range 16).flatMap fun i => (List.range 16).filterMap fun x =>
    let r := 16 * band + i
    let c := 16 * j + x
    if g.m0 ≤ r && r < g.m0 + g.M && g.n0 ≤ c && c < g.n0 + g.N then some (r, c) else none
  let looks : List Look := cells.map fun (r, c) =>
    let row := s.movingRow pr e.p g (e.fetchers t) pl.sh.Ki pl.k0 pl.Kn r
    let col := (List.range pl.Kn).map fun k => s.stationary pr e.p g (pl.k0 + k) c
    s.drainW pr e.p t.core (combined pr.G pr.S pl.Kn row col) (if pr.accum then acc.put.s.prior pr e.p g r c else .zero)
  let acc : Acc := { acc with
    tabAnomaly := acc.tabAnomaly || looks.any (fun l => l.anomaly)
    fallback := acc.fallback + (looks.filter fun l => l.fallback).length }
  let ws : List (Val × Coded) := (List.zip cells looks).map fun x =>
    let w := x.2.v.v
    (w, encodeOut pr.d.form .even true pr.accum (s.oldErr pr e.p g x.1.1 x.1.2) (w.mul pr.rd))
  let clipped := 16 * band + 16 > pr.d.rows || 16 * j + 16 > pr.d.cols
  let miss := clipped || ws.any fun x => !x.2.isZero pr.d.form
  let fig := { acc.fig with audited := acc.fig.audited + 1 }
  if !miss then { acc with fig := fig }
  else
    { acc with
      misses := keyed acc.misses t.core (ws.foldl (fun a x => add64 a (x.1.mul x.1)) (lossOf acc.misses t.core))
      fig := { fig with
        missed := fig.missed + 1
        missAmax := ws.foldl (fun m x => if x.1.isNan then max m 0x7FC0_0000 else max m (f32Code x.1.abs)) fig.missAmax } }

/-- Audits of a part: every row band whose first row a tile holds (R251 to R253). A part with K = 0 has no walk, hence no slack to serve a
block and none abandoned: nothing of it is audited or counted (DESIGN CHOICE; log 96). -/
def State.auditPart (s : State) (e : Env) (pr : Prod) (pl : Plan) (acc : Acc) : Acc :=
  if !pr.gate || !pl.walk then acc
  else pl.ts.foldl (fun acc t =>
    let first := pl.g.m0 + t.row0
    (List.range (cdiv (first % 16 + t.rows) 16)).foldl (fun acc y =>
      let band := first / 16 + y
      if t.row0 != 0 && 16 * band < first then acc
      else
        let (served, lost) := pr.auditBand e s pl.g pl.sh (pl.mates t) t pl.k0 pl.Kn band
        served.foldl (fun acc j => s.auditBlock e pr pl t band j acc)
          { acc with fig := { acc.fig with unserved := acc.fig.unserved + lost } }) acc) acc

/-- The cells of a core's tile in drain order, with their w (R105, R159, R179): `s` as before the header (R132), `sp` where a later
part reads its prior values (R102); `mix` as in `State.settled`: without guesses the rows are walked again on the prior values. -/
def State.tileCells (s sp : State) (e : Env) (pr : Prod) (mix : Bool) (pl : Plan) (t : DTile) : List Cell × Bool × Nat :=
  let g := pl.g
  let cols := (List.range t.cols).map fun x =>
    let c := g.n0 + t.col0 + x
    (x, c, (List.range pl.Kn).map fun k => s.stationary pr e.p g (pl.k0 + k) c)
  (List.range t.rows).foldl (fun (acc : List Cell × Bool × Nat) y =>
    let r := g.m0 + t.row0 + y
    let row := s.movingRow pr e.p g (e.fetchers t) pl.sh.Ki pl.k0 pl.Kn r
    let done := if mix then s.rowDone e pl t y else none
    cols.foldl (fun (acc : List Cell × Bool × Nat) x =>
      let (x, c, col) := x
      let (i0, i1) := pr.d.idx r c
      let skip := match pr.dest with
        | .sampleBlocks => !pr.isActive r c
        | .sampleGroups => (s.slot24 ⟨e.p, none, false⟩ pr.d i0 i1 g.i2 g.i3).isNone
        | _ => false
      if skip then acc
      else if !pr.isActive r c then (acc.1 ++ [⟨r, c, .zero, false⟩], acc.2)
      else
        let A := match done with
          | some st => combine (stateVals (st.getD x (0, 0)))
          | none => combined pr.G pr.S pl.Kn row col
        let l := s.drainW pr e.p t.core A (if pr.accum then sp.prior pr e.p g r c else .zero)
        (acc.1 ++ [⟨r, c, l.v.v, true⟩], acc.2.1 || l.anomaly, acc.2.2 + b2n l.fallback)) acc) ([], false, 0)

/-- The bed-cache lines that a part's moving rows fill (R88): course and line. Only the fetch of a broadcast product fills them
(R88, R374), so a product addressed to one core fills none. -/
def State.fillLines (s : State) (e : Env) (pr : Prod) (pl : Plan) : List (Nat × Nat) :=
  if e.P == 1 || pr.a.blank || !pl.walk then []
  else pl.ts.foldl (fun acc t =>
    if t.k != 0 then acc
    else (List.range t.rows).foldl (fun acc y => (List.range t.links.length).foldl (fun acc j =>
      if !pr.fetches pl t j y then acc
      else (List.range ((pl.link j).2 - (pl.link j).1)).foldl (fun acc k =>
        match pr.a.matLoc e.p (pl.g.m0 + t.row0 + y) ((pl.link j).1 + k) pl.g.i2 pl.g.i3 with
        | some l =>
          let x := (t.links.getD j 0, lineOf l.addr)
          if s.reach e.p l.addr == .ok && !acc.contains x then acc ++ [x] else acc
        | none => acc) acc) acc) acc) []

/-- Whether a core's bed cache may hold a line, in its present or an earlier state. -/
def BedLine.inCore (b : BedLine) (k : Nat) : Bool := bitAt b.held k || b.olds.any fun o => bitAt o.1 k

/-- The bed cache of one core of a course brought within its capacity (R83): which lines give way is not stated (free; log 7). -/
def evictCore (bed : List BedLine) (free course k cap : Nat) : List BedLine :=
  let mine := bed.filter fun b => b.course == course && b.inCore k
  ((List.range (mine.length - cap)).foldl (fun (a : List BedLine × List Nat) i =>
    let ls := a.2
    let v := ls.getD (Config.bedVictim (free + i) (16 * course + k) % max 1 ls.length) 0
    (a.1.filterMap fun b => if b.course == course && b.line == v then b.without (2 ^ k) else some b, ls.erase v))
    (bed, mine.map (·.line))).1

/-- Lines filled into all the bed caches of their course, which hold what the stationary buffers and the spill buffer leave (R83, R88,
R374). -/
def State.fillBed (s : State) (p : PierId) (ls : List (Nat × Nat)) : State :=
  s.updPier p fun pr =>
    let bed := ls.foldl (fun bed x =>
      if bed.any (fun b => b.course == x.1 && b.line == x.2)
      then bed.map fun b => if b.course == x.1 && b.line == x.2 then { b with held := 0xFFFF } else b
      else bed ++ [⟨x.1, x.2, 0xFFFF, []⟩]) pr.bed
    { pr with bed := ((ls.map (·.1)).eraseDups).foldl (fun bed c =>
        (List.range 16).foldl (fun bed k => evictCore bed s.free c k pr.cfg.bedLines) bed) bed }

/-- The winners' words of a region's rows in c, rows ascending (R130, R208). -/
def Prod.winnerWrites (pr : Prod) (p : PierId) (g : Region) (tile : Nat) (ws : List (Nat × Nat × Nat × Val)) : List Wr :=
  let blk := match pr.d.own with
    | none => 0
    | some o => let n := if pr.d.swapped then o.b1 else o.b0; if n == 0 then 0 else g.n0 / n
  (sortBy (fun (x y : Nat × Nat × Nat × Val) => x.1 < y.1) ws).flatMap fun x =>
    let inside := x.1 < pr.c.e1 && g.i2 < pr.c.e2 && g.i3 < pr.c.e3
    [(2 * blk, f32Code x.2.2.2), (2 * blk + 1, x.2.1)].filterMap fun y =>
      if inside && y.1 < pr.c.e0 then some ⟨tile, pr.c.u32Loc p y.1 x.1 g.i2 g.i3, y.2, 0⟩ else none

/-- A tile's cells with one row poisoned, if this is the tile of a failed accumulator: NaN, or +0 where the format has none
(R386, R485). -/
def Env.poisonRow (e : Env) (pr : Prod) (g : Region) (ts : List DTile) (i : Nat) (t : DTile) (cells : List Cell) :
    List Cell :=
  match e.bad with
  | none => cells
  | some (core, n) =>
    let mine := (List.range ts.length).filter fun j => match ts[j]? with | some u => u.core == core | none => false
    if t.core != core || mine[n % max 1 mine.length]? != some i then cells
    else
      let r := g.m0 + t.row0 + n / max 1 mine.length % max 1 t.rows
      let w := if pr.d.form.poisonCode == 0 && pr.d.form != .g8 then Val.zero else Val.nan
      cells.map fun x => if x.r == r && x.on then { x with w := w } else x

/-- The groups of 2-of-4 codes that a share reads: b's along its K positions and columns, or SDDMM's or an accumulating
compressor's d's (R228, R238, R246), each once, by group, i1, i2 and i3. -/
def Prod.groupsRead (pr : Prod) (ofB : Bool) (pls : List Plan) : List (Nat × Nat × Nat × Nat) :=
  pls.foldl (fun acc pl =>
    let g := pl.g
    let ks := if ofB then (List.range pl.Kn).map (pl.k0 + ·) else List.range g.M |>.map (g.m0 + ·)
    ks.foldl (fun acc k => (List.range g.N).foldl (fun acc x =>
      let c := g.n0 + x
      let y := if !ofB then
          let (i0, i1) := pr.d.idx k c
          (i0 / 4, i1, g.i2, g.i3)
        else
          let b := pr.b
          let (r, cc) := if pr.op == 3 then (c % b.rows, k % b.cols) else (k % b.rows, c % b.cols)
          (r / 4, cc, g.i2 % b.e2, g.i3 % b.e3)
      if acc.contains y then acc else acc ++ [y]) acc) acc) []

/-- How many of some groups of a 2-of-4 tensor have a malformed code (R228). -/
def State.malformedOf (s : State) (v : View) (t : Tens) (gs : List (Nat × Nat × Nat × Nat)) : Nat :=
  (gs.filter fun g => malformed24 (s.code24 v t g.1 g.2.1 g.2.2.1 g.2.2.2)).length

/-- One part of one product: the walk, drains, audits and winners (R101 to R107, R252, R560), read in state `s0` as it stood
before the header (R132), each later part's prior values as the parts before it left them (R102). Its spill points and groups
are counted from its own first K position: it runs as a product of its own (DEDUCED from R102; log 82). Nothing is written to
a d of a reserved format (R149). -/
def State.runPart (s0 : State) (e : Env) (pr : Prod) (mix : Bool) (parts : Nat) (pl : Plan) (acc : Acc) : Acc :=
  let n := pl.prod parts
  let acc := { acc with winners := [] }
  -- a later part reads P by the codes that stand there now; the first read of a group counts its code (R102, R228)
  let acc := if pr.dest != .packGroups || bitAt e.h.imm 0 || pl.part != 1 then acc
    else { acc with fig := { acc.fig with
      malformed := acc.fig.malformed + acc.put.s.malformedOf ⟨e.p, none, false⟩ pr.d (pr.groupsRead false [pl]) } }
  let r := (List.range pl.ts.length).foldl (fun (a : List (Nat × List Drained) × Acc) i =>
    match pl.ts[i]? with
    | none => a
    | some t =>
      let c := s0.tileCells acc.put.s e pr mix pl t
      let acc := { a.2 with tabAnomaly := a.2.tabAnomaly || c.2.1, fallback := a.2.fallback + c.2.2 }
      let x := s0.drainTile e pr pl.g t.core (e.poisonRow pr pl.g pl.ts i t c.1) acc
      (a.1 ++ [(1048576 * n + i, x.1)], { x.2 with fused := x.2.fused ++ pr.fusedOf e.p pl.g t.core x.1 })) ([], acc)
  let acc := s0.auditPart e pr pl r.2
  let present := if pr.dest == .packBlocks then presentIn pr (r.1.flatMap (·.2)) else []
  let ws := if pr.d.fmt ≥ 10 then [] else r.1.flatMap fun x => s0.tileWrites e pr pl.g x.1 x.2 present
  let wins := pr.winnerWrites e.p pl.g (1048576 * n + 1048575) acc.winners
  let put := acc.put.run e .mortar false pr.d.tid ws
  let put := put.run e .mortar false pr.c.tid wins
  { acc with present := acc.present ++ present, wrote := acc.wrote ++ ws ++ wins, put := { put with s := put.s.fillBed e.p (s0.fillLines e pr pl) } }

/-! ## A pier's share -/

/-- The accesses of a stationary element at K position k of column c: its code's byte and its value, never an error term (R92), and
nothing beyond the declared extents (R133). -/
def State.stationMet (s : State) (p : PierId) (pr : Prod) (g : Region) (k c : Nat) (m : Met) : Met :=
  let b := pr.b
  if b.blank then m
  else
    let (r, cc) := if pr.op == 3 then (c % b.rows, k % b.cols) else (k % b.rows, c % b.cols)
    let value := fun (m : Met) (l : Option Loc) => m.elem s p (l.map fun l => { l with comp := none })
    if b.layout == 4 then
      match blockAt pr.bBlocks (r / 16) (cc / 16) with
      | some x => value m (some (b.blockLoc x (16 * (r % 16) + cc % 16)))
      | none => m
    else if b.layout == 5 then
      let m := if b.aux == 0 then m else m.touch s p (b.codeAddr (r / 4) cc (g.i2 % b.e2) (g.i3 % b.e3)).1 1
      match s.slot24 ⟨p, none, false⟩ b r cc (g.i2 % b.e2) (g.i3 % b.e3) with
      | some l => value m (some l)
      | none => m
    else value m (b.matLoc p r cc g.i2 g.i3)

/-- The core that drains an element of a plan's region. -/
def Plan.drainCore (pl : Plan) (y x : Nat) : Nat :=
  match pl.ts.find? (fun t => t.row0 ≤ y && y < t.row0 + t.rows && t.col0 ≤ x && x < t.col0 + t.cols) with
  | some t => t.core
  | none => 0

/-- The accesses of a part's operands (R372, R373): round by round and chain by chain its tile loads (R106), then its moving rows
where a course fetches them (R235), then the prior values and old error terms that the drain reads (R173, R197). -/
def State.partMet (s : State) (e : Env) (pr : Prod) (pl : Plan) (m : Met) : Met :=
  let p := e.p
  let g := pl.g
  let m := if !pl.walk then m else pl.ts.foldl (fun m t => (List.range pl.Kn).foldl (fun m k =>
    (List.range t.cols).foldl (fun m x => s.stationMet p pr g (pl.k0 + k) (g.n0 + t.col0 + x) m)
      (m.on (.core (16 * t.links.getD (k / pl.sh.Ki) 0 + e.core + t.k)))) m) m
  let m := if !pl.walk || pr.a.blank then m else pl.ts.foldl (fun m t =>
    if (pl.mates t).head? != some t then m
    else (List.range t.rows).foldl (fun m y => (List.range t.links.length).foldl (fun m j =>
      if !pr.fetches pl t j y then m
      else (List.range ((pl.link j).2 - (pl.link j).1)).foldl (fun m k =>
        m.elem s p ((pr.a.matLoc p (g.m0 + t.row0 + y) ((pl.link j).1 + k) g.i2 g.i3).map fun l => { l with comp := none }))
        (m.on (if e.P == 1 then .core t.core else .course (t.links.getD j 0)))) m) m) m
  if pl.part != 0 || pr.d.fmt ≥ 10 then m
  else (List.range g.M).foldl (fun m y => (List.range g.N).foldl (fun m x =>
    let r := g.m0 + y
    let c := g.n0 + x
    let m := m.on (.core (pl.drainCore y x))
    if pr.accum then
      match s.priorLoc pr p g r c with
      | some l => m.elem s p (some l)
      | none => m
    else if pr.dest == .dense && pr.d.form == .g8 && pr.isActive r c then
      m.oldErr s p false (pr.d.loc p (pr.d.idx r c).1 (pr.d.idx r c).2 g.i2 g.i3)
    else m) m) m

/-- The wall of a unit's chisel engine, or all four (R212, R242). -/
def Env.chisel (e : Env) : Option (Fin 4) := if e.W == 4 then none else some ⟨e.wall % 4, Nat.mod_lt _ (by decide)⟩

/-- A chisel job handed to a pier (R218). -/
def State.addJob (s : State) (p : PierId) (q : QKey) (body : JobBody) (wall : Option (Fin 4)) : State :=
  s.updPier p fun pr => { pr with jobs := pr.jobs ++ [⟨q, body, wall, pr.jobCount, none⟩], jobCount := pr.jobCount + 1 }

/-- Figures of skipped entries, with the pier's counters (R224, R256, R257). -/
def Scan.bad (sc : Scan) (p : PierId) (tid : Nat) : SparseFig :=
  { SparseFig.empty p tid with badEntries := sc.badRange + sc.badOrder }

/-- A product as its header and its operands make it (R56, R60, R90, R92, R230, R231, R237 to R239, R245, R249). The scans'
figures are returned beside it. A gated product without a c computes every block, as one whose c is no list does (DESIGN CHOICE; log
96). A gating list is accepted against d's block extents, which R249 names, where R231 speaks of
those of the tensor that holds the list (DEDUCED: the rule for the gate; log 83). -/
def State.product (s : State) (e : Env) (mix : Bool) : Prod × Scan × Scan × Scan × Met :=
  let h := e.h
  let op := h.opcode
  let v : View := ⟨e.p, none, false⟩
  let imm := h.imm
  let a0 := e.tA
  let b0 := e.tB
  let hasC := refOn h.refC && op != 4
  let c0 := if hasC then e.tC else .zero
  let d0 := e.tD
  let a := if a0.sparse then a0.rowMajor else a0
  let sparseB := op == 2 || op == 3
  let b := if b0.sparse && !sparseB then b0.rowMajor else b0
  let none4 : Scan := ⟨[], 0, 0, .none⟩
  let sb := if b.layout == 4 then s.scan v b (op == 3) b.br b.bc else none4
  let K := if op == 3 then b.cols else b.rows
  let gate := op != 4 && bitAt imm 1
  let comp := if op == 4 then 0 else fld imm 3 2
  let split := (kParts K (matClass b.fmt) e.L).length > 1
  let dest : Dest :=
    if op == 4 then (if d0.layout == 4 then .sampleBlocks else if d0.layout == 5 then .sampleGroups else .dense)
    else if comp == 1 && d0.layout == 4 && !split then .packBlocks
    else if comp == 2 && d0.layout == 5 then .packGroups
    else .dense
  let d := if dest == .dense && d0.sparse then d0.rowMajor else d0
  let maxmin := op != 4 && bitAt imm 10 && !gate && hasC
  let marked := fun (t : Tens) =>
    let n := s.listCap e.p t
    let t := t.guard mix e.p false n d (if dest == .packBlocks then d.br * d.bc else s.listCap e.p d)
    if maxmin then t.guard mix e.p false n c0.words.rowMajor 0 else t
  let sd := if dest == .sampleBlocks then s.scan v d false d.br d.bc else none4
  let sc := if gate && hasC && c0.layout == 4 then s.scan v c0 false (min (cdiv d.rows 16) 65536) (min (cdiv d.cols 16) 65536) else none4
  let active := if dest == .sampleBlocks then some sd.blocks else if gate && hasC && c0.layout == 4 then some sc.blocks else none
  let two4 := op == 2 && b.layout == 5
  let fa := matClass a.fmt
  let fb := matClass b.fmt
  let k := if two4 then 2 else 1
  let pr : Prod :=
    { op := op, a := marked a, b := marked b, c := c0, hasC := hasC, d := d, dest := dest
      drop := comp == 2, accum := bitAt imm 0, gate := gate, act := if op == 4 then 0 else fld imm 9 4
      maxmin := maxmin, minimum := bitAt imm 11
      bBlocks := sb.blocks, active := active, K := K
      G := groupSize fa fb * k, rate := macRate fa fb * k
      sab := rne32 ((f32 a0.scale).mul (f32 b0.scale)), rd := rne32 (Val.one.div (f32 d0.scale))
      S := (s.pier e.p).cfg.spillS, mode := (s.pier e.p).cfg.drainMode h.stream }
  let met := [a0.missing, b0.missing, if hasC then c0.missing else none, d0.missing].foldl Met.meta Met.none
  (pr, sb, sc, sd, met)

/-- The courses of a unit. -/
def Env.allCourses (e : Env) : List Nat :=
  (List.range e.W).flatMap fun i => (List.range e.L).map fun j => (e.wall + i) * 12 + e.course + j

/-- Anomalies of layouts and formats on the courses of a product (R90, R92, R121, R149, R245): one per header each; and one layout
anomaly per part of a product whose block-list compression a K split prevents (R247). -/
def State.productAnomalies (s : State) (e : Env) (pr : Prod) (pls : List Plan) : State :=
  let (a0, b0, c0, d0) := (e.tA, e.tB, e.tC, e.tD)
  let usesC := pr.hasC && (pr.gate || pr.maxmin)
  let comp := if pr.op == 4 then 0 else fld e.h.imm 3 2
  let badFmt := a0.fmt ≥ 9 || b0.fmt ≥ 9 || d0.fmt ≥ 10
  let densely := a0.sparse || (b0.sparse && (pr.op == 1 || pr.op == 4))
  let reserved := a0.layout ≥ 6 || b0.layout ≥ 6 || d0.layout ≥ 6 || (usesC && c0.layout ≥ 6)
  let destBad := pr.op != 4 &&
    ((comp == 0 && d0.sparse) || (comp == 1 && d0.layout != 4) || (comp == 2 && d0.layout == 4))
  let split := comp == 1 && d0.layout == 4 && pls.any fun pl => pl.part != 0
  let cs := plansCourses pls
  let s := if badFmt then s.courseAnomaly e.p false cs 1 else s
  let s := if densely || reserved || destBad then s.courseAnomaly e.p true cs 1 else s
  if split then pls.foldl (fun (s : State) pl => s.courseAnomaly e.p true pl.courses 1) s else s

/-- What a share's products have made of its writes, figures and draws: every part in order, read as before the header. -/
def State.runPlans (s : State) (e : Env) (pr : Prod) (mix : Bool) (pls : List Plan) (acc : Acc) : Acc :=
  let parts := (kParts pr.K (matClass pr.b.fmt) e.L).length
  (List.range pls.length).foldl (fun acc n =>
    match pls[n]? with
    | none => acc
    | some pl =>
      let e := { e with bad := match e.bad with
        | some (core, k) => if k % pls.length == n then some (core, k / pls.length) else none
        | none => none }
      let pr := if pl.part == 0 then pr else { pr with accum := true }
      let acc := if pl.part == 0 then acc
        else { acc with put := { acc.put with last := acc.put.last.filter fun x => x.2.2 / 1048576 != pl.prod parts } }
      s.runPart e pr mix parts pl acc) acc

/-- A pier's share of a matrix product. A d of a reserved format is computed and not written (R149): its max/min words are, and its
statistics entry takes the figures of no element, for R200 counts those that a drain writes (DEDUCED; log 84). Beside its outcome, what
its drains converted (R315). -/
def State.productRun (s : State) (e : Env) (mix : Bool) : Out × List FusedEl :=
  let (pr, sb, sc, sd, meta_) := s.product e mix
  let h := e.h
  let pls := pr.plans e
  let writes := pr.d.fmt < 10
  let s := s.productAnomalies e pr pls
  let lists : View := ⟨e.p, none, false⟩
  let figB := { sb.bad e.p pr.b.tid with
    malformed := if pr.b.layout == 5 && pr.b.count != 0 then s.malformedOf lists pr.b (pr.groupsRead true pls) else 0 }
  let figD := { sd.bad e.p pr.d.tid with
    malformed := if pr.dest == .sampleGroups || (pr.dest == .packGroups && pr.accum)
      then s.malformedOf lists pr.d (pr.groupsRead false pls) else 0 }
  let met0 := ((meta_.join sb.met).join sc.met).join sd.met
  let met0 := if (pr.dest == .sampleGroups || (pr.dest == .packGroups && pr.accum)) && pr.d.aux != 0 && pr.d.fmt < 10
    then (pr.groupsRead false pls).foldl (fun m g => m.touch s e.p (pr.d.codeAddr g.1 g.2.1 g.2.2.1 g.2.2.2).1 1)
      (met0.on (.core (e.nthCore 0)))
    else met0
  let met := pls.foldl (fun m pl => s.partMet e pr pl m) met0
  let s := s.engineLines e met.fetched
  -- the presence map is cleared before the first drain write (R240)
  let packs := writes && pr.dest == .packBlocks && pr.d.aux != 0 && !pls.isEmpty
  let mapAt := pr.d.auxT + 64 + 12 * s.capAt e.p pr.d.auxT
  let acc := s.runPlans e pr mix pls ⟨Put.start s met, (s.pier e.p).draws, [], [], [], figD, false, 0, [], [], [], []⟩
  let a := acc.put
  let s := a.close e
  let s := s.updPier e.p fun p => { p with draws := acc.dr }
  let s := if packs then s.putHome e.p .mortar mapAt (presenceOf pr.d.br pr.d.bc acc.present) else s
  let side := (sortBy (fun (x y : Nat × Side) => x.1 < y.1) acc.sides).foldl (fun x y => x.join y.2) Side.empty
  let inOrder := fun (l : List (Nat × Val)) =>
    FpSpec.s64.encode ((sortBy (fun (x y : Nat × Val) => x.1 < y.1) l).foldl (fun x y => add64 x y.2) .zero)
  let fig := { acc.fig with loss := inOrder acc.losses, missSumSq := inOrder acc.misses }
  let s := s.setNonfinite e.p h.stream (side.nan || side.infinite) (writes && side.saturated)
  let s := if acc.tabAnomaly then s.bumpPier e.p kTableAnomaly 1 else s
  let s := s.bumpPier e.p kFallback acc.fallback
  let s := s.sparseCount e kBadRange (sb.badRange + sc.badRange + sd.badRange)
  let s := s.sparseCount e kBadOrder (sb.badOrder + sc.badOrder + sd.badOrder)
  let s := s.sparseCount e kMalformed (figB.malformed + fig.malformed)
  let s := s.bumpPier e.p kDrops fig.drops
  let s := ((s.bumpPier e.p kAudited fig.audited).bumpPier e.p kUnserved fig.unserved).bumpPier e.p kMiss fig.missed
  let s := if packs then s.addJob e.p e.q (.finish pr.d (a.met.absent.isSome, a.met.foreign.isSome)) e.chisel else s
  let s := s.account e a.met
  ({ s := s, err := a.met.bad, lines := a.lines, stats := [(if writes then side else Side.empty).fig e.p pr.d.tid]
     sparse := [figB, sc.bad e.p pr.c.tid, fig].foldl addFig [], jobs := b2n packs, wrote := acc.wrote, marked := [pr.a, pr.b] },
    acc.fused)

/-- The same with its guesses settled (R132). -/
def State.productShare (s : State) (e : Env) : Out := s.settled e.p fun mix => (s.productRun e mix).1

end Sys2Proof.Machine
end

