-- ==== Sys2Proof/Machine/Rows.lean ====
section
/-! DEFINITION. Row and elementwise work on the vector units: ROWNORM, ROWSOFTMAX, ACT, DMASK and REDUCE (R109, R127, R136,
R144, R160, R181 to R185, R210, R211, R308 to R312, R319 to R321, R561 to R563), and the copies TCOPY and MOVE (R145 to
R148, R157, R161, R171, R393, R394). -/

namespace Sys2Proof.Machine

/-! ## Rows -/

/-- What one row leaves: its elements' codes by position, further writes, flush, accesses, table marks. -/
structure RowOut where
  els : List (Nat × Coded)
  more : List Wr
  fl : Bool
  met : Met
  anomaly : Bool
  fallback : Nat
  deriving DecidableEq, Repr

/-- The rows of d that a pier runs, ascending (R127, R141, R144). -/
def Tens.ownRows (t : Tens) (p : PierId) : List (Nat × Nat × Nat) :=
  (List.range t.e3).flatMap fun i3 => (List.range t.e2).flatMap fun i2 => (List.range t.e1).filterMap fun i1 =>
    let mine := match t.own with
      | none => true
      | some o => o.owner (t.entry o 0 i1 i2 i3) == p
    if t.e0 != 0 && mine then some (i1, i2, i3) else none

/-- A row's number (R127), and the core that runs it (R109). -/
def Tens.rho (t : Tens) (i1 i2 i3 : Nat) : Nat := i1 + t.e1 * (i2 + t.e2 * i3)
def Env.rowCore (e : Env) (t : Tens) (i1 i2 i3 : Nat) : Nat := e.nthCore (t.rho i1 i2 i3 % e.cores)

/-- Elements of an operand as a row reads them, wrapped by its own extents (R563): n from position 0. -/
def Tens.rowLocs (t : Tens) (p : PierId) (i1 i2 i3 n : Nat) : List (Option Loc) :=
  if t.blank then [] else (List.range n).map fun i => t.locRow p (i % t.e0) (i1 % t.e1) (i2 % t.e2) (i3 % t.e3)

def State.rowRead (s : State) (v : View) (w : Wp) (t : Tens) (i1 i2 i3 n : Nat) : List FV :=
  if t.blank then List.replicate n .zero
  else (t.rowLocs v.p i1 i2 i3 n).map fun l => w.read t (s.elem v t l)

def State.rowMet (s : State) (p : PierId) (m : Met) (t : Tens) (i1 i2 i3 n : Nat) : Met :=
  (t.rowLocs p i1 i2 i3 n).foldl (fun m l => m.elem s p l) m

/-- The old error term of a row's g8 element (R173). -/
def State.rowErr (s : State) (v : View) (d : Tens) (i0 i1 i2 i3 : Nat) : Nat :=
  if d.form == .g8 then (s.code ⟨v.p, none, false⟩ .g8 (d.locRow v.p i0 i1 i2 i3)).2 else 0

/-- A result y converted into d (R160): y × rd, nearest-even. -/
def State.rowCode (s : State) (v : View) (flush : Bool) (d : Tens) (rd : Val) (i0 i1 i2 i3 : Nat) (y : Val) : Coded :=
  encodeOut d.form .even flush false (s.rowErr v d i0 i1 i2 i3) (y.mul rd)

/-- A value converted into d by R169 alone (R211, R215). A g8 destination takes its old error term in here too, as R173 has every
write of a g8 element do, though R211 and R215 name the conversion alone (DEDUCED; log 85). -/
def State.rowRaw (s : State) (v : View) (flush : Bool) (d : Tens) (i0 i1 i2 i3 : Nat) (y : Val) : Coded :=
  encodeOut d.form .even flush false (s.rowErr v d i0 i1 i2 i3) y

/-- rd of a destination (R159, R160). -/
def Tens.rd (t : Tens) : Val := rne32 (Val.one.div (f32 t.scale))

/-- Courses of a list of cores, each once. -/
def coursesOf (cores : List Nat) : List Nat :=
  cores.foldl (fun acc c => if acc.contains (c / 16) then acc else acc ++ [c / 16]) []

/-- Format and layout anomalies of vector work on the courses that handle it (R90, R92, R121, R148, R149); `words`, a tensor that
takes u32 words, whatever its format. -/
def State.vectorAnomalies (s : State) (e : Env) (srcs : List Tens) (d : Tens) (words : Option Tens) (cs : List Nat)
    (u32ok : Bool) : State :=
  let badFmt := srcs.any (fun t => t.fmt ≥ 10 || (t.fmt == 9 && !u32ok)) || d.fmt ≥ 10
  let badLay := srcs.any (fun t => t.layout ≥ 4) || d.layout ≥ 4 || words.any (fun t => t.layout ≥ 6)
  let s := if badFmt then s.courseAnomaly e.p false cs 1 else s
  if badLay then s.courseAnomaly e.p true cs 1 else s

/-- A pier's share of row work: each row of d by its core (R109), then accounting, flags and counters. A d of a reserved format is
computed and not written (R149). -/
def State.rowShare (s : State) (e : Env) (srcs : List Tens) (d : Tens) (words : Option Tens) (meta_ : List (Option Nat))
    (f : Nat → Nat → Nat → Nat → RowOut) : Out :=
  let rows := d.ownRows e.p
  let met0 := meta_.foldl Met.meta Met.none
  let cs := coursesOf (rows.map fun r => e.rowCore d r.1 r.2.1 r.2.2)
  let s0 := s.vectorAnomalies e srcs d words cs false
  let r := rows.foldl (fun (acc : List Wr × RowOut) r =>
    let (i1, i2, i3) := r
    let o := f (e.rowCore d i1 i2 i3) i1 i2 i3
    let els := if d.fmt ≥ 10 then [] else o.els
    let ws := els.map fun x => (⟨d.rho i1 i2 i3, d.locRow e.p x.1 i1 i2 i3, x.2.code, x.2.err⟩ : Wr)
    let met := els.foldl (fun m x => m.oldErr s e.p false (d.locRow e.p x.1 i1 i2 i3))
      (o.met.on (.core (e.rowCore d i1 i2 i3)))
    (acc.1 ++ ws ++ o.more,
      { els := [], more := [], fl := acc.2.fl || o.fl || els.any (fun x => x.2.fl), met := acc.2.met.join met
        anomaly := acc.2.anomaly || o.anomaly, fallback := acc.2.fallback + o.fallback }))
    ([], ⟨[], [], false, met0, false, 0⟩)
  let o := s0.settle e .mortar false d.tid r.2.met r.1
  let s := o.s.flushedIf e.p e.h.stream r.2.fl
  let s := if r.2.anomaly then s.bumpPier e.p kTableAnomaly 1 else s
  { o with s := s.bumpPier e.p kFallback r.2.fallback, marked := srcs }

/-! ## Row functions (R311, R561, R562) -/

def FV.ofNat (n : Nat) : FV := ⟨.fin false n 0, false⟩

/-- Sum in ascending index, starting from element 0. -/
def Wp.sum (w : Wp) : List FV → FV
  | [] => .zero
  | x :: xs => xs.foldl w.add x

def anyFl (xs : List FV) : Bool := xs.any (·.fl)

/-- The normalised row h and the factor r (R311, R562). -/
def normRow (w : Wp) (rms : Bool) (eps : FV) (x : List FV) : List FV × FV :=
  let n := FV.ofNat x.length
  let mu := if rms then FV.zero else w.div (w.sum x) n
  let dev := x.map fun t => w.sub t mu
  let v := dev.foldl (fun v t => w.fma t t v) .zero
  let r := w.rsqrt (w.add (w.div v n) eps)
  (dev.map fun t => w.mul t r, r)

/-- The vector-Jacobian product of row normalisation (R311), for each pair of positions in the gradient row and the saved row. -/
def normVjp (w : Wp) (rms : Bool) (eps : FV) (gain : Option (List FV)) (g x : List FV) (ix : List (Nat × Nat)) : List FV :=
  let g := match gain with
    | some ga => List.zipWith w.mul g ga
    | none => g
  let (h, r) := normRow w rms eps x
  let n := FV.ofNat x.length
  let mg := if rms then FV.zero else w.div (w.sum g) n
  let s := (List.zip g h).foldl (fun s y => w.fma y.1 y.2 s) .zero
  let sn := w.div s n
  ix.map fun i => w.mul r (w.sub (w.sub (g.getD i.1 .zero) mg) (w.mul (h.getD i.2 .zero) sn))

/-- The greatest of a row by R184. -/
def maxOf : List FV → FV
  | [] => .zero
  | x :: xs => xs.foldl (fun m y => if beats false m.v y.v then y else m) x

/-- ROWSOFTMAX of a row (R561). -/
def softmaxRow (w : Wp) (m : FV) (x : List FV) : List FV :=
  let z := x.map fun t => w.mul t m
  let mx := maxOf z
  let es := z.map fun t => w.exp (w.sub t mx)
  let s := es.foldl w.add .zero
  es.map fun t => w.div t s

/-- The vector-Jacobian product of softmax (R311). Where p is +0 and g − s negative, its formula gives −0: the formula is followed, as
R312, which says that dx is then +0, names a value without its steps (DESIGN CHOICE; log 96). For each pair of positions in the gradient row and the saved row. -/
def softmaxVjp (w : Wp) (m : FV) (g x : List FV) (ix : List (Nat × Nat)) : List FV :=
  let p := softmaxRow w m x
  let s := (List.zip g p).foldl (fun s y => w.fma y.1 y.2 s) .zero
  ix.map fun i => w.mul m (w.mul (p.getD i.2 .zero) (w.sub (g.getD i.1 .zero) s))

/-- An fp32 constant of a header or table in working precision, flushed as any value it reads. -/
def Wp.const (w : Wp) (c : Nat) : FV := w.rnd (decodeFlush .fp32 (c % 0x1_0000_0000) w.flush) (w.flush && codeSub .fp32 (c % 0x1_0000_0000))

/-- Positions L to e0 − 1 of a row, as the +0 code (R136). -/
def padCodes (L e0 : Nat) : List (Nat × Coded) := (List.range (e0 - L)).map fun i => (L + i, zeroCode)

/-! ## The operations -/

/-- A pier's share of ROWNORM (R562). A gain or bias of another working precision than a is read in a's (DESIGN CHOICE; log 86). -/
def State.rownormRun (s : State) (e : Env) (mix : Bool) : Out :=
  let h := e.h
  let d := e.tD
  let rd := fun (t : Tens) => t.guard mix e.p true 0 d 0
  let a := rd e.tA
  let gb := if refOn h.refB then some (rd e.tB) else none
  let gc := if refOn h.refC then some (rd e.tC) else none
  let flush := s.flushBit e.p h.stream
  let w := a.wp flush
  let eps := w.const (fld h.imm 31 0)
  let L := a.valid
  let n := min L d.e0
  s.rowShare e (a :: (gb.toList ++ gc.toList)) d none
    ([a.missing, d.missing] ++ (gb.toList ++ gc.toList).map (·.missing)) fun core i1 i2 i3 =>
    let v : View := ⟨e.p, some (48 + core), false⟩
    let (hs, _) := normRow w (bitAt h.imm 32) eps (s.rowRead v w a i1 i2 i3 L)
    let g := gb.map fun t => s.rowRead v w t i1 i2 i3 n
    let c := gc.map fun t => s.rowRead v w t i1 i2 i3 n
    let ys := (List.range n).map fun i =>
      let x := hs.getD i .zero
      match g, c with
      | some g, some c => w.fma x (g.getD i .zero) (c.getD i .zero)
      | some g, none => w.mul x (g.getD i .zero)
      | none, some c => w.add x (c.getD i .zero)
      | none, none => x
    let met := s.rowMet e.p (Met.none.on (.core core)) a i1 i2 i3 L
    let met := (gb.toList ++ gc.toList).foldl (fun m t => s.rowMet e.p m t i1 i2 i3 n) met
    { els := ((List.range n).map fun i => (i, s.rowCode v flush d d.rd i i1 i2 i3 (ys.getD i .zero).v)) ++ padCodes n d.e0
      more := [], fl := anyFl hs || anyFl ys, met := met, anomaly := false, fallback := 0 }

def State.rownormShare (s : State) (e : Env) : Out := s.settled e.p (s.rownormRun e)

/-- A pier's share of ROWSOFTMAX (R561). -/
def State.rowsoftmaxRun (s : State) (e : Env) (mix : Bool) : Out :=
  let h := e.h
  let d := e.tD
  let a := e.tA.guard mix e.p true 0 d 0
  let flush := s.flushBit e.p h.stream
  let w := a.wp flush
  let L := a.valid
  let n := min L d.e0
  s.rowShare e [a] d none [a.missing, d.missing] fun core i1 i2 i3 =>
    let v : View := ⟨e.p, some (48 + core), false⟩
    let ys := softmaxRow w (w.const (fld h.imm 31 0)) (s.rowRead v w a i1 i2 i3 L)
    { els := ((List.range n).map fun i => (i, s.rowCode v flush d d.rd i i1 i2 i3 (ys.getD i .zero).v)) ++ padCodes n d.e0
      more := [], fl := anyFl ys, met := s.rowMet e.p (Met.none.on (.core core)) a i1 i2 i3 L, anomaly := false, fallback := 0 }

def State.rowsoftmaxShare (s : State) (e : Env) : Out := s.settled e.p (s.rowsoftmaxRun e)

/-- The parameter slot of a row table: parameter, rms, gain address, and whether its segment is above 1,983 (R309, R310). -/
structure RowParam where
  param : Nat
  rms : Bool
  gain : Nat
  beyond : Bool
  deriving DecidableEq, Repr

def State.rowParam (s : State) (p : PierId) (core seg : Nat) : RowParam :=
  if seg > 1983 then ⟨0, false, 0, true⟩
  else
    let a := s.tableWord p core (1024 + 16 * seg) 8
    let b := s.tableWord p core (1024 + 16 * seg + 8) 8
    ⟨fld a 31 0, bitAt a 32, fld b 51 0, false⟩

/-- A value of ACT's working precision as fp32 (R308). -/
def toF32 (flush : Bool) (x : FV) : FV := (⟨false, flush⟩ : Wp).rnd x.v x.fl

/-- What a fused ACT takes from the drain that made an element of a (R315): the core and the element's codes. -/
def fusedAt (fs : List FusedEl) (p : PierId) (a : Tens) (i0 i1 i2 i3 : Nat) : Option FusedEl :=
  fs.find? fun f => f.pier == p && f.ix == (i0 % a.e0, i1 % a.e1, i2 % a.e2, i3 % a.e3)

/-- A pier's share of ACT (R308 to R312). A row function runs over the ext0 of the row it is computed from, and its product with
a gradient row of another length over the longer of the two, each read by R563 (DESIGN CHOICE; log 87). Fused into the product
before it (R315), an element comes from the drain that made it, on whose core its function is evaluated, and a is not read. -/
def State.actRun (s : State) (e : Env) (fs : List FusedEl) (mix : Bool) : Out :=
  let h := e.h
  let id := fld h.imm 5 0
  let der := bitAt h.imm 6
  let d := e.tD
  let a := e.tA.guard mix e.p true 0 d 0
  let b := if refOn h.refB then e.tB.guard mix e.p true 0 d 0 else .zero
  let flush := s.flushBit e.p h.stream
  let w : Wp := ⟨false, flush⟩
  let srcs := if der then [a, b] else [a]
  s.rowShare e srcs d none ([a.missing, d.missing] ++ (if der then [b.missing] else [])) fun core i1 i2 i3 =>
    let v : View := ⟨e.p, some (48 + core), false⟩
    let t := s.tabEntry e.p core id
    let took := fun i => if fs.isEmpty || a.blank then none else fusedAt fs e.p a i i1 i2 i3
    let read := fun (x : Tens) n => (s.rowRead v (x.wp flush) x i1 i2 i3 n).map (toF32 flush)
    let n := if t.kind == 2 || t.kind == 3 then (if der then max a.e0 b.e0 else a.e0) else d.e0
    let ra := read a n
    let xa := if fs.isEmpty then ra else (List.range n).map fun i => match took i with
      | some f => toF32 flush ((a.wp flush).read a (f.code, f.err))
      | none => ra.getD i .zero
    let xb := if der then read b n else []
    let pm := s.rowParam e.p core t.fwd
    let prm := w.const pm.param
    let start := Met.none.on (.core core)
    let met := if fs.isEmpty then s.rowMet e.p start a i1 i2 i3 n
      else (List.range n).foldl (fun m i => if (took i).isSome || a.blank then m
        else m.elem s e.p (a.locRow e.p (i % a.e0) (i1 % a.e1) (i2 % a.e2) (i3 % a.e3))) start
    let met := if der then s.rowMet e.p met b i1 i2 i3 n else met
    let out := fun (ys : List FV) an fb (met : Met) =>
      ({ els := (List.range d.e0).map fun i => (i, s.rowCode v flush d d.rd i i1 i2 i3 (ys.getD (i % max 1 ys.length) .zero).v)
         more := [], fl := anyFl xa || anyFl xb || anyFl ys, met := met, anomaly := an, fallback := fb } : RowOut)
    let ix := (List.range d.e0).map fun i => (i % max 1 a.e0, i % max 1 b.e0)
    if t.kind == 2 then
      if der then
        let ga := (List.range n).map fun i =>
          let c := if s.reach e.p (pm.gain + 4 * i) == .ok then s.viewWord v (pm.gain + 4 * i) 4 else 0
          w.const c
        let met := if pm.gain == 0 then met else (List.range n).foldl (fun m i => m.touch s e.p (pm.gain + 4 * i) 4) met
        out (normVjp w pm.rms prm (if pm.gain == 0 then none else some ga) xa xb ix) pm.beyond 0 met
      else out (normRow w pm.rms prm xa).1 pm.beyond 0 met
    else if t.kind == 3 then
      out (if der then softmaxVjp w prm xa xb ix else softmaxRow w prm xa) pm.beyond 0 met
    else
      let at_ := fun i => match took i with
        | some f => f.core
        | none => core
      let arg := if der then xb else xa
      let ls : List Look := (List.range n).map fun i => s.lookup e.p (at_ i) id w der (arg.getD i .zero)
      let ys := if der then List.zipWith (fun x (l : Look) => w.mul x l.v) xa ls else ls.map (·.v)
      out ys (ls.any (·.anomaly)) (ls.filter (·.fallback)).length met

def State.actFused (s : State) (e : Env) (fs : List FusedEl) : Out := s.settled e.p (s.actRun e fs)

/-- A pier's share of DMASK (R319 to R321). -/
def State.dmaskRun (s : State) (e : Env) (mix : Bool) : Out :=
  let h := e.h
  let d := e.tD
  let a := e.tA.guard mix e.p true 0 d 0
  let flush := s.flushBit e.p h.stream
  let w := a.wp flush
  let keep := fld h.imm 31 16
  let f : FV := ⟨rne32 ((Val.fin false 65536 0).div (.fin false keep 0)), false⟩
  s.rowShare e [a] d none [a.missing, d.missing] fun core i1 i2 i3 =>
    let v : View := ⟨e.p, some (48 + core), false⟩
    let xs := s.rowRead v w a i1 i2 i3 d.e0
    let ys := (List.range d.e0).map fun i =>
      let l := wrap64 (i + d.e0 * (i1 + d.e1 * (i2 + d.e2 * i3)))
      if dropKept (s.pier e.p).cfg.seedF.toNat (fld h.imm 15 0) e.epoch l keep then w.mul (xs.getD i .zero) f else FV.zero
    { els := (List.range d.e0).map fun i => (i, s.rowCode v flush d d.rd i i1 i2 i3 (ys.getD i .zero).v)
      more := [], fl := anyFl xs || anyFl ys, met := s.rowMet e.p (Met.none.on (.core core)) a i1 i2 i3 d.e0
      anomaly := false, fallback := 0 }

def State.dmaskShare (s : State) (e : Env) : Out := s.settled e.p (s.dmaskRun e)

/-- The elements that a reduction combines for d's element at (i0, i1, i2, i3), along an axis of a (R136, R210, R211). Where d's
extents exceed a's, a's indices wrap as in R563 (DESIGN CHOICE; log 80). -/
def Tens.axisLocs (t : Tens) (p : PierId) (axis i0 i1 i2 i3 : Nat) : List (Option Loc) :=
  if t.count == 0 then []
  else
    let n := if axis == 0 then t.valid else t.ext axis
    (List.range n).map fun j =>
      let ix := fun k i => (if k == axis then j else i) % t.ext k
      t.locRow p (ix 0 i0) (ix 1 i1) (ix 2 i2) (ix 3 i3)

/-- The index of the winner of a row by R184. -/
def winnerOf (mn : Bool) (xs : List FV) : Nat :=
  ((List.range xs.length).foldl (fun (best : Option (Nat × Val)) j =>
    let y := (xs.getD j .zero).v
    match best with
    | none => some (j, y)
    | some (i, x) => if beats mn x y then some (j, y) else some (i, x)) none).elim 0 (·.1)

/-- A pier's share of REDUCE (R210, R211). -/
def State.reduceRun (s : State) (e : Env) (mix : Bool) : Out :=
  let h := e.h
  let kind := fld h.imm 1 0
  let axis := fld h.imm 3 2
  let d := e.tD
  let hasC := refOn h.refC && (kind == 1 || kind == 2)
  let c := if hasC then e.tC else .zero
  let a := e.tA.guard mix e.p true 0 d 0
  let a := if hasC then a.guard mix e.p true 0 c.words 0 else a
  let flush := s.flushBit e.p h.stream
  let w := a.wp flush
  s.rowShare e [a] d (if hasC then some c else none) ([a.missing, d.missing] ++ (if hasC then [c.missing] else [])) fun core i1 i2 i3 =>
    let v : View := ⟨e.p, some (48 + core), false⟩
    let here := (axis != 1 || i1 == 0) && (axis != 2 || i2 == 0) && (axis != 3 || i3 == 0)
    let is := if !here then [] else if axis == 0 then [0] else List.range d.e0
    let res := is.map fun i0 =>
      let ls := a.axisLocs e.p axis i0 i1 i2 i3
      let xs := ls.map fun l => if a.blank then FV.zero else w.read a (s.elem v a l)
      let win := winnerOf (kind == 2) xs
      let y : FV :=
        if kind == 0 then w.sum xs
        else if kind == 3 then xs.foldl (fun t x => w.fma x x t) .zero
        else xs.getD win .zero
      let inf := Val.inf (kind == 1)
      let out := if xs.isEmpty then
          s.rowRaw v flush d i0 i1 i2 i3 (if kind == 0 || kind == 3 then .zero else inf)
        else s.rowCode v flush d d.rd i0 i1 i2 i3 y.v
      let met := if a.blank then Met.none else ls.foldl (fun m l => m.elem s e.p l) (Met.none.on (.core core))
      (i0, out, if xs.isEmpty then 0xFFFF_FFFF else win, anyFl xs || y.fl, met)
    let inC := fun i0 => i0 < c.e0 && i1 < c.e1 && i2 < c.e2 && i3 < c.e3
    { els := res.map fun r => (r.1, r.2.1)
      more := if !hasC then [] else res.filterMap fun r =>
        if inC r.1 then some ⟨2 ^ 40 + d.rho i1 i2 i3, c.u32Loc e.p r.1 i1 i2 i3, r.2.2.1, 0⟩ else none
      fl := res.any (fun r => r.2.2.2.1), met := res.foldl (fun m r => m.join r.2.2.2.2) Met.none
      anomaly := false, fallback := 0 }

def State.reduceShare (s : State) (e : Env) : Out := s.settled e.p (s.reduceRun e)

/-! ## Copies -/

/-- A 32 × 32 destination tile (R129) with its place in the order of R147. -/
structure CTile where
  at_ : Nat
  ix : Nat
  t0 : Nat
  t1 : Nat
  i2 : Nat
  i3 : Nat
  deriving DecidableEq, Repr

/-- The address of a tensor's element on the pier that owns its block (R145). -/
def Tens.ownAddr (t : Tens) (p : PierId) (i0 i1 i2 i3 : Nat) : Nat :=
  let q := match t.own with
    | none => p
    | some o => o.owner (t.entry o i0 i1 i2 i3)
  match t.loc q i0 i1 i2 i3 with
  | some l => l.addr
  | none => 0

/-- The destination tiles of a copy, in the order of R147. -/
def Tens.copyTiles (t : Tens) (p : PierId) : List CTile :=
  let n0 := cdiv t.e0 32
  let n1 := cdiv t.e1 32
  let all := (List.range t.e3).flatMap fun i3 => (List.range t.e2).flatMap fun i2 => (List.range n1).flatMap fun t1 =>
    (List.range n0).map fun t0 =>
      (⟨t.ownAddr p (32 * t0) (32 * t1) i2 i3, t0 + n0 * (t1 + n1 * (i2 + t.e2 * i3)), t0, t1, i2, i3⟩ : CTile)
  sortBy (fun x y => x.at_ < y.at_ || (x.at_ == y.at_ && x.ix < y.ix)) all

/-- A copied element. -/
structure Copied where
  i0 : Nat
  i1 : Nat
  out : Coded
  deriving DecidableEq, Repr

/-- One destination tile of a TCOPY or MOVE: source elements read, conversions made in the order of their lanes (R161, R171,
R173, R179), elements of other owners left out (R141). `mv`: bits unchanged (R157). -/
def State.copyTile (s : State) (e : Env) (mv : Bool) (v : View) (a d : Tens) (core : Nat) (t : CTile) (dr : Table) :
    List Copied × Table × Bool :=
  let flush := s.flushBit e.p e.h.stream
  let f := rne32 ((f32 a.scale).div (f32 d.scale))
  let w0 := min 32 (d.e0 - 32 * t.t0)
  let w1 := min 32 (d.e1 - 32 * t.t1)
  let ixs := (List.range w1).flatMap fun y => (List.range w0).map fun x => (32 * t.t0 + x, 32 * t.t1 + y)
  ixs.foldl (fun (acc : List Copied × Table × Bool) ix =>
    let (i0, i1) := ix
    let mine := match d.own with
      | none => true
      | some o => o.owner (d.entry o i0 i1 t.i2 t.i3) == e.p
    if !mine then acc
    else
      let (r, c) := if d.swapped then (i0, i1) else (i1, i0)
      let empty := a.count == 0
      let (a0, a1) := a.idx (r % a.rows) (c % a.cols)
      let raw := if empty then (0, 0) else
        let l := a.loc v.p a0 a1 (t.i2 % a.e2) (t.i3 % a.e3)
        s.code v a.form l
      if mv then (acc.1 ++ [⟨i0, i1, raw.1, raw.2, false, false⟩].map (fun (x : Nat × Nat × Nat × Nat × Bool × Bool) =>
          ⟨x.1, x.2.1, ⟨x.2.2.1, x.2.2.2.1, false, false⟩⟩), acc.2)
      else if a.fmt == 9 && d.fmt == 9 then (acc.1 ++ [⟨i0, i1, ⟨raw.1, 0, false, false⟩⟩], acc.2)
      else
        let x := if a.blank then FV.zero else vecVal a.form flush raw
        let (rn, dr) := s.rndOf e core (i0 % 64) (fld e.h.imm 1 0) d.form acc.2.1
        let eOld := if d.form == .g8 then (s.code ⟨v.p, none, v.any⟩ .g8 (d.loc e.p i0 i1 t.i2 t.i3)).2 else 0
        let o := encodeOut d.form rn flush false eOld (x.v.mul f)
        (acc.1 ++ [⟨i0, i1, o⟩], dr, acc.2.2 || x.fl || o.fl)) ([], dr, false)

/-- The accesses of a copied tile (R372, R373): its sources, each with its error term, and the old error terms that TCOPY takes in
(R173). A MOVE reads wherever a line is homed (R394); its lines are those it reads from their home mortars. -/
def State.copyMet (s : State) (e : Env) (mv : Bool) (a d : Tens) (t : CTile) (cs : List Copied) (m : Met) : Met :=
  cs.foldl (fun m x =>
    let m := if mv then m else m.oldErr s e.p false (d.loc e.p x.i0 x.i1 t.i2 t.i3)
    if a.count == 0 || a.fmt ≥ 10 then m
    else
      let (r, c) := if d.swapped then (x.i0, x.i1) else (x.i1, x.i0)
      let (a0, a1) := a.idx (r % a.rows) (c % a.cols)
      match a.loc e.p a0 a1 (t.i2 % a.e2) (t.i3 % a.e3) with
      | some l =>
        if !mv then m.elem s e.p (some l)
        else
          let at_ := fun (m : Met) (b n : Nat) => m.touch s ((s.memHome b).getD e.p) b n
          let m := at_ m l.addr l.size
          match l.comp with
          | some c => at_ m c 2
          | none => m
      | none => m.elem s e.p none) m

/-- The line that a copied element is read from and the one that it is written to, if it has both. -/
def Tens.copyLines (a d : Tens) (p : PierId) (t : CTile) (x : Copied) : Option (Nat × Nat) :=
  if a.count == 0 then none
  else
    let (r, c) := if d.swapped then (x.i0, x.i1) else (x.i1, x.i0)
    let (a0, a1) := a.idx (r % a.rows) (c % a.cols)
    match a.loc p a0 a1 (t.i2 % a.e2) (t.i3 % a.e3), d.loc p x.i0 x.i1 t.i2 t.i3 with
    | some l, some m => some (lineOf l.addr, lineOf m.addr)
    | _, _ => none

/-- What a copy has done so far: its writes, draws, flushes, and for a MOVE the source line and destination line of each element. -/
structure CopyAcc where
  put : Put
  dr : Table
  fl : Bool
  pairs : List (Nat × Nat)
  deriving DecidableEq, Repr

/-- The piers other than e's that a MOVE's packets reach: the homes of lines read and written (R36, R394, R435). -/
def State.wakeHomes (s : State) (lines : List Nat) : State :=
  lines.foldl (fun (s : State) l => match s.memHome l with
    | some h => s.wakePier h
    | none => s) s

/-- A line that a MOVE reads, by the mortar of its home (R378, R394): a core's access engine allocates it; a pier trowel, for a U MOVE,
is served from the line on a hit and from the channel without allocating on a miss. -/
def State.moveRead (s : State) (u : Bool) (l : Nat) : State :=
  match s.memHome l with
  | none => s
  | some h => if u then s.trowelLine h l else s.demandLine h l

/-- The packets of a MOVE (R22, R394): of each source line one to each home of the lines that its bytes go to. -/
def State.movePackets (s : State) (ps : List (Nat × Nat)) : State :=
  (ps.eraseDups).foldl (fun (s : State) x => match s.memHome x.1, s.memHome x.2 with
    | some h, some d => s.sendPackets (pathEdges h d) 1
    | _, _ => s) s

/-- A pier's share of TCOPY or MOVE, its operands given (R145 to R148, R393, R394): a copy that overlaps goes tile by tile
on core 0, each tile read whole before it is written; any other reads what stood before it. A MOVE of a reserved format has no
element size, so it is taken as one packet for each share, discarded and counted where the share runs, by a core's access
engine or for a U MOVE a trowel (R67, R559; DESIGN CHOICE, log 88). -/
def State.copyShare (s : State) (e : Env) (mv : Bool) (a0 d0 : Tens) : Out :=
  let a := if a0.sparse then a0.rowMajor else a0
  let d := if d0.sparse then d0.rowMajor else d0
  let d := if mv then { d with fmt := a.fmt } else d
  let ov := overlaps a d
  let tiles := d.copyTiles e.p
  let coreOf := fun n => if ov then e.nthCore 0 else e.nthCore (n % e.cores)
  let u := e.h.stream == 3
  let cs := if mv && u then [] else coursesOf ((List.range tiles.length).map coreOf)
  let met := [a0.missing, d0.missing].foldl Met.meta Met.none
  let s0 := s.vectorAnomalies e [a0] { d0 with fmt := d.fmt } none cs (mv || (a.fmt == 9 && d.fmt == 9))
  if mv && a.fmt ≥ 10 then
    let s := (s0.bumpPier e.p kTagAnomaly 1).log
      { hdrRecord s0 e.p e.h 0x0A 4 with unitKind := if u then 5 else 0, detail0 := e.tag a }
    Out.of (s.account e met)
  else
    let r := (List.range tiles.length).foldl (fun (acc : CopyAcc) n =>
      match tiles[n]? with
      | none => acc
      | some t =>
        let core := coreOf n
        let src := if ov then acc.put.s else s0
        let v : View := ⟨e.p, if ov || mv then none else some (48 + core), mv⟩
        let (els, dr, fl) := src.copyTile e mv v a d core t acc.dr
        let met := src.copyMet e mv a d t els (acc.put.met.on (.core core))
        let new := met.lines.drop acc.put.met.lines.length
        let read := if mv then new.foldl (fun (s : State) l => s.moveRead u l) (acc.put.s.wakeHomes new) else acc.put.s.demandLines e.p new
        let ws := if d.fmt ≥ 10 then []
          else els.map fun x => (⟨if ov then 0 else n, d.loc e.p x.i0 x.i1 t.i2 t.i3, x.out.code, x.out.err⟩ : Wr)
        let read := if mv then read.wakeHomes (ws.filterMap fun x => x.loc.map fun l => lineOf l.addr) else read
        ⟨({ acc.put with s := read, met := met } : Put).run e .mortar mv d.tid ws, dr, acc.fl || fl,
          if mv then acc.pairs ++ els.filterMap (a.copyLines d e.p t) else []⟩) ⟨Put.start s0 met, (s0.pier e.p).draws, false, []⟩
    let s := r.put.close e
    let s := s.updPier e.p fun p => { p with draws := r.dr }
    let s := s.flushedIf e.p e.h.stream r.fl
    let s := (if mv then s.movePackets r.pairs else s).noteRuns e r.put.met.fetched
    { Out.of (s.account e r.put.met) with err := r.put.met.bad, lines := r.put.lines }

/-- A pier's share of TCOPY (R161, R171). -/
def State.tcopyShare (s : State) (e : Env) : Out := s.copyShare e false e.tA e.tD

/-- A pier's share of MOVE (R157, R394). -/
def State.moveShare (s : State) (e : Env) : Out := s.copyShare e true e.tA e.tD

end Sys2Proof.Machine
end

