-- ==== Sys2Proof/Machine/Trowel.lean ====
section
/-! DEFINITION. The trowels: the parameter table (R328 to R331), programs (R332 to R337), UPDATE on a pier's trowels (R323 to
R326, R338, R339, R343), norms (R346, R347), fingerprints (R352, R353) and the placing of slow-tier entries (R349). -/

namespace Sys2Proof.Machine

/-! ## The parameter table -/

/-- A parameter entry (R329). -/
structure PEntry where
  at_ : Nat
  refs : List Nat
  acc : Nat
  gradId : Nat
  trained : Bool
  g8Read : Bool
  keyEn : Bool
  key : Nat
  layer : Nat
  fpOff : Nat
  epoch : Nat
  valid : Bool
  pending : Bool
  accEpoch : Nat
  shard : Nat
  applies : Nat
  deriving DecidableEq, Repr

/-- The address of a tensor's entry, if it has one (R329). -/
def PierCfg.entryAt (c : PierCfg) (t : Nat) : Option Nat :=
  let i := subMod (2 ^ 20) t (fld c.paramRange.toNat 19 0)
  if i < min (fld c.paramRange.toNat 40 20) (2 ^ 20) then some (wrap52 (4096 * fld c.paramBase.toNat 51 12 + 64 * i))
  else none

def State.pentry (s : State) (p : PierId) (t : Nat) : Option PEntry :=
  ((s.pier p).cfg.entryAt t).map fun a =>
    let w := fun i => s.rawWord (a + 8 * i) 8
    { at_ := a, refs := [w 0, w 1, w 2], acc := w 3
      gradId := fld (w 4) 19 0, trained := bitAt (w 4) 20, g8Read := bitAt (w 4) 21, keyEn := bitAt (w 4) 22
      key := fld (w 4) 46 32, layer := fld (w 5) 15 0, fpOff := fld (w 5) 63 32
      epoch := fld (w 6) 15 0, valid := bitAt (w 6) 16, pending := bitAt (w 6) 17, accEpoch := fld (w 6) 47 32
      shard := fld (w 7) 31 0, applies := fld (w 7) 63 32 }

/-- The runtime fields of an entry, written with reserved bits zero (R329, R330). -/
def State.putRuntime (s : State) (p : PierId) (x : PEntry) : State :=
  let w := x.epoch % 2 ^ 16 + 2 ^ 16 * b2n x.valid + 2 ^ 17 * b2n x.pending + 2 ^ 32 * (x.accEpoch % 2 ^ 16)
  s.putHome p .trowel (x.at_ + 48) (leBytes 8 w ++ leBytes 4 x.shard ++ leBytes 4 x.applies)

/-! ## Elements of a share (R326, R331) -/

/-- How a parameter's elements are found: 0 dense, 4 block-list, 5 2-of-4. -/
def Tens.kind (t : Tens) : Nat := if t.sparse then t.layout else 0

/-- A parameter element: owner entry, number in the fingerprint, logical place or element offset, code nibble. -/
structure PEl where
  shard : Nat
  j : Nat
  r : Nat
  c : Nat
  i2 : Nat
  i3 : Nat
  off : Nat
  nib : Nat
  deriving DecidableEq, Repr

/-- The shards of a dense tensor that a pier owns (R141, R326). -/
def Tens.ownShards (t : Tens) (p : PierId) : List Nat :=
  match t.own with
  | none => [0]
  | some o => (List.range o.ents.length).filter fun x => o.owner x == p

/-- The shards that a pier owns of a parameter: those of its blocks, or, without an owner table, the one shard at its home (R110,
R326, R358, R362). -/
def State.homeShards (s : State) (t : Tens) (p : PierId) : List Nat :=
  match (if t.kind == 0 then t.own else none) with
  | none => if s.memHome (t.base + t.tw) == some p then [0] else []
  | some _ => t.ownShards p

/-- The elements of a dense shard, in ascending element offset (R326). -/
def Tens.shardEls (t : Tens) (x : Nat) : List PEl :=
  let box := fun (lo0 n0 lo1 n1 : Nat) (bs : List (Nat × Nat)) => bs.flatMap fun b =>
    (List.range n1).flatMap fun y => (List.range n0).map fun z => (lo0 + z, lo1 + y, b.1, b.2)
  let at_ := fun (i0 i1 i2 i3 : Nat) => match t.own with
    | none => wrap64 (t.off01 i0 i1 + i2 * t.s2 + i3 * t.s3)
    | some o => wrap64 (t.off01 (i0 % o.b0) (i1 % o.b1))
  let ixs := match t.own with
    | none => box 0 t.e0 0 t.e1 ((List.range t.e3).flatMap fun i3 => (List.range t.e2).map fun i2 => (i2, i3))
    | some o =>
      let lo0 := x % o.n0 * o.b0
      let lo1 := x / o.n0 % o.n1 * o.b1
      let b := x / (o.n0 * o.n1)
      box lo0 (min o.b0 (t.e0 - lo0)) lo1 (min o.b1 (t.e1 - lo1)) [(b % t.e2, b / t.e2)]
  let els := ixs.map fun (i0, i1, i2, i3) =>
    let (r, c) := if t.swapped then (i0, i1) else (i1, i0)
    (⟨x, 0, r, c, i2, i3, at_ i0 i1 i2 i3, 0⟩ : PEl)
  let els := sortBy (fun x y => x.off < y.off) els
  (List.range els.length).filterMap fun n => (els[n]?).map fun (y : PEl) => { y with j := n }

/-- The elements of a block-list parameter, by its accepted row list (R326, R352). -/
def blockEls (bs : List Blk) : List PEl :=
  bs.flatMap fun b => (List.range 256).map fun o =>
    ⟨0, 256 * (0x1_0000 * b.r + b.k) + o, 0, 0, 0, 0, 256 * b.v + o, 0⟩

/-- The elements of a 2-of-4 parameter, in ascending value slot (R326). -/
def Tens.slotEls (t : Tens) : List PEl :=
  let all := (List.range t.e3).flatMap fun i3 => (List.range t.e2).flatMap fun i2 => (List.range t.e1).flatMap fun i1 =>
    (List.range (cdiv t.e0 4)).flatMap fun q =>
      let row := wrap64 (i1 * t.s1 + i2 * t.s2 + i3 * t.s3)
      [0, 1].map fun v =>
        let off := wrap64 (2 * q + v + row)
        (⟨0, off, 0, 0, 0, 0, off, wrap64 (q + row / 2)⟩ : PEl)
  sortBy (fun x y => x.off < y.off) all

/-- The elements of a pier's share, and the scan of a block list. -/
def State.paramEls (s : State) (p : PierId) (t : Tens) : List PEl × Scan :=
  let none4 : Scan := ⟨[], 0, 0, .none⟩
  if t.kind == 4 then
    let sc := s.scan ⟨p, none, false⟩ t false t.br t.bc
    (blockEls sc.blocks, sc)
  else if t.kind == 5 then (t.slotEls, none4)
  else ((t.ownShards p).flatMap t.shardEls, none4)

/-- Where a tensor holds the element that belongs to a parameter element (R331). -/
def Tens.elLoc (t : Tens) (kind : Nat) (p : PierId) (x : PEl) : Option Loc :=
  if kind == 0 then
    let t := if t.sparse then t.rowMajor else t
    let (i0, i1) := t.idx x.r x.c
    t.loc p i0 i1 x.i2 x.i3
  else some (locAt t.form (t.base + t.tw) x.off none)

/-- Where a pier writes that element: the owner's copy alone (R142). -/
def Tens.elLocW (t : Tens) (kind : Nat) (p : PierId) (x : PEl) : Option Loc :=
  if kind == 0 then
    let t := if t.sparse then t.rowMajor else t
    let (i0, i1) := t.idx x.r x.c
    t.locW p i0 i1 x.i2 x.i3
  else t.elLoc kind p x

/-- Whether a tensor's extents hold the element at a dense parameter element's place (R133). -/
def Tens.elIn (t : Tens) (kind : Nat) (x : PEl) : Bool :=
  kind != 0 || (x.r < t.rows && x.c < t.cols && x.i2 < t.e2 && x.i3 < t.e3)

/-- The code and error-term code of that element. -/
def State.elCode (s : State) (v : View) (kind : Nat) (t : Tens) (x : PEl) : Nat × Nat :=
  s.elem v t (t.elLoc kind v.p x)

/-- That element as a trowel reads it, in fp32 (R160, R334, R336): `full` takes a g8 element with its error term. -/
def State.elVal (s : State) (v : View) (fl : Bool) (kind : Nat) (t : Tens) (full : Bool) (x : PEl) : FV :=
  if t.fmt ≥ 9 || !t.elIn kind x then .zero
  else
    let c := s.elCode v kind t x
    toF32 fl ((t.wp fl).read t (if full then c else (c.1, 0)))

/-! ## Programs (R332 to R337) -/

/-- Address of a program slot. -/
def PierCfg.slotAt (c : PierCfg) (slot : Nat) : Nat := 65536 * fld c.progBase.toNat 51 16 + 256 * slot

/-- The micro-ops of a slot. -/
def State.slotOps (s : State) (p : PierId) (slot : Nat) : List Nat :=
  (List.range 48).map fun i => s.rawWord ((s.pier p).cfg.slotAt slot + 64 + 4 * i) 4

/-- Whether a micro-op other than END is one that a valid program may hold (R334, R335). -/
def microOk (w : Nat) : Bool :=
  let op := w % 64
  let store := op == 0x18 || op == 0x19
  ((1 ≤ op && op ≤ 3) || (8 ≤ op && op ≤ 0x12) || store) &&
  !((op == 3 || op == 0x19) && fld w 26 25 == 3) && !(store && fld w 28 27 == 3)

/-- Whether a slot is valid: an END, and before it no reserved code (R335). -/
def slotValid : List Nat → Bool
  | [] => false
  | w :: ws => w % 64 == 0 || (microOk w && slotValid ws)

/-- The valid slots of a pier's program table, one bit each, as checked at load (R335). -/
def State.progMask (s : State) (p : PierId) : Nat :=
  (List.range 256).foldl (fun m i => if slotValid (s.slotOps p i) then m + 2 ^ i else m) 0

/-- The constants of a slot's hyperparameter block (R332), and the block's first absent address (R564). -/
def State.hyper (s : State) (p : PierId) (slot : Nat) : List Nat × Option Nat :=
  let a := fld (s.rawWord ((s.pier p).cfg.slotAt slot) 8) 51 6 * 64
  if a == 0 then (List.replicate 16 0, none)
  else ((List.range 16).map fun i => s.rawWord (a + 4 * i) 4, s.missingIn a 64)

/-- An UPDATE's operands as a share uses them: parameter in the buffers read and written, gradient, accumulator to add,
bound states in both buffers, constants, micro-ops, and the gradient's fp32 code where a deferral-queue entry holds it. -/
structure Upd where
  kind : Nat
  fl : Bool
  P : Tens
  Pn : Tens
  G : Tens
  g8q : Bool
  A : Option Tens
  S : List (Option Tens)
  Sn : List (Option Tens)
  k : List Nat
  ops : List Nat
  gv : Option Nat
  deriving DecidableEq, Repr

/-- A lane at work on an element: registers, codes stored, values LDG returned, draws taken, flush. -/
structure Lane where
  f : List FV
  par : Option Nat
  sts : List (Option Nat)
  gs : List Val
  draws : Nat
  fl : Bool
  deriving DecidableEq, Repr

def Lane.start : Lane := ⟨List.replicate 16 .zero, none, [none, none, none], [], 0, false⟩

/-- The gradient element (R336). -/
def State.ldg (s : State) (v : View) (u : Upd) (x : PEl) : FV :=
  let g := match u.gv with
    | some c => ⟨FpSpec.s32.decode c, false⟩
    | none => s.elVal v u.fl u.kind u.G (!u.g8q) x
  match u.A with
  | some a => (⟨false, u.fl⟩ : Wp).add g (s.elVal v u.fl u.kind a true x)
  | none => g

/-- A store's code (R337): y × rd, rounded once; a g8 target takes q alone. -/
def storeCode (t : Tens) (r : Rnd) (fl : Bool) (y : Val) : Conv :=
  convert (if t.form == .g8 then .fp8b else t.form) r fl (y.mul t.rd)

/-- The sign of a value (R334). -/
def signOf (x : Val) : Val :=
  match x with
  | .nan => .nan
  | .inf s => .fin s 1 0
  | .fin s m _ => if m == 0 then .zero else .fin s 1 0

/-- An arithmetic micro-op's result (R334); an operand that was flushed as it was read marks it even where it is not chosen (R166). -/
def aluOp (w : Wp) (op : Nat) (a b c : FV) : FV :=
  match op with
  | 0x08 => w.add a b
  | 0x09 => w.sub a b
  | 0x0A => w.mul a b
  | 0x0B => w.fma a b c
  | 0x0C => w.div a b
  | 0x0D => w.sqrt a
  | 0x0E => w.rnd a.v.abs a.fl
  | 0x0F => w.rnd (signOf a.v) a.fl
  | 0x10 => { (if beats false a.v b.v then b else a) with fl := a.fl || b.fl }
  | 0x11 => { (if beats true a.v b.v then b else a) with fl := a.fl || b.fl }
  | _ => { (if Val.lt .zero a.v && !a.v.isZero then b else c) with fl := a.fl || b.fl || c.fl }

/-- The rounding of a store; a draw for a format that is no float rounds to nearest-even (R176, R337). -/
def storeRnd (t : Tens) (rnd d : Nat) : Rnd :=
  if rnd == 1 then .zero
  else if rnd == 2 && (t.form.spec.isSome || t.form == .g8) then .stoch d
  else .even

/-- One micro-op on an element (R334, R337); `draw n` is the lane's n-th draw from where the element began. -/
def State.micro (s : State) (v : View) (u : Upd) (draw : Nat → Nat) (x : PEl) (w : Nat) (l : Lane) : Lane :=
  let wp : Wp := ⟨false, u.fl⟩
  let op := w % 64
  let dst := fld w 9 6
  let reg := fun n => if n < 16 then l.f.getD n .zero else wp.const (u.k.getD (n - 16) 0)
  let a := reg (fld w 14 10)
  let ix := fld w 26 25
  let rnd := fld w 28 27
  let ld := fun (y : FV) => { l with f := l.f.set dst y, fl := l.fl || y.fl }
  let took := b2n (rnd == 2)
  let st := fun (t : Tens) => storeCode t (storeRnd t rnd (draw l.draws)) u.fl a.v
  if op == 1 then ld (s.elVal v u.fl u.kind u.P true x)
  else if op == 2 then
    let g := s.ldg v u x
    { ld g with gs := l.gs ++ [g.v] }
  else if op == 3 then
    ld (match u.S.getD ix none with | some t => s.elVal v u.fl u.kind t true x | none => .zero)
  else if op == 0x18 then
    let c := st u.Pn
    { l with par := some c.code, draws := l.draws + took, fl := l.fl || a.fl || c.flushed }
  else if op == 0x19 then
    match u.Sn.getD ix none with
    | some t =>
      let c := st t
      { l with sts := l.sts.set ix (some c.code), draws := l.draws + took, fl := l.fl || a.fl || c.flushed }
    | none => { l with draws := l.draws + took }
  else if 8 ≤ op && op ≤ 0x12 then ld (aluOp wp op a (reg (fld w 19 15)) (reg (fld w 24 20)))
  else l

/-- A program on an element, up to its first END (R334). -/
def State.runOps (s : State) (v : View) (u : Upd) (draw : Nat → Nat) (x : PEl) : List Nat → Lane → Lane
  | [], l => l
  | w :: ws, l => if w % 64 == 0 then l else s.runOps v u draw x ws (s.micro v u draw x w l)

/-! ## A share -/

/-- An element with its place among the trowels: trowel, element number in that trowel's share (R324, R326). -/
structure Placed where
  el : PEl
  unit : Nat
  n : Nat
  deriving DecidableEq, Repr

/-- The logical channel of a pier offset (R383). -/
def chanOf (off : Nat) : Nat := (off % 1024 / 64 + 2 * (off / 1024)) % 6

/-- The trowel of an element: the logical channel of its address in the buffer read, 6 where it has none here (R324). -/
def State.trowelOf (s : State) (p : PierId) (u : Tens) (kind : Nat) (x : PEl) : Nat :=
  match u.elLoc kind p x with
  | some l => (match s.place l.addr with
      | .gddr h off => if h == p then chanOf off else 6
      | _ => 6)
  | none => 6

/-- Elements numbered within their trowels. -/
def placeEls (els : List (PEl × Nat)) : List Placed :=
  (els.foldl (fun (acc : List Placed × Table) x =>
    (acc.1 ++ [⟨x.1, x.2, acc.2.get x.2⟩], acc.2.set x.2 (acc.2.get x.2 + 1))) ([], [])).1

/-- What a program left for an element: its lane, codes for the buffer written, squares for the norms. -/
structure ElOut where
  at_ : Placed
  code : Nat
  err : Nat
  states : List (Option (Nat × Nat))
  w : Val
  g : List Val
  u : Option Val
  clear : Bool
  fl : Bool
  deriving DecidableEq, Repr

/-- The decoded and scaled value of a parameter code (R346). -/
def Tens.scaled (t : Tens) (fl : Bool) (c : Nat × Nat) : Val :=
  if t.fmt ≥ 9 then .zero else (f32 t.scale).mul (vecVal t.form fl c).v

/-- A program run on one element, with the draws it takes (R337 to R339 step 6). `seed`, `unitId`, `epoch`: R338; `from_`: where its
draws are counted. -/
def State.runEl (s : State) (v : View) (u : Upd) (seed unitId epoch from_ : Nat) (x : Placed) (dr : Table) : ElOut × Table :=
  let key := from_ + 128 * x.unit + x.n % 128
  let st := reseed seed unitId (x.n % 128) epoch
  let l := s.runOps v u (fun n => drawAt st (dr.get key + n)) x.el u.ops .start
  let old := s.elCode v u.kind u.P x.el
  let code := l.par.getD old.1
  let states := (List.range 3).map fun i => match u.S.getD i none with
    | some t =>
      let o := s.elCode v u.kind t x.el
      some ((l.sts.getD i none).getD o.1, o.2)
    | none => none
  let new := u.P.scaled u.fl (code, old.2)
  ({ at_ := x, code := code, err := old.2, states := states, w := new, g := l.gs
     u := if l.par.isSome then some (new.add (u.P.scaled u.fl old).neg) else none
     clear := !l.gs.isEmpty && u.G.form == .g8 && !u.g8q, fl := l.fl },
   dr.set key (dr.get key + l.draws))

/-- The writes that an element's outcome makes (R337, R339 step 6). -/
def Upd.writes (u : Upd) (p : PierId) (o : ElOut) : List Wr :=
  let x := o.at_.el
  let own := if u.Pn.fmt ≥ 10 || !u.Pn.elIn u.kind x then [] else [(⟨0, u.Pn.elLocW u.kind p x, o.code, o.err⟩ : Wr)]
  let sts := (List.range 3).filterMap fun i => match u.Sn.getD i none, o.states.getD i none with
    | some t, some c => if t.fmt ≥ 10 || !t.elIn u.kind x then none else some (⟨0, t.elLocW u.kind p x, c.1, c.2⟩ : Wr)
    | _, _ => none
  let clr := if !o.clear || !u.G.elIn u.kind x then [] else match u.G.elLocW u.kind p x with
    | some ⟨_, _, _, some c⟩ => [(⟨0, some ⟨c, 0, 2, none⟩, 0, 0⟩ : Wr)]
    | _ => []
  own ++ sts ++ clr

/-- Squares summed by lane in element order, lanes in ascending order, trowels in ascending order (R346). -/
def laneSum (f : ElOut → List Val) (os : List ElOut) : Val :=
  let lanes := os.foldl (fun (l : List (Nat × Val)) o =>
    let key := 128 * o.at_.unit + o.at_.n % 128
    keyed l key ((f o).foldl (fun a x => add64 a (x.mul x)) (lossOf l key))) []
  let lanes := sortBy (fun (x y : Nat × Val) => x.1 < y.1) lanes
  let trowels := (List.range 8).map fun t =>
    (lanes.filter fun l => l.1 / 128 == t).foldl (fun a l => add64 a l.2) Val.zero
  trowels.foldl add64 Val.zero

/-- A trowel's write carries no gradient packet's tensor id (R340): this number is no tensor id. -/
def noTensor : Nat := 2 ^ 20

/-! ## Fingerprints (R352, R353) -/

/-- The term's code of an element (R352): with its error term for g8, with its position code, 0 where there is no code area
(R149), for 2-of-4. -/
def State.fpCode (s : State) (v : View) (t : Tens) (x : PEl) (c : Nat × Nat) : Nat :=
  let b := (s.viewByte v (wrap52 (t.auxT + x.nib / 2))).toNat
  let pos := if t.kind != 5 || t.aux == 0 then 0 else if x.nib % 2 == 0 then b % 16 else b / 16
  (if t.form == .g8 then c.1 + 256 * c.2 else c.1) + 2 ^ 32 * pos

/-- The sum of the terms of some elements with their codes (R352). -/
def fpSum (tid shard : Nat) (xs : List (Nat × Nat)) : Nat :=
  xs.foldl (fun f x => wrap64 (f + fpTerm (fpKey tid shard) x.1 x.2)) 0

/-- The fingerprint of pier p's copy of a shard, from memory (R352, R355). -/
def State.copyFp (s : State) (p : PierId) (t : Tens) (shard : Nat) : Nat :=
  let v : View := ⟨p, none, false⟩
  let els := if t.kind == 0 then t.shardEls shard else (s.paramEls p t).1
  fpSum t.tid shard (els.map fun x => (x.j, s.fpCode v t x (s.elCode v t.kind t x)))

/-- The local slot of a shard on a pier (R140, R353). -/
def Tens.lamOf (t : Tens) (p : PierId) (shard : Nat) : Nat :=
  match t.own with
  | some o => if t.kind == 0 then o.lam p shard else 0
  | none => 0

/-- The address of a fingerprint word: a pier's copy of a shard in the buffer of version v (R353). -/
def State.fpAt (s : State) (p : PierId) (t : Tens) (fpOff shard v : Nat) : Nat :=
  wrap52 (4096 * fld (s.pier p).cfg.fprintBase.toNat 51 12 + 16 * (fpOff + t.lamOf p shard) + (if t.single then 0 else 8 * (v % 2)))

/-- A fingerprint stored: where the buffers coincide, in both words. -/
def State.putFp (s : State) (p : PierId) (t : Tens) (fpOff shard v f : Nat) : State :=
  let w := leBytes 8 f
  s.putHome p .trowel (s.fpAt p t fpOff shard v) (if t.single then w ++ w else w)

/-! ## UPDATE on a pier's trowels -/

/-- A bound tensor of a parameter entry in the buffer for version v (R43, R331). -/
def State.boundTens (s : State) (ref v : Nat) : Option Tens :=
  if refOn ref then some { s.readTens ref v with guess := s.free } else none

/-- The states and the accumulator that a pier's entry of a tensor binds, read once by a header (R117, R331). -/
def State.readBound (s : State) (p : PierId) (tid v : Nat) : List (Option Tens) :=
  match s.pentry p tid with
  | some x => (x.refs ++ [x.acc]).map fun r => s.boundTens r v
  | none => []

/-- Where a parameter lies for a pier: the CXL port of its window, or none (R324, R348). -/
def Tens.slowPort (t : Tens) (p : PierId) : Option (Fin 8) :=
  let b := match t.own with
    | some o => if t.kind == 0 then o.parts.getD p.val 0 else t.base
    | none => t.base
  let a := wrap52 (b + t.tw)
  if 0x1000_0000_0000 ≤ a && a < 0x2000_0000_0000 then some (cxlOf ((a - 0x1000_0000_0000) / 0x200_0000_0000)) else none

/-- A stale accumulation is discarded: counted and recorded (R283, R339 step 3). -/
def State.dropPending (s : State) (e : Env) (x : PEntry) : State × PEntry :=
  let x := { x with pending := false }
  (((s.putRuntime e.p x).bumpPier e.p kStaleGrad 1).anomaly e kStaleGrad 1 0, x)

/-- The operands of an UPDATE (R331, R336, R339, R343). -/
def State.updOf (s : State) (e : Env) (d a : Tens) (x : Option PEntry) (k : List Nat) (ops : List Nat) : Upd :=
  let pend := match x with | some x => x.pending && x.accEpoch == e.epoch % 2 ^ 16 | none => false
  { kind := d.kind, fl := s.flushBit e.p 3, P := d, Pn := d.ver (e.policy + 1), G := a
    g8q := match x with | some x => x.g8Read | none => false
    A := if pend then e.bind 3 e.policy else none
    S := [0, 1, 2].map fun i => e.bind i e.policy
    Sn := [0, 1, 2].map fun i => e.bind i (e.policy + 1)
    k := k, ops := ops, gv := none }

/-- The accesses of a share's operands, and of the descriptors of its states and accumulator (R564). -/
def State.updMet (s : State) (p : PierId) (u : Upd) (els : List PEl) (m : Met) : Met :=
  let ts := [u.P, u.G] ++ u.A.toList ++ u.S.filterMap id
  let m := (u.A.toList ++ u.S.filterMap id).foldl (fun m t => m.meta t.missing) m
  els.foldl (fun m x => ts.foldl (fun m t => if t.fmt ≥ 9 || !t.elIn u.kind x then m else m.elem s p (t.elLoc u.kind p x)) m) m

/-- What a share leaves beside its figures, once its elements' outcomes are known (R339 step 6). -/
def State.updSettle (s : State) (e : Env) (u : Upd) (met : Met) (os : List ElOut) : Out :=
  let o := s.settle e .trowel false noTensor met (os.flatMap (u.writes e.p))
  { o with s := o.s.flushedIf e.p 3 (os.any (·.fl)) }

/-- The accumulation of an UPDATE with apply 0 (R339 step 4): one accumulator element's write. -/
def State.accWrite (s : State) (v : View) (u : Upd) (acc : Tens) (pend : Bool) (x : PEl) : Wr × Bool :=
  let g := s.ldg v { u with A := none } x
  let old := s.elVal v u.fl u.kind acc true x
  let y := if pend then old.v.add g.v else g.v
  let c := storeCode acc .even u.fl y
  (⟨0, acc.elLocW u.kind v.p x, c.code, (s.elCode v u.kind acc x).2⟩, g.fl || (pend && old.fl) || c.flushed)

/-- Sparse counts of a list that a share read (R256, R258). -/
def State.scanCount (s : State) (e : Env) (sc : Scan) : State :=
  (s.sparseCount e kBadRange sc.badRange).sparseCount e kBadOrder sc.badOrder

/-- Step 3 of R339: an accumulation of another epoch is discarded. -/
def State.updStale (s : State) (e : Env) (x : Option PEntry) : State × Option PEntry :=
  match x with
  | some y =>
    if y.pending && y.accEpoch != e.epoch % 2 ^ 16 then ((s.dropPending e y).1, some (s.dropPending e y).2) else (s, some y)
  | none => (s, none)

/-- The elements of a share by their trowels, and the accesses of those that no channel of this pier holds (R326, R373). -/
def State.updEls (s : State) (e : Env) (d : Tens) (met : Met) : List Placed × Met :=
  let all := (s.paramEls e.p d).1.map fun y => (y, s.trowelOf e.p d d.kind y)
  let far := all.filter fun y => y.2 == 6
  (placeEls (all.filter fun y => y.2 != 6), far.foldl (fun m y => m.elem s e.p (d.elLoc d.kind e.p y.1)) met)

/-- An UPDATE with apply 0 (R339 step 4): its gradients accumulated. It too reads its slot's hyperparameter block once (R332),
whose constants accumulation does not use. -/
def State.updateAccum (s : State) (e : Env) (mix : Bool) (d a : Tens) (x : Option PEntry) (sc : Scan) (els : List Placed) (met : Met)
    (fig : List SparseFig) : Out :=
  let v : View := ⟨e.p, none, false⟩
  let met := met.meta (s.hyper e.p (fld e.h.imm 7 0)).2
  match x with
  | none => { Out.of ((s.scanCount e sc).account e met) with sparse := fig }
  | some y =>
    match e.bind 3 e.policy with
    | none =>
      { Out.of (((s.scanCount e sc).bumpPier e.p kUpdNoentry 1).account e met) with sparse := fig }
    | some acc =>
      let a := a.guard mix e.p false (s.listCap e.p a) acc (s.listCap e.p acc)
      let u := s.updOf e d a (some y) [] []
      let met := s.updMet e.p { u with A := some acc } (els.map (·.el)) met
      let ws := (els.filter fun z => acc.fmt < 10 && acc.elIn u.kind z.el).map fun z => s.accWrite v u acc y.pending z.el
      let o := (s.scanCount e sc).settle e .trowel false noTensor met (ws.map (·.1))
      let st := o.s.flushedIf e.p 3 (ws.any (·.2))
      { o with
        s := st.putRuntime e.p { y with pending := true, accEpoch := e.epoch }, sparse := fig
        lines := joinLines o.lines (linesOf (y.at_ + 48) 16), marked := [a] }

/-- Draws of a pier's trowel lanes counted for one epoch: eight trowels of 128 lanes (R338, R417). -/
def trowelSpan : Nat := 1024
def reseedTrowel (dr : Table) (epoch : Nat) : Table := dr.filter fun x => x.1 / trowelSpan != epoch % 0x1_0000

/-- An UPDATE with apply 1 (R339 steps 5 and 6); its closing writes are left to APPLY_COMPLETE. -/
def State.updateApply (s : State) (e : Env) (d a : Tens) (x : Option PEntry) (sc : Scan) (els : List Placed) (met : Met)
    (fig : List SparseFig) : Out :=
  let p := e.p
  let v : View := ⟨p, none, false⟩
  let slot := fld e.h.imm 7 0
  let ok := bitAt (s.pier p).progOk slot
  let (k, km) := s.hyper p slot
  let u := s.updOf e d a x k (if ok then s.slotOps p slot else [])
  let met := s.updMet p u (els.map (·.el)) (met.meta km)
  let seed := (s.pier p).cfg.seedU.toNat
  let (os, dr) := els.foldl (fun (r : List ElOut × Table) y =>
    let q := s.runEl v u seed (0x8000 + p.val * 8 + y.unit) e.epoch (trowelSpan * (e.epoch % 0x1_0000)) y r.2
    (r.1 ++ [q.1], q.2)) ([], (s.pier p).trowelDraws)
  let shards := if d.kind == 0 then d.ownShards p else [0]
  let fps := shards.map fun n => (n, fpSum d.tid n ((os.filter fun o => o.at_.el.shard == n).map fun o =>
    (o.at_.el.j, s.fpCode v u.Pn o.at_.el (o.code, o.err))))
  let s := if ok then s else s.bumpPier p kUpdIdentity 1
  let o := ((s.bumpPier p kUpdApplied 1).scanCount e sc).updSettle e u met os
  let code := fun f => FpSpec.s64.encode (laneSum f os)
  let job : ApplyJob :=
    { q := e.q, d := d, tensor := d.tid, epoch := e.epoch, policy := e.policy
      wSq := code (fun o => [o.w]), gSq := code (·.g), uSq := code (fun o => o.u.toList), fps := fps
      seen := (met.absent.isSome, met.foreign.isSome) }
  { o with
    s := o.s.updPier p fun pr => { pr with trowelDraws := dr, applies := pr.applies ++ [job] }
    sparse := fig, jobs := 1, marked := [a] }

/-- The lines of an entry's runtime fields, where step 3 of R339 has cleared its pending bit. -/
def staleLines (x y : Option PEntry) : List Nat :=
  match x, y with
  | some x, some y => if x.pending && !y.pending then linesOf (x.at_ + 48) 16 else []
  | _, _ => []

/-- A pier's share of an UPDATE on its own trowels (R339 steps 1 to 6). -/
def State.updateFast (s : State) (e : Env) (mix : Bool) (d a : Tens) (meta_ : Met) : Out :=
  let p := e.p
  let x := s.pentry p d.tid
  let s := if x.isNone then s.bumpPier p kUpdNoentry 1 else s
  if (match x with | some y => !y.trained | none => false) then Out.of ((s.bumpPier p kUpdFrozen 1).account e meta_)
  else
    let r := s.updStale e x
    let again := match r.2 with
      | some y => y.valid && y.epoch == e.epoch % 2 ^ 16
      | none => false
    let apply := bitAt e.h.imm 8
    if apply && again then
      Out.of (((r.1.bumpPier p kUpdDouble 1).anomaly e kUpdDouble 1 0).account e meta_)
    else
      let sc := (r.1.paramEls p d).2
      let els := r.1.updEls e d (meta_.join sc.met)
      let fig := [sc.bad p d.tid].foldl addFig []
      let o := if apply then r.1.updateApply e d a r.2 sc els.1 els.2 fig else r.1.updateAccum e mix d a r.2 sc els.1 els.2 fig
      { o with lines := joinLines o.lines (staleLines x r.2) }

/-! ## The slow tier (R348, R349) -/

/-- Lists cut into groups of 256. -/
def cut256 {α : Type} : Nat → List α → List (List α)
  | 0, _ => []
  | n + 1, xs => if xs.isEmpty then [] else xs.take 256 :: cut256 n (xs.drop 256)

/-- The bytes of a deferral-queue entry (R349). -/
def DeferEntry.bytes (x : DeferEntry) : List Byte :=
  leBytes 8 (x.tensor + 2 ^ 20 * b2n x.apply + 2 ^ 21 * b2n x.last + 2 ^ 24 * x.program + 2 ^ 32 * (x.first % 2 ^ 32)) ++
  leBytes 8 (x.epoch % 2 ^ 16 + 2 ^ 16 * x.grads.length) ++ (x.hyper.take 12).flatMap (leBytes 4) ++
  padTo 1024 (x.grads.flatMap (leBytes 4))

/-- A quoin trowel's share of an UPDATE: its block-updates, waiting to be placed (R339 steps 1 and 2, R349). -/
def State.updateSlow (s : State) (e : Env) (d a : Tens) (meta_ : Met) (port : Fin 8) : Out :=
  let h := e.h
  let p := e.p
  let v : View := ⟨p, none, false⟩
  let slot := fld h.imm 7 0
  let x := s.pentry p d.tid
  let frozen := match x with | some y => !y.trained | none => false
  let s := if x.isNone then s.bumpPier p kUpdNoentry 1 else s
  if frozen then Out.of ((s.bumpPier p kUpdFrozen 1).account e meta_)
  else
    let (els, sc) := s.paramEls p d
    let u := { s.updOf e d a x [] [] with A := none }
    let met := (meta_.join sc.met)
    let met := els.foldl (fun m y => if a.fmt ≥ 9 then m else m.elem s p (a.elLoc d.kind p y)) met
    let (k, km) := s.hyper p slot
    let gs := els.map fun y => s.ldg v u y
    let fl := anyFl gs
    let groups := cut256 (els.length + 1) (gs.map fun g => FpSpec.s32.encode g.v)
    let ents := (List.range groups.length).map fun i =>
      (⟨d, a, port.val, d.tid, bitAt h.imm 8, i + 1 == groups.length, slot, 256 * i, e.epoch,
        e.policy, e.q, k.take 12, groups.getD i [], e.bound⟩ : DeferEntry)
    let s := ((s.trowelLines p met.lines).scanCount e sc).updQuoin (cxlQuoin port) fun q => { q with placing := q.placing ++ ents }
    { Out.of ((s.flushedIf p 3 fl).account e (met.meta km)) with
      err := met.bad, sparse := [sc.bad p d.tid].foldl addFig [], jobs := ents.length }

/-- A pier's share of an UPDATE. -/
def State.updateRun (s : State) (e : Env) (mix : Bool) : Out :=
  let d := e.tD
  let a := e.tA
  let w := d.ver (e.policy + 1)
  let a := if bitAt e.h.imm 8 then a.guard mix e.p false (s.listCap e.p a) w (s.listCap e.p w) else a
  let met := [d.missing, a.missing].foldl Met.meta Met.none
  match d.slowPort e.p with
  | some port => s.updateSlow e d a met port
  | none => s.updateFast e mix d a met

def State.updateShare (s : State) (e : Env) : Out := s.settled e.p (s.updateRun e)

/-! ## Norms (R347) -/

/-- Three sums joined to the norm entry of a layer. -/
def State.putNorm (s : State) (p : PierId) (layer epoch w g u : Nat) : State :=
  let r := (s.pier p).cfg.normBase.toNat
  if layer ≥ fld r 63 52 then s
  else
    let a := 4096 * fld r 51 12 + 32 * layer
    let same := fld (s.rawWord a 8) 15 0 == epoch % 2 ^ 16
    let n := if same then min 65535 (fld (s.rawWord a 8) 31 16 + 1) else 1
    let sum := fun o x => if same then addCode64 (s.rawWord (a + o) 8) x else x
    s.putHome p .trowel a (leBytes 2 epoch ++ leBytes 2 n ++ leBytes 4 0 ++ leBytes 8 (sum 8 w) ++ leBytes 8 (sum 16 g) ++
      leBytes 8 (sum 24 u))

end Sys2Proof.Machine
end

