-- ==== Sys2Proof/Machine/Chisel.lean ====
section
/-! DEFINITION. The chisel engines: TOPK (R212 to R216), PACK (R248), the finish pass (R240, R241), PRUNE and REGROW with
their mask rewrite (R259 to R290), and the order of chisel jobs (R218, R281). -/

namespace Sys2Proof.Machine

/-! ## TOPK -/

/-- Elements that a TOPK row ranks (R213). -/
def Tens.topL (t : Tens) : Nat := min t.valid 0x10_0000

/-- The positions of a row in rank order (R184, R214). -/
def rankRow (mn : Bool) (xs : List Val) : List Nat :=
  ((List.range xs.length).foldl (fun (l : List (Nat × Val)) j =>
    insertBy (fun new old => beats mn old.2 new.2) (j, xs.getD j .zero) l) []).map (·.1)

/-- The rows of a that a pier ranks, ascending: those whose row of d it owns (R110, R141, R212). -/
def Tens.topRows (a d : Tens) (p : PierId) : List (Nat × Nat × Nat) :=
  (List.range a.e3).flatMap fun i3 => (List.range a.e2).flatMap fun i2 => (List.range a.e1).filterMap fun i1 =>
    let mine := match d.own with
      | none => true
      | some o => o.owner (d.entry o 0 i1 i2 i3) == p
    if mine && i1 < d.e1 && i2 < d.e2 && i3 < d.e3 then some (i1, i2, i3) else none

/-- The walls of a pier whose engines rank a share's rows, a row numbered as R127 numbers d's (R212). -/
def Env.topWalls (e : Env) (a d : Tens) : List Nat :=
  (a.topRows d e.p).foldl (fun acc r =>
    let w := e.wall + d.rho r.1 r.2.1 r.2.2 % e.W
    if acc.contains w then acc else acc ++ [w]) []

/-- A pier's share of TOPK (R212 to R216). A d of a reserved format takes no result, and c its positions all the same (R149). -/
def State.topkRun (s : State) (e : Env) (mix : Bool) : Out :=
  let h := e.h
  let k := fld h.imm 8 0
  let mn := bitAt h.imm 9
  let a0 := e.tA
  let c := e.tC
  let d0 := e.tD
  let d := if d0.sparse then d0.rowMajor else d0
  let a := ((if a0.sparse then a0.rowMajor else a0).guard mix e.p true 0 d 0).guard mix e.p true 0 c.words 0
  let flush := s.flushBit e.p h.stream
  let w := a.wp flush
  let v : View := ⟨e.p, none, false⟩
  let met0 := [a0.missing, c.missing, d0.missing].foldl Met.meta Met.none
  let rows := a.topRows d e.p
  let s0 := s.vectorAnomalies e [a0] d0 (some c) ((e.topWalls a d).map (fun x => x * 12 + e.course)) false
  let L := a.topL
  let r := rows.foldl (fun (acc : List Wr × Met × Bool) r =>
    let (i1, i2, i3) := r
    let xs := (s.rowRead v w a i1 i2 i3 L).map (·.v)
    let fl := anyFl (s.rowRead v w a i1 i2 i3 L)
    let order := rankRow mn xs
    let els := (List.range d.e0).map fun j =>
      match (if j < k then order[j]? else none) with
      | some i => (j, s.rowCode v flush d d.rd j i1 i2 i3 (xs.getD i .zero), i)
      | none => (j, s.rowRaw v flush d j i1 i2 i3 (.inf (!mn)), 0xFFFF_FFFF)
    let out := if d.fmt ≥ 10 then [] else els
    let ws := out.map fun x => (⟨d.rho i1 i2 i3, d.locRow e.p x.1 i1 i2 i3, x.2.1.code, x.2.1.err⟩ : Wr)
    let cs := els.filterMap fun x =>
      if x.1 < c.e0 && i1 < c.e1 && i2 < c.e2 && i3 < c.e3 then
        some (⟨2 ^ 40 + d.rho i1 i2 i3, c.u32Loc e.p x.1 i1 i2 i3, x.2.2, 0⟩ : Wr) else none
    let met := out.foldl (fun m x => m.oldErr s e.p false (d.locRow e.p x.1 i1 i2 i3)) (s.rowMet e.p acc.2.1 a i1 i2 i3 L)
    (acc.1 ++ ws ++ cs, met, acc.2.2 || fl || out.any (fun x => x.2.1.fl)))
    ([], met0, false)
  let o := s0.settle e .mortar false d.tid r.2.1 r.1
  let s := o.s.flushedIf e.p h.stream r.2.2
  { o with s := s.bumpPier e.p kTopkTrunc (if a.valid > 0x10_0000 then rows.length else 0), marked := [a] }

def State.topkShare (s : State) (e : Env) : Out := s.settled e.p (s.topkRun e)

/-! ## PACK -/

/-- The 16 × 16 blocks of d over dimensions 0 and 1, dimension 0 fastest (R248). -/
def Tens.packBlocks (t : Tens) : List (Nat × Nat × Nat × Nat) :=
  (List.range t.e3).flatMap fun i3 => (List.range t.e2).flatMap fun i2 => (List.range (cdiv t.e1 16)).flatMap fun y =>
    (List.range (cdiv t.e0 16)).map fun x => (x, y, i2, i3)

/-- Where a sparse or dense source holds a logical element (R90, R227, R248); none: +0. -/
def State.packLoc (s : State) (v : View) (a : Tens) (bs : List Blk) (r c i2 i3 : Nat) : Option Loc :=
  let r := r % a.rows
  let c := c % a.cols
  if a.layout == 4 then (blockAt bs (r / 16) (c / 16)).map fun x => a.blockLoc x (16 * (r % 16) + c % 16)
  else
    let (i0, i1) := a.idx r c
    if a.layout == 5 then s.slot24 v a i0 i1 (i2 % a.e2) (i3 % a.e3) else a.loc v.p i0 i1 (i2 % a.e2) (i3 % a.e3)

/-- The product frame that PACK's writes use: its destination and form (R245). -/
def packFrame (a d : Tens) (dest : Dest) (target : Nat) : Prod :=
  { op := 11, a := a, b := a, c := d, hasC := false, d := d, dest := dest, drop := target == 2, accum := false, gate := false
    act := 0, maxmin := false, minimum := false, bBlocks := [], active := none, K := 0, G := 1, rate := 1, sab := .one
    rd := .one, S := 1, mode := 0 }

/-- One block of a PACK: its elements with x for ranking, which only the 2-of-4 form takes (R243, R244), and their codes (R161,
R248); and whether a value was flushed. -/
def State.packBlock (s : State) (e : Env) (v : View) (flush : Bool) (a : Tens) (bs : List Blk) (pr : Prod) (f : Val)
    (b : Nat × Nat × Nat × Nat) : List Drained × Bool :=
  let d := pr.d
  let (bx, by_, i2, i3) := b
  let ixs := (List.range (min 16 (d.e1 - 16 * by_))).flatMap fun y =>
    (List.range (min 16 (d.e0 - 16 * bx))).map fun x => (16 * bx + x, 16 * by_ + y)
  let cells := ixs.filterMap fun (i0, i1) =>
    let mine := match d.own with
      | none => true
      | some o => o.owner (d.entry o i0 i1 i2 i3) == e.p
    if !mine then none
    else
      let (r, c) := if d.swapped then (i0, i1) else (i1, i0)
      let raw := if a.count == 0 || a.fmt ≥ 10 then (0, 0) else
        match s.packLoc v a bs r c i2 i3 with
        | some l => s.elem v a (some l)
        | none => (0, 0)
      let q := if a.blank then FV.zero else vecVal a.form flush raw
      let x := if a.blank then FV.zero else (a.wp flush).rnd ((f32 a.scale).mul q.v) q.fl
      let eOld := if d.form == .g8 && pr.dest == .dense
        then (s.code ⟨e.p, none, false⟩ .g8 (d.loc e.p i0 i1 i2 i3)).2 else 0
      let o := if a.fmt == 9 && d.fmt == 9 then (⟨raw.1, 0, false, false⟩ : Coded)
        else encodeOut d.form .even flush false eOld (q.v.mul f)
      some ((⟨r, c, x.v, true⟩ : Cell), o, q.fl || (pr.drop && x.fl))
  let cs := cells.map (·.1)
  (cells.map fun x =>
    let kept := !pr.drop || keptCell d cs x.1
    ⟨x.1, kept, if kept then x.2.1 else zeroCode⟩, cells.any fun x => x.2.2 || x.2.1.fl)

/-- What PACK has done so far. -/
structure PackAcc where
  put : Put
  losses : List (Nat × Val)
  drops : Nat
  present : List (Nat × Nat)
  fl : Bool
  groups : List (Nat × Nat × Nat × Nat)
  wrote : List Wr
  deriving DecidableEq, Repr

/-- The accesses of a PACK's sources, and of the old error terms that a g8 d takes in (R173). -/
def State.packMet (s : State) (v : View) (a : Tens) (bs : List Blk) (pr : Prod) (ds : List Drained) (i2 i3 : Nat) (m : Met) :
    Met :=
  let m := if pr.dest != .dense || pr.d.fmt ≥ 10 then m else ds.foldl (fun m x =>
    let (i0, i1) := pr.d.idx x.cell.r x.cell.c
    m.oldErr s v.p false (pr.d.loc v.p i0 i1 i2 i3)) m
  if a.count == 0 || a.fmt ≥ 10 then m
  else ds.foldl (fun m x =>
    match s.packLoc v a bs x.cell.r x.cell.c i2 i3 with
    | some l => m.elem s v.p (some l)
    | none => if a.sparse then m else m.elem s v.p none) m

/-- The groups of a 2-of-4 source that a PACK's elements read, each once (R228). -/
def packGroups (a : Tens) (ds : List Drained) (i2 i3 : Nat) (acc : List (Nat × Nat × Nat × Nat)) :
    List (Nat × Nat × Nat × Nat) :=
  if a.layout != 5 || a.count == 0 || a.fmt ≥ 10 then acc
  else ds.foldl (fun acc x =>
    let (i0, i1) := a.idx (x.cell.r % a.rows) (x.cell.c % a.cols)
    let g := (i0 / 4, i1, i2 % a.e2, i3 % a.e3)
    if acc.contains g then acc else acc ++ [g]) acc

/-- A pier's share of PACK (R248). A d of a reserved format is computed and not written (R149). Of a block-list source it reads the
row-sorted list, as neither R231 nor R248 names one (DESIGN CHOICE; log 96). -/
def State.packRun (s : State) (e : Env) (mix : Bool) : Out :=
  let h := e.h
  let target := fld h.imm 1 0
  let a := e.tA
  let d0 := e.tD
  let flush := s.flushBit e.p h.stream
  let lists : View := ⟨e.p, none, false⟩
  let sc : Scan := if a.layout == 4 then s.scan lists a false a.br a.bc else ⟨[], 0, 0, .none⟩
  let dest : Dest := if target == 1 && d0.layout == 4 then .packBlocks
    else if target == 2 && d0.layout == 5 then .packGroups else .dense
  let d := if dest == .dense && d0.sparse then d0.rowMajor else d0
  let a := a.guard mix e.p false (s.listCap e.p a) d (if dest == .packBlocks then d.br * d.bc else 0)
  let pr := packFrame a d dest target
  let f := rne32 ((f32 a.scale).div (f32 d.scale))
  let blocks := d.packBlocks
  let coreOf := fun n => e.nthCore (n % e.cores)
  let cs := coursesOf ((List.range blocks.length).map coreOf)
  let met := ([a.missing, d0.missing].foldl Met.meta Met.none).join sc.met
  let badFmt := a.fmt ≥ 10 || (a.fmt == 9 && d.fmt != 9) || d.fmt ≥ 10
  let badLay := a.layout ≥ 6 || d0.layout ≥ 6 || (target == 1 && d0.layout != 4) || (target == 2 && d0.layout == 4)
  let s0 := if badFmt then s.courseAnomaly e.p false cs 1 else s
  let s0 := if badLay then s0.courseAnomaly e.p true cs 1 else s0
  let writes := d.fmt < 10
  let packs := writes && dest == .packBlocks && d.aux != 0 && !blocks.isEmpty
  let mapAt := d.auxT + 64 + 12 * s.capAt e.p d.auxT
  let acc0 : PackAcc := ⟨Put.start (s0.demandLines e.p met.lines) met, [], 0, [], false, [], []⟩
  let r := (List.range blocks.length).foldl (fun (acc : PackAcc) n =>
    match blocks[n]? with
    | none => acc
    | some b =>
      let core := coreOf n
      let v : View := ⟨e.p, some (48 + core), false⟩
      let (ds, fl) := s0.packBlock e v flush a sc.blocks pr f b
      let g : Region := ⟨0, 0, 0, 0, b.2.2.1, b.2.2.2⟩
      let dropped := ds.filter fun x => !x.kept && !x.cell.w.isZero
      let loss := dropped.foldl (fun l x => add64 l x.cell.w.abs) (lossOf acc.losses core)
      let present := if dest == .packBlocks then presentIn pr ds else []
      let met := s0.packMet v a sc.blocks pr ds b.2.2.1 b.2.2.2 (acc.put.met.on (.core core))
      let read := acc.put.s.demandLines e.p (met.lines.drop acc.put.met.lines.length)
      let ws := if writes then s0.tileWrites e pr g n ds present else []
      { put := ({ acc.put with s := read, met := met } : Put).run e .mortar false d.tid ws
        wrote := acc.wrote ++ ws
        losses := if pr.drop then keyed acc.losses core loss else acc.losses
        drops := acc.drops + dropped.length, present := acc.present ++ present, fl := acc.fl || fl
        groups := packGroups a ds b.2.2.1 b.2.2.2 acc.groups }) acc0
  let losses := sortBy (fun (x y : Nat × Val) => x.1 < y.1) r.losses
  let figA := { sc.bad e.p a.tid with malformed := s.malformedOf lists a r.groups }
  let fig := { SparseFig.empty e.p d.tid with
    drops := r.drops, loss := FpSpec.s64.encode (losses.foldl (fun x y => add64 x y.2) .zero) }
  let s := (r.put.close e).flushedIf e.p h.stream r.fl
  let s := s.noteRuns e r.put.met.fetched
  let s := if packs then s.putHome e.p .mortar mapAt (presenceOf d.br d.bc r.present) else s
  let s := (s.scanCount e sc).sparseCount e kMalformed figA.malformed
  let s := s.bumpPier e.p kDrops r.drops
  let s := if packs then s.addJob e.p e.q (.finish d (r.put.met.absent.isSome, r.put.met.foreign.isSome)) e.chisel else s
  { s := s.account e r.put.met, err := r.put.met.bad, lines := r.put.lines, stats := []
    sparse := [figA, fig].foldl addFig [], jobs := b2n packs, wrote := r.wrote, marked := [a] }

def State.packShare (s : State) (e : Env) : Out := s.settled e.p (s.packRun e)

/-! ## Block moves -/

/-- Bytes of one value block of a tensor. -/
def Tens.blockBytes (t : Tens) : Nat := if t.fmt ≥ 10 then 0 else 32 * t.form.bits

/-- Byte j of a run of elements that a poisoned line delivers: the format's NaN codes, or +0 (R386). -/
def Fmt.poisonByte (f : Fmt) (j : Nat) : Byte := byteAt (leBytes f.size f.poisonCode) (j % max 1 f.size)

/-- The n bytes from an address as a pier's engine reads them. -/
def State.homeBytes (s : State) (p : PierId) (a n : Nat) : List Byte :=
  (List.range n).map fun i => s.viewByte ⟨p, none, false⟩ (a + i)

/-- Value blocks moved or cleared: each destination rank with the source position, if any, each source as it stood in `s0` before the
moves began (R240, R276). -/
def State.moveBlocks (s s0 : State) (p : PierId) (t : Tens) (ms : List (Nat × Option Nat)) : State :=
  let n := t.blockBytes
  let base := t.base + t.tw
  let v : View := ⟨p, none, false⟩
  let new := ms.map fun m => (m.1, match m.2 with
    | some i => (List.range n).map fun j =>
      let at_ := base + i * n + j
      if s0.poisoned v at_ then t.form.poisonByte j else s0.viewByte v at_
    | none => List.replicate n 0)
  if n == 0 then s else new.foldl (fun s m => s.putHome p .mortar (base + m.1 * n) m.2) s

/-- The lines of a list area and of its first n value blocks. -/
def Tens.areaLines (t : Tens) (cap n : Nat) : List Nat :=
  linesOf t.auxT (64 + 12 * cap + mapBytes t.br t.bc) ++ linesOf (wrap52 (t.base + t.tw)) (n * t.blockBytes)

/-! ## The finish pass (R240, R241) -/

/-- The blocks whose presence bit is set, in ascending bit order. -/
def State.presentBlocks (s : State) (p : PierId) (t : Tens) : List (Nat × Nat) :=
  let mapAt := t.auxT + 64 + 12 * s.capAt p t.auxT
  let bytes := s.homeBytes p mapAt (mapBytes t.br t.bc)
  (List.range (t.br * t.bc)).filterMap fun n =>
    if bitAt (byteAt bytes (n / 8)).toNat (n % 8) then some (n / t.bc, n % t.bc) else none

/-- The accesses of n bytes line by line. -/
def Met.span (m : Met) (s : State) (p : PierId) (a n : Nat) : Met :=
  (linesOf a n).foldl (fun m l => m.touch s p l 1) m

/-- The same for bytes written: only absent and foreign places are met. -/
def Met.spanW (m : Met) (s : State) (p : PierId) (a n : Nat) : Met :=
  let w := Met.none.span s p a n
  { m with
    absent := if m.absent.isSome then m.absent else w.absent
    foreign := if m.foreign.isSome then m.foreign else w.foreign }

/-- The accesses of value blocks moved or cleared. -/
def State.moveMet (s : State) (p : PierId) (t : Tens) (ms : List (Nat × Option Nat)) (m : Met) : Met :=
  let n := t.blockBytes
  let base := t.base + t.tw
  ms.foldl (fun m x =>
    let m := match x.2 with
      | some i => m.span s p (base + i * n) n
      | none => m
    m.spanW s p (base + x.1 * n) n) m

/-- What the accesses of a later pass of a header add: of the absent and foreign ones at its pier a header counts and records one
each, so `seen` leaves out those that its share has met (R275, R372, R373). -/
def State.passAccount (s : State) (e : Env) (seen : Bool × Bool) (m : Met) : State :=
  s.account e { m with absent := if seen.1 then none else m.absent, foreign := if seen.2 then none else m.foreign }

/-- The finish pass on d in the buffer that its header wrote; blocks left out for capacity. -/
def State.finish (s : State) (p : PierId) (t : Tens) : State × Nat :=
  let cap := s.capAt p t.auxT
  let all := s.presentBlocks p t
  let keep := all.take cap
  let s := s.moveBlocks s p t ((List.range keep.length).map fun j =>
    (j, (keep[j]?).map fun b => b.1 * t.bc + b.2))
  let s := s.putLists p t.auxT cap keep
  (s.putCount p t.auxT keep.length, all.length - keep.length)

/-- The accesses of a finish pass: the presence map, the blocks it copies, the lists it writes (R240). -/
def State.finishMet (s : State) (p : PierId) (t : Tens) : Met :=
  let cap := s.capAt p t.auxT
  let keep := (s.presentBlocks p t).take cap
  let m := Met.none.span s p t.auxT (64 + 12 * cap + mapBytes t.br t.bc)
  s.moveMet p t ((List.range keep.length).map fun j => (j, (keep[j]?).map fun b => b.1 * t.bc + b.2)) { m with poison := [] }

/-! ## PRUNE and REGROW -/

/-- The score of a block of b (R265, R266). -/
def State.blockScore (s : State) (v : View) (w : Wp) (b : Tens) (bs : List Blk) (r k : Nat) : FV :=
  let w32 : Wp := ⟨false, w.flush⟩
  if b.blank then .zero
  else (List.range 256).foldl (fun (acc : FV) n =>
    let rr := 16 * r + n / 16
    let cc := 16 * k + n % 16
    if rr < b.rows && cc < b.cols then
      match s.packLoc v b bs rr cc 0 0 with
      | some l =>
        let x := w.read b (s.code v b.form (some l))
        w32.fma x x acc
      | none => acc
    else acc) .zero

/-- Blocks in rank order for maximum, equal scores by ascending key (R267); the list comes in ascending key. -/
def rankBlocks (bs : List ((Nat × Nat) × Val)) : List (Nat × Nat) :=
  (bs.foldl (fun (l : List ((Nat × Nat) × Val)) x => insertBy (fun new old => beats false old.2 new.2) x l) []).map (·.1)

/-- What PRUNE or REGROW chose: the new set in row-sorted order, blocks added, blocks left out for capacity, candidates
outside d's extents (R268 to R274). -/
structure Choice where
  keep : List (Nat × Nat)
  added : Nat
  excess : Nat
  outside : Nat
  fl : Bool
  deriving DecidableEq, Repr

/-- PRUNE's choice among the accepted blocks, given with their scores: a NaN score is kept, a NaN threshold keeps all (R269,
R270, R274). A subnormal threshold is flushed as the elements are, though R265 speaks of those alone (DESIGN CHOICE; log 96). -/
def pruneChoice (imm cap : Nat) (w : Wp) (bs : List ((Nat × Nat) × Val)) : Choice :=
  let v := fld imm 63 32
  let surv :=
    if bitAt imm 0 then
      let kept := (rankBlocks bs).take v
      (bs.map (·.1)).filter fun b => kept.contains b
    else
      let th := (w.const v).v
      (bs.filter fun b => b.2.isNan || th.isNan || !(b.2.lt th && !(b.2.isZero && th.isZero))).map (·.1)
  ⟨surv.take cap, 0, surv.length - cap, 0, false⟩

/-- REGROW's choice (R272 to R274). -/
def regrowChoice (count cap : Nat) (acc : List (Nat × Nat)) (cands : List ((Nat × Nat) × Val)) (outside : Nat) : Choice :=
  let kept := acc.take cap
  let chosen := (rankBlocks cands).take count
  let added := chosen.take (cap - kept.length)
  ⟨rowSorted (kept ++ added), added.length, (acc.length - kept.length) + (chosen.length - added.length), outside, false⟩

/-- The groups of a 2-of-4 b that the scores of some blocks read, each once (R228, R266). -/
def Tens.blockGroups (b : Tens) (bs : List (Nat × Nat)) : List (Nat × Nat × Nat × Nat) :=
  bs.foldl (fun acc y => (List.range 256).foldl (fun acc n =>
    let (i0, i1) := b.idx (16 * y.1 + n / 16) (16 * y.2 + n % 16)
    let g := (i0 / 4, i1, 0, 0)
    if i0 < b.e0 && i1 < b.e1 && !acc.contains g then acc ++ [g] else acc) acc) []

/-- A pier's share of PRUNE or REGROW: the choice made, the rewrite handed to the chisel engines (R59, R262, R268 to R274,
R283, R288, R289). -/
def State.maskShare (s : State) (e : Env) (prune : Bool) : Out :=
  let h := e.h
  let p := e.p
  let v : View := ⟨p, none, false⟩
  let d := (e.opd 0).ver (e.policy + 1)
  let b := (e.opd 2).ver (e.policy + 1)
  let meta_ := [d.missing, b.missing].foldl Met.meta Met.none
  if d.layout != 4 || d.aux == 0 then Out.of ((s.bumpPier p kNoop 1).account e meta_)
  else
    let x := s.pentry p d.tid
    let late := match x with
      | some y => y.pending
      | none => false
    let s := match x with
      | some y => if y.pending then (s.dropPending e y).1 else s
      | none => s
    let fl := s.flushBit p 3
    let w := b.wp fl
    let cap := s.capAt p d.auxT
    let sc := s.scan v d false d.br d.bc
    let sb : Scan := if b.layout == 4 then s.scan v b false b.br b.bc else ⟨[], 0, 0, .none⟩
    let same := b.layout == 4 && b.auxT == d.auxT && b.br == d.br && b.bc == d.bc && b.tid == d.tid
    let acc := sc.blocks.map fun y => (y.r, y.k)
    let score := fun (y : Nat × Nat) => (y, s.blockScore v w b sb.blocks y.1 y.2)
    let outside := sb.blocks.filter fun y => y.r ≥ d.br || y.k ≥ d.bc
    let cands := if prune then []
      else if b.layout == 4 then
        (sb.blocks.filter fun y => y.r < d.br && y.k < d.bc && !acc.contains (y.r, y.k)).map fun y => (y.r, y.k)
      else ((List.range d.br).flatMap fun r => (List.range d.bc).map fun k => (r, k)).filter fun y => !acc.contains y
    let scored := (if prune then acc else cands).map score
    let vals := scored.map fun y => (y.1, y.2.v)
    let ch := if prune then pruneChoice h.imm cap ⟨false, fl⟩ vals
      else regrowChoice (fld h.imm 63 32) cap acc vals outside.length
    let skipB := if same then 0 else sb.badRange + sb.badOrder
    let outB := if prune then 0 else outside.length
    let asked := if prune then acc else cands
    let malformed := if b.layout != 5 || b.blank then 0 else s.malformedOf v b (b.blockGroups asked)
    let figD := { sc.bad p d.tid with overflow := ch.excess }
    let figB := { SparseFig.empty p b.tid with badEntries := skipB + outB, malformed := malformed }
    let met := (meta_.join sc.met).join sb.met
    let met := asked.foldl (fun m y => if b.blank then m else
      (List.range 256).foldl (fun m n =>
        let rr := 16 * y.1 + n / 16
        let cc := 16 * y.2 + n % 16
        if rr < b.rows && cc < b.cols then
          match s.packLoc v b sb.blocks rr cc 0 0 with
          | some l => m.elem s p (some l)
          | none => if b.sparse then m else m.elem s p none
        else m) m) met
    let states := [0, 1, 2].filterMap fun i => e.bind i (e.policy + 1)
    let met := states.foldl (fun m t => m.meta t.missing) met
    let job : RewriteJob :=
      { d := d, policy := e.policy + 1, accepted := sc.blocks.map fun y => (entryOf (y.r, y.k), y.v)
        keep := ch.keep.map entryOf, prune := prune, states := states, opcode := h.opcode, tensor := d.tid
        seen := (met.absent.isSome, met.foreign.isSome) }
    let s := s.trowelLines p met.lines
    let s := s.sparseCount e kBadRange (sc.badRange + (if same then 0 else sb.badRange) + outB)
    let s := s.sparseCount e kBadOrder (sc.badOrder + (if same then 0 else sb.badOrder))
    let s := s.sparseCount e kMalformed malformed
    let s := s.sparseCount e kOverflow ch.excess
    let s := s.bumpPier p kDropped (if prune then acc.length - ch.keep.length else 0)
    let s := s.bumpPier p kAdded ch.added
    let s := s.flushedIf p 3 (scored.any fun y => y.2.fl)
    let s := s.addJob p e.q (.rewrite job) none
    let lines := match x with
      | some y => if late then linesOf (y.at_ + 48) 16 else []
      | none => []
    { Out.of (s.account e met) with err := met.bad, lines := lines, sparse := [figD, figB].foldl addFig [], jobs := 1 }

def State.pruneShare (s : State) (e : Env) : Out := s.maskShare e true
def State.regrowShare (s : State) (e : Env) : Out := s.maskShare e false

/-- The blocks a rewrite moves or clears, each new rank with its old position (R276). -/
def RewriteJob.moves (r : RewriteJob) : List (Nat × Option Nat) :=
  (List.range r.keep.length).filterMap fun j =>
    let old := (r.accepted.find? fun a => a.1 == r.keep.getD j 0).map (·.2)
    if old == some j then none else some (j, old)

/-- The accesses of a rewrite: the blocks of d and its states, the list area it writes (R275). -/
def State.rewriteMet (s : State) (p : PierId) (r : RewriteJob) : Met :=
  let cap := s.capAt p r.d.auxT
  let m := Met.none.span s p r.d.auxT (64 + 12 * cap + mapBytes r.d.br r.d.bc)
  (r.d :: r.states).foldl (fun m t => s.moveMet p t r.moves m) { m with poison := [] }

/-- The rewrite of a mask (R276 to R279): moves and cleared blocks in d and its states, lists, presence map, line 0 last; the
fingerprint of the buffer rewritten (R353). -/
def State.rewrite (s : State) (p : PierId) (r : RewriteJob) : State :=
  let d := r.d
  let keep := r.keep.map fun e => (e / 0x1_0000, e % 0x1_0000)
  let s' := (d :: r.states).foldl (fun s' t => s'.moveBlocks s p t r.moves) s
  let cap := s.capAt p d.auxT
  let s' := s'.putLists p d.auxT cap keep
  let s' := s'.putHome p .mortar (d.auxT + 64 + 12 * cap) (presenceOf d.br d.bc keep)
  let s' := s'.putCount p d.auxT keep.length
  let s' := s'.bumpPier p kRewrites 1
  match s'.pentry p r.tensor with
  | some x => s'.putFp p d x.fpOff 0 r.policy (s'.copyFp p d 0)
  | none => s'

/-! ## Chisel jobs (R218) -/

/-- A job's rank: G, F and B work, then mask rewrites. -/
def Job.rank (j : Job) : Nat := match j.body with
  | .rewrite _ => 3
  | _ => min j.q.stream.val 2

/-- Whether an engine takes a job bound to a wall: its own, or its partner's while that is out of service (R488, R490). -/
def Pier.serves (p : Pier) (wall w : Fin 4) : Bool := w == wall || (w.val == wall.val ^^^ 1 && bitAt p.chiselOut w.val)

/-- A job boundary at an engine (R218, R281): a TOPK row it has taken is done, a rewrite yields to higher-ranked work; of the waiting
jobs it takes the highest-ranked, the earliest ready among equals. A finish pass it has taken runs to its end. A job of all four
engines is taken whole by the first of them that is free for it, and the others go on with other jobs (DESIGN CHOICE; log 96). -/
def Pier.startJob (p : Pier) (wall : Fin 4) : Pier :=
  if bitAt p.chiselOut wall.val then p else
  match p.jobs.find? (fun j => j.taken == some wall) with
  | some ⟨_, .finish _ _, _, _, _⟩ => p
  | mine =>
    let row := match mine with
      | some ⟨_, .topk _, _, _, _⟩ => true
      | _ => false
    let p := if row then { p with jobs := p.jobs.filter fun j => j.taken != some wall } else p
    let wait := p.jobs.filter fun j => j.taken.isNone && (match j.wall with
      | none => true
      | some w => p.serves wall w)
    let best := wait.foldl (fun (b : Option Job) j => match b with
      | none => some j
      | some k => if j.rank < k.rank || (j.rank == k.rank && j.order < k.order) then some j else some k) none
    match best with
    | none => p
    | some b =>
      if !row && mine.isSome && b.rank ≥ 3 then p
      else { p with jobs := p.jobs.map fun j =>
        if j.order == b.order then { j with taken := some wall }
        else if j.taken == some wall then { j with taken := none }
        else j }

/-- CHISEL_JOB_START (R218), at a pier that runs (R34). -/
def execChiselJobStart (p : PierId) (wall : Fin 4) (s : State) : Host.Outcome State Fault Refusal :=
  .next (if s.runs p then s.updPier p (·.startJob wall) else s)

end Sys2Proof.Machine
end

