-- ==== Sys2Proof/Machine/Queues.lean ====
section
/-! DEFINITION. The stream queues (R24, R38, R82): their depths, heads and changes. -/

namespace Sys2Proof

open Machine

/-- Entries a queue holds: core and course 8, wall 16, pier 32, module 64; the U queue of a pier 32 (R24, R25, R82). -/
def QKey.depth (q : QKey) : Nat :=
  match unitLevel q.unit.toNat with
  | 0 | 1 => 8
  | 2 => 16
  | 3 => 32
  | _ => 64

end Sys2Proof

namespace Sys2Proof.Machine

def State.queue (s : State) (q : QKey) : List QEntry :=
  match s.queues.find? (fun x => x.key == q) with
  | some x => x.entries
  | none => []

/-- The entry at the head of a queue. -/
def State.head (s : State) (q : QKey) : Option QEntry := (s.queue q).head?

/-- A queue's entries replaced; an empty queue is not listed. -/
def State.setQueue (s : State) (q : QKey) (es : List QEntry) : State :=
  let rest := s.queues.filter (fun x => x.key != q)
  if es.isEmpty then { s with queues := rest }
  else if s.queues.any (fun x => x.key == q) then
    { s with queues := s.queues.map fun x => if x.key == q then { x with entries := es } else x }
  else { s with queues := s.queues ++ [⟨q, es⟩] }

/-- The head entry of a queue changed. -/
def State.updHead (s : State) (q : QKey) (f : QEntry → QEntry) : State :=
  match s.queue q with
  | [] => s
  | x :: xs => s.setQueue q (f x :: xs)

def State.popHead (s : State) (q : QKey) : State := s.setQueue q (s.queue q).tail

/-- A header as it enters its queue. -/
def QEntry.fresh (h : Header) (o : Origin) : QEntry :=
  ⟨h, o, .queued, false, 0, 0, 0, 0, [], [], [], [], none, [], [], [], [], []⟩

/-- One of a header's later passes has ended, with the lines it wrote and the figures it adds. -/
def State.jobDone (s : State) (q : QKey) (lines : List Nat) (figs : List SparseFig) : State :=
  s.updHead q fun x => { x with
    jobs := x.jobs - 1, lines := joinLines x.lines lines, sparse := figs.foldl addFig x.sparse }

/-- The head header of a queue, or one of zeros that names its unit, for records made after it has gone. -/
def State.headHdr (s : State) (q : QKey) (opcode : Nat) : Header :=
  match s.head q with
  | some x => x.hdr
  | none => ⟨BitVec.ofNat 64 (opcode + 2 ^ 16 * q.unit.toNat + 2 ^ 8 * q.stream.val), 0, 0, 0, 0, 0, 0, 0⟩

end Sys2Proof.Machine
end

