-- ==== Sys2Proof/Machine/Replicas.lean ====
section
/-! DEFINITION. What follows an apply (R261, R339 step 7, R347, R353, R354), copies that differ (R355 to R357), the draining of
the deferral queue (R350, R351), and the ends of chisel jobs (R240, R276). -/

namespace Sys2Proof.Machine

/-! ## Replicas -/

/-- The piers other than its owner that hold a shard (R139). -/
def Tens.replicas (t : Tens) (shard : Nat) : List PierId :=
  match t.own with
  | some o => if t.kind == 0 then allPiers.filter fun p => p != o.owner shard && o.holds p shard else []
  | none => []

/-- The pier that owns a shard; `p` where there is no owner table. -/
def Tens.ownerOf (t : Tens) (p : PierId) (shard : Nat) : PierId :=
  match t.own with
  | some o => if t.kind == 0 then o.owner shard else p
  | none => p

/-- A shard's codes copied from one pier's part to another's (R354, R356): an absent or foreign place takes none. -/
def State.copyShard (s : State) (t : Tens) (shard : Nat) (src dst : PierId) : State :=
  (t.shardEls shard).foldl (fun s x =>
    match t.elLoc 0 dst x with
    | some l =>
      if s.reach dst l.addr == .ok then
        let c := s.code ⟨src, none, false⟩ t.form (t.elLoc 0 src x)
        s.putElem .trowel l c.1 c.2
      else s
    | none => s) s

/-- The packets that carry a shard's values: whole lines of 64 bytes (log 89). -/
def Tens.shardPackets (t : Tens) (shard : Nat) : Nat := cdiv ((t.shardEls shard).length * t.form.bits) 512

/-- A shard's values sent from one pier, read there, to another, which wakes for them (R22, R36, R354, R356, R435). -/
def State.sendShard (s : State) (t : Tens) (shard : Nat) (src dst : PierId) : State :=
  (((s.wakePier src).wakePier dst).sendPackets (pathEdges src dst) (t.shardPackets shard)).copyShard t shard src dst

/-- The first absent address that a shard's values sent to a pier would go to (R564). -/
def State.shardAbsent (s : State) (t : Tens) (shard : Nat) (dst : PierId) : Option Nat :=
  (t.shardEls shard).findSome? fun x => (t.elLoc 0 dst x).bind fun l => if (s.memHome l.addr).isNone then some l.addr else none

/-- The lines of a shard at a pier. -/
def Tens.shardLines (t : Tens) (shard : Nat) (p : PierId) : List Nat :=
  (t.shardEls shard).foldl (fun acc x => match t.elLoc 0 p x with
    | some l => joinLines acc (l.bytes.map fun b => lineOf b.1)
    | none => acc) []

/-- A stored fingerprint (R353). -/
def State.storedFp (s : State) (p : PierId) (t : Tens) (shard v : Nat) : Option Nat :=
  (s.pentry p t.tid).map fun x => s.rawWord (s.fpAt p t x.fpOff shard v) 8

/-- A fingerprint stored by a pier's own entry as another state has it, if it has one (R353; log 31). -/
def State.storeFpBy (s s0 : State) (p : PierId) (t : Tens) (shard v f : Nat) : State :=
  match s0.pentry p t.tid with
  | some x => s.putFp p t x.fpOff shard v f
  | none => s

/-- A fingerprint stored by a pier's own entry. -/
def State.storeFp (s : State) (p : PierId) (t : Tens) (shard v f : Nat) : State := s.storeFpBy s p t shard v f

/-- A record of copies that differ (R356, R497; log 31). -/
def State.replicaRecord (s : State) (p : PierId) (severity response tid shard : Nat) : State :=
  s.log { errorRecord 0x09 severity 5 response (pierUnit p) s.tick with die := p.val, detail0 := tid, detail1 := shard }

/-- The first element's address of a pier's copy of a shard, for the region that is sounded. -/
def Tens.shardAddr (t : Tens) (p : PierId) (shard : Nat) : Nat :=
  match (t.shardEls shard).head? with
  | some x => (match t.elLoc 0 p x with | some l => l.addr | none => 0)
  | none => 0

/-- What the owner's sequencer does when copies of a shard differ (R356). `t`: the tensor in the buffer of version v. A copy in a CXL
window lies in no region that is sounded, and is overwritten at once (DEDUCED; log 31). The parameter entries are read before anything is
written. -/
def State.diverge (s : State) (p : PierId) (t : Tens) (shard v : Nat) : State :=
  let t := s.reown t
  let own := t.ownerOf p shard
  let stored := s.storedFp own t shard v
  let reps := t.replicas shard
  if stored == some (s.copyFp own t shard) then
    (reps.filter fun r => some (s.copyFp r t shard) != stored || s.storedFp r t shard v != stored).foldl (fun s' r =>
      let s' := (s'.sendShard t shard own r).storeFpBy s r t shard v (stored.getD 0)
      (s'.bumpPier own kReplicaRepair 1).replicaRecord own 2 13 t.tid shard) s
  else
    match reps.find? fun r => stored.isSome && some (s.copyFp r t shard) == stored && s.storedFp r t shard v == stored, t.own with
    | some r, some o =>
      let w := o.ents.getD shard 0
      let w := setFld w 2 0 r.val
      let w := setFld w (8 + r.val) (8 + r.val) 0
      let w := setFld w (8 + own.val) (8 + own.val) 1
      let s' := s.writeBytes .trowel (t.ownerAt + 128 + 2 * shard) (leBytes 2 w)
      let s' := match s.place (t.shardAddr own shard) with
        | .gddr h off =>
          let (ch, reg) := (s.pier h).regionOf off
          (s'.updPier own fun pr => { pr with repairing := pr.repairing ++ [(⟨t.tid, shard, some (SUnit.gddrRegion h ch reg)⟩ : Repair)] }).startSounding
            (.gddrRegion h ch reg) false
        | _ => (s'.sendShard t shard r own).storeFpBy s own t shard v (stored.getD 0)
      (s'.bumpPier own kOwnerMove 1).replicaRecord own 2 13 t.tid shard
    | _, _ => (s.bumpPier own kShardLost 1).replicaRecord own 4 0 t.tid shard

/-- A shard under repair overwritten from its new owner (R356). -/
def State.finishRepair (s : State) (p : PierId) (x : Repair) : State :=
  let s' := s.updPier p fun pr => { pr with repairing := pr.repairing.filter (· != x) }
  match (s.pier p).known.find? (fun k => k.1 == x.tensor) with
  | some k =>
    let v := (s.pier p).policy
    let t := (s.reown k.2).ver v
    let own := t.ownerOf p x.shard
    (s'.sendShard t x.shard own p).storeFp p t x.shard v ((s.storedFp own t x.shard v).getD 0)
  | none => s'

/-- The repairs that waited for a region's sounding: made once it has ended, or left for the spare swap that follows (R356). -/
def State.regionSounded (s : State) (p : PierId) (u : SUnit) (swap : Bool) : State :=
  let mine := (s.pier p).repairing.filter fun x => x.unit == some u
  if swap then s.updPier p fun pr => { pr with repairing := pr.repairing.map fun x => if x.unit == some u then { x with unit := none } else x }
  else mine.foldl (fun (s : State) x => s.finishRepair p x) s

/-- The repairs that waited for a spare swap, made once it is done (R356). -/
def State.swapDone (s : State) (p : PierId) : State :=
  ((s.pier p).repairing.filter fun x => x.unit.isNone).foldl (fun (s : State) x => s.finishRepair p x) s

/-- Where the u32 words of a CKPT's list lie, each on the pier that owns it (R362). -/
def Tens.listPlaces (a : Tens) (p : PierId) : List (Option Loc) :=
  (List.range a.e3).flatMap fun i3 => (List.range a.e2).flatMap fun i2 => (List.range a.e1).flatMap fun i1 =>
    (List.range a.e0).map fun i0 =>
      let q := match a.own with
        | some o => o.owner (a.entry o i0 i1 i2 i3)
        | none => p
      a.u32Loc q i0 i1 i2 i3

/-- The u32 words of a CKPT's list, read from any pier (R362). -/
def State.ckptList (s : State) (p : PierId) (a : Tens) : List Nat :=
  (a.listPlaces p).map fun l => match l with
    | some l => s.rawWord l.addr 4
    | none => 0

/-- The tensor ids that a U header works on at a pier, its operands d, a, b and c given (R345, R355, R357). -/
def State.uTids (s : State) (p : PierId) (h : Header) (ops : List Tens) : List Nat :=
  let d := ops.getD 0 .zero
  let a := ops.getD 1 .zero
  match h.opcode with
  | 0x0C | 0x0D | 0x0E => [d.tid]
  | 0x10 => (s.ckptList p (if a.sparse then a.rowMajor else a)).map fun w => fld w 19 0
  | 0x11 => [a.tid]
  | 0x12 => [a.tid, d.tid]
  | _ => []

/-- A header that has started and not completed. -/
def QEntry.busy (x : QEntry) : Bool := x.phase == .ready || x.phase == .table || x.phase == .ran || x.phase == .closing

/-- A U header on the parameter is in progress (R355). -/
def State.uBusy (s : State) (p : PierId) (tid : Nat) : Bool :=
  s.queues.any fun q => q.key.stream == 3 && (match q.entries.head? with
    | some x => x.busy && (s.uTids p x.hdr x.ops).contains tid
    | none => false)

/-- Whether the stored fingerprints of a shard's copies agree, as far as this copy's pier compares them: an owner's with each replica's, a
replica's with its owner's (R356); a copy without an entry stores none. -/
def State.storedAgree (s : State) (p : PierId) (t : Tens) (shard v : Nat) : Bool :=
  let own := t.ownerOf p shard
  (if p == own then t.replicas shard else [p]).all fun r =>
    (s.storedFp r t shard v).isNone || (s.storedFp own t shard v).isNone || s.storedFp r t shard v == s.storedFp own t shard v

/-- FINGERPRINT_RECHECK (R355): a copy of a trained shard in the buffer for v, at a pier that runs (R34): its contents against what it
stores, and that against the other copies (R356). -/
def State.recheck (s : State) (p : PierId) (tid shard : Nat) : State :=
  match s.pentry p tid, (s.pier p).known.find? (fun k => k.1 == tid) with
  | some x, some k =>
    let v := (s.pier p).policy
    let t := (s.reown k.2).ver v
    let held := match t.own with
      | some o => if t.kind == 0 then shard < o.ents.length && o.holds p shard else shard == 0
      | none => shard == 0
    if !s.runs p || !x.trained || !held || s.uBusy p tid || (s.pier p).repairing.any (fun y => y.tensor == tid && y.shard == shard) then s
    else if s.storedFp p t shard v == some (s.copyFp p t shard) && s.storedAgree p t shard v then s
    else s.diverge p t shard v
  | _, _ => s

def execFingerprintRecheck (p : PierId) (tensor entry : Nat) (s : State) : Host.Outcome State Fault Refusal :=
  .next (s.recheck p (tensor % 2 ^ 20) entry)

/-! ## After an apply -/

/-- The whole list area copied from the buffer read to the buffer written (R261), and the lines written. -/
def State.copyList (s : State) (p : PierId) (d : Tens) (v : Nat) : State × List Nat :=
  if d.layout != 4 || d.twin == 0 || d.aux == 0 then (s, [])
  else
    let old := (d.ver v).auxT
    let new := (d.ver (v + 1)).auxT
    let n := 64 + 12 * s.capAt p old + mapBytes d.br d.bc
    (s.putHome p .trowel new (s.homeBytes p old n), linesOf new n)

/-- The new values of an owned shard sent to its replica piers, which wake for them (R22, R36, R354, R435). -/
def State.broadcast (s : State) (p : PierId) (t : Tens) (v : Nat) (d : Tens) (f : Nat × Nat) : State :=
  let s := (t.replicas f.1).foldl (fun s r =>
    let s := s.sendShard t f.1 p r
    let s := s.storeFp r t f.1 v (s.copyFp r t f.1)
    s.updPier r fun pr => { pr with known := (t.tid, d) :: pr.known.filter (fun k => k.1 != t.tid) }) s
  let bad := (t.replicas f.1).any fun r => s.copyFp r t f.1 != f.2
  if bad && (s.pentry p t.tid).isSome then s.diverge p t f.1 v else s

/-- The runtime fields, fingerprints and norms that an apply leaves at its pier (R329, R346, R347, R352). -/
def State.closeEntry (s : State) (p : PierId) (t : Tens) (j : ApplyJob) : State :=
  match s.pentry p j.tensor with
  | some x =>
    let s := s.putRuntime p { x with pending := false, epoch := j.epoch, valid := true, applies := x.applies + 1 }
    let s := j.fps.foldl (fun (s : State) (f : Nat × Nat) => s.putFp p t x.fpOff f.1 (j.policy + 1) f.2) s
    s.putNorm p x.layer j.epoch j.wSq j.gSq j.uSq
  | none => s

/-- The lines that the closing writes of an apply go to (R375): the copied list, runtime fields, fingerprints, norm entry, replicas. -/
def State.closeLines (s : State) (p : PierId) (t : Tens) (j : ApplyJob) (list : List Nat) : List Nat :=
  let ls := match s.pentry p j.tensor with
    | some x =>
      let r := (s.pier p).cfg.normBase.toNat
      linesOf (x.at_ + 48) 16 ++ j.fps.flatMap (fun f => linesOf (s.fpAt p t x.fpOff f.1 (j.policy + 1)) 8) ++
        (if x.layer ≥ fld r 63 52 then [] else linesOf (4096 * fld r 51 12 + 32 * x.layer) 32)
    | none => []
  joinLines (list ++ ls) (j.fps.flatMap fun f => (t.replicas f.1).flatMap fun r => t.shardLines f.1 r ++
    (match s.pentry r t.tid with
      | some x => linesOf (s.fpAt r t x.fpOff f.1 (j.policy + 1)) 8
      | none => []))

/-- What the closing writes of an apply meet: absent and foreign places of the list that is copied (R372, R373), absent ones of the
replicas (R564). -/
def State.closeMet (s : State) (p : PierId) (t : Tens) (j : ApplyJob) : Met :=
  let d := j.d
  let m := if d.layout != 4 || d.twin == 0 || d.aux == 0 then Met.none
    else
      let old := (d.ver j.policy).auxT
      let n := 64 + 12 * s.capAt p old + mapBytes d.br d.bc
      ((Met.none.span s p old n).spanW s p (d.ver (j.policy + 1)).auxT n)
  j.fps.foldl (fun m f => (t.replicas f.1).foldl (fun m r => m.meta (s.shardAbsent t f.1 r)) m) { m with poison := [] }

/-- The closing writes of an apply (R339 step 7). -/
def State.closeApply (s : State) (p : PierId) (j : ApplyJob) : State :=
  let d := j.d
  let t := d.ver (j.policy + 1)
  let met := s.closeMet p t j
  let r := s.copyList p d j.policy
  let lines := s.closeLines p t j r.2
  let e := envOf p j.q (s.headHdr j.q 0x0E) j.epoch j.policy []
  let s := (r.1.closeEntry p t j).updPier p fun pr =>
    { pr with known := (j.tensor, j.d) :: pr.known.filter (fun k => k.1 != j.tensor) }
  let s := j.fps.foldl (fun (s : State) f => s.broadcast p t (j.policy + 1) j.d f) s
  (s.passAccount e j.seen met).jobDone j.q lines []

/-- APPLY_COMPLETE (R339 step 7). -/
def execApplyComplete (p : PierId) (q : QKey) (s : State) : Host.Outcome State Fault Refusal :=
  match (s.pier p).applies.find? (fun j => j.q == q) with
  | some j => .next ((s.updPier p fun pr => { pr with applies := pr.applies.filter (fun k => k.q != q) }).closeApply p j)
  | none => .next s

/-! ## The deferral queue (R349 to R351) -/

/-- The oldest waiting block-update placed, if the queue has room (R349). -/
def State.placeEntry (s : State) (q : QuoinId) : State :=
  match (s.quoin q).placing with
  | [] => s
  | x :: xs =>
    if (s.quoin q).queue.length ≥ Config.deferCap then s
    else
      let at_ := 4096 * fld (s.quoin q).deferBase.toNat 51 12 + 1088 * ((s.quoin q).placed % 65536)
      let s := s.updQuoin q fun w => { w with placing := xs, queue := w.queue ++ [x], placed := w.placed + 1 }
      (s.putHome (cornerPier q) .trowel at_ x.bytes).jobDone x.stream (linesOf at_ 1088) []

def execDeferEntryPlace (quoin : QuoinId) (s : State) : Host.Outcome State Fault Refusal := .next (s.placeEntry quoin)

/-- The effects of the last entry of an apply that even a dropped entry has (R350, R351). -/
def State.shardDone (s : State) (p : PierId) (x : DeferEntry) : State :=
  match s.pentry p x.tensor with
  | some y =>
    let s := s.putRuntime p { y with shard := y.shard + 1 }
    if y.keyEn then s.sendKey (.pier p 4) y.key 0 1 .none else s
  | none => s

/-- Norm sums of a share by lane, with one entry's squares added (R346). -/
def addSums (t : Table) (os : List ElOut) : Table :=
  os.foldl (fun t o =>
    let add := fun (t : Table) (i : Nat) (xs : List Val) =>
      let key := o.at_.n % 128 * 3 + i
      t.set key (FpSpec.s64.encode (xs.foldl (fun a x => add64 a (x.mul x)) (FpSpec.s64.decode (t.get key))))
    add (add (add t 0 [o.w]) 1 o.g) 2 o.u.toList) t

/-- The sum over the lanes, ascending (R346). -/
def sumLanes (t : Table) (i : Nat) : Nat :=
  FpSpec.s64.encode ((List.range 128).foldl (fun a l => add64 a (FpSpec.s64.decode (t.get (3 * l + i)))) .zero)

/-- An entry with apply 0 (R350): its gradients accumulated in the window. -/
def State.drainAccum (s : State) (q : QuoinId) (e : Env) (x : DeferEntry) (d a : Tens) (y : Option PEntry) (els : List Placed) :
    State :=
  let p := cornerPier q
  let v : View := ⟨p, none, false⟩
  match y with
  | none => s
  | some y =>
    match e.bind 3 x.policy with
    | none => if x.first == 0 then s.bumpPier p kUpdNoentry 1 else s
    | some acc =>
      let u := { s.updOf e d a (some y) [] [] with Pn := d }
      let ws := (els.filter fun z => acc.fmt < 10 && acc.elIn u.kind z.el).map fun z =>
        s.accWrite v { u with gv := x.grads[z.n - x.first]? } acc (!(s.quoin q).fresh) z.el
      let o := s.settle e .quoin false noTensor .none (ws.map (·.1))
      (o.s.flushedIf p 3 (ws.any (·.2))).putRuntime p { y with pending := true, accEpoch := x.epoch }

/-- The last entry of an apply (R350): runtime fields, norms, fingerprints, the shard's count and its keystone. R350 names neither the
pending bit nor the count of applies here: the bit is cleared, since the accumulation has been consumed, and the count stays (DESIGN
CHOICE; log 96). -/
def State.drainLast (s : State) (q : QuoinId) (x : DeferEntry) (d : Tens) : State :=
  let p := cornerPier q
  match s.pentry p x.tensor with
  | some y =>
    let t := (s.quoin q).sums
    let s := s.putRuntime p { y with pending := false, epoch := x.epoch, valid := true }
    let s := s.putNorm p y.layer x.epoch (sumLanes t 0) (sumLanes t 1) (sumLanes t 2)
    let s := (if d.kind == 0 then d.ownShards p else [0]).foldl (fun (s : State) n => s.putFp p d y.fpOff n x.policy (s.copyFp p d n)) s
    let s := s.updPier p fun pr => { pr with known := (x.tensor, x.d) :: pr.known.filter (fun k => k.1 != x.tensor) }
    s.shardDone p x
  | none => s

/-- An entry with apply 1 (R350): its program run on its elements. -/
def State.drainApply (s : State) (q : QuoinId) (e : Env) (x : DeferEntry) (d a : Tens) (y : Option PEntry) (els : List Placed) :
    State :=
  let p := cornerPier q
  let v : View := ⟨p, none, false⟩
  let first := x.first == 0
  let ok := bitAt (s.pier p).progOk x.program
  let u := { s.updOf e d a y (x.hyper ++ [0, 0, 0, 0]) (if ok then s.slotOps p x.program else []) with Pn := d }
  let u := { u with Sn := u.S }
  let s := if first && !ok then s.bumpPier p kUpdIdentity 1 else s
  let s := if first then s.bumpPier p kUpdApplied 1 else s
  let seed := (s.pier p).cfg.seedU.toNat
  let r := els.foldl (fun (r : List ElOut × Table) z =>
    let o := s.runEl v { u with gv := x.grads[z.n - x.first]? } seed (0x9000 + x.port) (s.pier p).epoch 0 z r.2
    (r.1 ++ [o.1], o.2)) ([], (s.quoin q).draws)
  let met := s.updMet p u (els.map (·.el)) .none
  let s := (s.settle e .quoin false noTensor met (r.1.flatMap (u.writes p))).s
  let s := s.flushedIf p 3 (r.1.any (·.fl))
  let s := s.updQuoin q fun w => { w with draws := r.2, sums := addSums w.sums r.1 }
  if x.last then s.drainLast q x d else s

/-- One entry applied in place (R350): apply 0 accumulates; apply 1 runs the program. Its operands are those its header read, with
scales of the descriptors' present generations (R70, R117). -/
def State.drainEntry (s : State) (q : QuoinId) (x : DeferEntry) : State :=
  let p := cornerPier q
  let d := (s.rescale x.d).ver x.policy
  let a := (s.rescale x.a).ver x.policy
  let e := { envOf p x.stream (s.headHdr x.stream 0x0E) x.epoch x.policy [d, a] with bound := x.bound.map (·.map s.rescale) }
  let first := x.first == 0
  let y0 := s.pentry p x.tensor
  let r := match y0 with
    | some y => if first && y.pending && y.accEpoch != x.epoch % 2 ^ 16 then
        ((s.dropPending e y).1, some (s.dropPending e y).2) else (s, some y)
    | none => (s, none)
  let again := match r.2 with
    | some y => x.apply && first && y.valid && y.epoch == x.epoch % 2 ^ 16
    | none => false
  let s := if again then (r.1.bumpPier p kUpdDouble 1).anomaly e kUpdDouble 1 0 else r.1
  let pend := match r.2 with | some y => y.pending | none => false
  let s := if first then s.updQuoin q fun w => { w with discard := again, fresh := !pend, sums := [] } else s
  let els := (((s.paramEls p d).1.drop x.first).take x.grads.length)
  let els := (List.range els.length).filterMap fun i => (els[i]?).map fun z => (⟨z, x.port % 2, x.first + i⟩ : Placed)
  if !x.apply then s.drainAccum q e x d a r.2 els
  else if (s.quoin q).discard then
    (if x.last then s.updQuoin q fun w => { w with discard := false } else s)
  else s.drainApply q e x d a r.2 els

/-- Where the shard of an entry of a quoin's deferral queue starts in its window. -/
def DeferEntry.target (x : DeferEntry) (q : QuoinId) : Nat :=
  let d := x.d.ver x.policy
  d.tw + match d.own with
    | some o => if d.kind == 0 then o.parts.getD (cornerPier q).val 0 else d.base
    | none => d.base

/-- An entry dropped, since its window has departed (R351); `gone`: its share is being discarded, and has no effect on shard_version
and shard_key (R350). -/
def State.dropEntry (s : State) (q : QuoinId) (gone : Bool) (x : DeferEntry) : State :=
  let p := cornerPier q
  let e := envOf p x.stream (s.headHdr x.stream 0x0E) x.epoch x.policy [x.d, x.a]
  let s := (s.bump (trwReg q 0x20) 1).log
    { hdrRecord s p e.h 0x0C 4 with
      unitKind := 10, unit := 0xFFFF, address := wrap52 (x.target q), die := 8 + q.val, physical := x.port
      detail0 := (s.cxlPort (cxlOf x.port)).word }
  if x.last && x.apply && !gone then s.shardDone p x else s

/-- Entries dropped in order; the first of them may go on a share that is being discarded, up to its last entry. -/
def State.dropAll (s : State) (q : QuoinId) : Bool → List DeferEntry → State
  | _, [] => s
  | gone, x :: xs =>
    let now := gone && x.first != 0
    (s.dropEntry q now x).dropAll q (now && !x.last) xs

/-- The oldest entry of a quoin's deferral queue drained, or dropped where its window has gone (R350, R351); while both trowels are under
test no partner can (R488). -/
def State.drainDefer (s : State) (q : QuoinId) : State :=
  match (s.quoin q).queue with
  | [] => s
  | x :: xs =>
    if fld (s.quoin q).out 1 0 == 3 then s else
    let gone := (s.quoin q).discard && x.first != 0
    let s := s.updQuoin q fun w => { w with queue := xs }
    if s.place (x.target q) == .absent then
      (s.dropEntry q gone x).updQuoin q fun w => { w with discard := gone && !x.last }
    else s.drainEntry q x

/-- The entries of a queue for a port's window dropped, in order (R351, R392). -/
def State.dropEntries (s : State) (q : QuoinId) (port : Nat) : State :=
  let lost := (s.quoin q).queue.filter fun x => x.port == port
  let mine := ((s.quoin q).queue.head?).any fun x => x.port == port
  let gone := (s.quoin q).discard && mine
  let s := s.updQuoin q fun w => { w with
    queue := w.queue.filter fun x => x.port != port, discard := w.discard && !mine }
  s.dropAll q gone lost

def execDeferEntryDrain (quoin : QuoinId) (s : State) : Host.Outcome State Fault Refusal := .next (s.drainDefer quoin)

/-! ## Chisel jobs done -/

/-- A later pass of a header has ended: what its accesses add is accounted, a poisoned line among them fails the header (R386), and
its lines and figures are the header's. -/
def State.passDone (s : State) (e : Env) (seen : Bool × Bool) (met : Met) (lines : List Nat) (figs : List SparseFig) : State :=
  ((s.passAccount e seen met).jobDone e.q lines figs).updHead e.q fun y => if met.bad then { y with status := 1 } else y

/-- FINISH_PASS (R240, R241): the pass of a header at a pier, once an engine has taken it. -/
def State.finishPass (s : State) (p : PierId) (q : QKey) : State :=
  match (s.pier p).jobs.find? (fun j => j.q == q && j.taken.isSome && (match j.body with | .finish _ _ => true | _ => false)) with
  | some ⟨_, .finish t seen, _, n, _⟩ =>
    let cap := s.capAt p t.auxT
    let kept := min cap (s.presentBlocks p t).length
    let met := s.finishMet p t
    let r := s.finish p t
    let e := envOf p q (r.1.headHdr q 0) 0 0 []
    let s := r.1.sparseCount e kOverflow r.2
    let s := s.updPier p fun pr => { pr with jobs := pr.jobs.filter (fun j => j.order != n) }
    s.passDone e seen met (t.areaLines cap kept) [{ SparseFig.empty p t.tid with overflow := r.2 }]
  | _ => s

def execFinishPass (p : PierId) (q : QKey) (s : State) : Host.Outcome State Fault Refusal := .next (s.finishPass p q)

/-- MASK_REWRITE (R276): the rewrite of a header at a pier, once an engine has taken it. -/
def State.maskRewrite (s : State) (p : PierId) (q : QKey) : State :=
  match (s.pier p).jobs.find? (fun j => j.q == q && j.taken.isSome && (match j.body with | .rewrite _ => true | _ => false)) with
  | some ⟨_, .rewrite r, _, n, _⟩ =>
    let cap := s.capAt p r.d.auxT
    let met := s.rewriteMet p r
    let e := envOf p q (s.headHdr q r.opcode) 0 0 []
    let s := s.rewrite p r
    let s := s.updPier p fun pr => { pr with jobs := pr.jobs.filter (fun j => j.order != n) }
    let fp := match s.pentry p r.tensor with
      | some x => linesOf (s.fpAt p r.d x.fpOff 0 r.policy) 8
      | none => []
    let sts := r.states.flatMap fun t => linesOf (wrap52 (t.base + t.tw)) (r.keep.length * t.blockBytes)
    s.passDone e r.seen met (r.d.areaLines cap r.keep.length ++ sts ++ fp) []
  | _ => s

def execMaskRewrite (p : PierId) (q : QKey) (s : State) : Host.Outcome State Fault Refusal := .next (s.maskRewrite p q)

end Sys2Proof.Machine
end

