-- ==== Sys2Proof/Machine/Export.lean ====
section
/-! DEFINITION. Export records (R358 to R361) and fast checkpoints (R362 to R365). -/

namespace Sys2Proof.Machine

/-! ## Records -/

/-- Codes packed as a payload holds them: fp4 two to a byte with the low nibble first, others by their bytes (R360). -/
def packCodes (f : Fmt) (cs : List Nat) : List Byte :=
  if f == .fp4 then
    (List.range (cdiv cs.length 2)).map fun i => BitVec.ofNat 8 (cs.getD (2 * i) 0 % 16 + cs.getD (2 * i + 1) 0 % 16 * 16)
  else cs.flatMap (leBytes f.size)

/-- Padded with zeros to a multiple of 64 (R359). -/
def pad64 (bs : List Byte) : List Byte := padTo (cdiv bs.length 64 * 64) bs

/-- The elements of a dense shard with dimension 0 fastest (R360). -/
def Tens.shardOrder (t : Tens) (shard : Nat) : List PEl :=
  let i0 := fun (x : PEl) => (t.idx x.r x.c).1
  let i1 := fun (x : PEl) => (t.idx x.r x.c).2
  sortBy (fun x y => x.i3 < y.i3 || (x.i3 == y.i3 && (x.i2 < y.i2 || (x.i2 == y.i2 &&
    (i1 x < i1 y || (i1 x == i1 y && i0 x < i0 y)))))) (t.shardEls shard)

/-- A shard's origin and extents along dimensions 0 and 1 (R359). -/
def Tens.shardBox (t : Tens) (shard : Nat) : List Nat × Nat × Nat :=
  match t.own with
  | some o =>
    if t.kind != 0 then ([0, 0, 0, 0], t.e0, t.e1)
    else
      let lo0 := shard % o.n0 * o.b0
      let lo1 := shard / o.n0 % o.n1 * o.b1
      let b := shard / (o.n0 * o.n1)
      ([lo0, lo1, b % t.e2, b / t.e2], min o.b0 (t.e0 - lo0), min o.b1 (t.e1 - lo1))
  | none => ([0, 0, 0, 0], t.e0, t.e1)

/-- The 64-byte header of a record (R359). -/
def recordHeader (kind part fmt layout payload tid policy scale gen mv entry : Nat) (origin : List Nat) (x0 x1 fp : Nat) :
    List Byte :=
  leBytes 4 (kind + 2 ^ 8 * part + 2 ^ 12 * fmt + 2 ^ 16 * layout) ++ leBytes 4 payload ++ leBytes 4 tid ++ leBytes 4 policy ++
  leBytes 4 scale ++ leBytes 4 gen ++ leBytes 4 mv ++ leBytes 4 entry ++ (padTo 16 (origin.flatMap (leBytes 4))) ++
  leBytes 4 x0 ++ leBytes 4 x1 ++ leBytes 8 fp

/-- A record: its bytes and fingerprint, the shard's number, and the parameter whose values it holds where its part is 0 (R359). -/
structure ExpRec where
  bytes : List Byte
  fp : Nat
  shard : Nat
  tens : Option Tens
  deriving DecidableEq, Repr

/-- One part of one shard of a parameter t, as a record of tensor u (the parameter or a state) (R359, R360). A 2-of-4 part without a
code area has every code 0 (R149). The fingerprint of a state's record takes in no position codes, which are the parameter's (DESIGN
CHOICE; log 96). -/
def State.partRecord (s : State) (p : PierId) (t u : Tens) (part shard policy : Nat) : ExpRec :=
  let v : View := ⟨p, none, false⟩
  let k := t.kind
  let code := fun x => s.elCode v k u x
  let (els, blocks) := if k == 0 then (t.shardOrder shard, [])
    else if k == 4 then
      let sc := s.scan v t false t.br t.bc
      (blockEls sc.blocks, sc.blocks)
    else (t.slotEls, [])
  let nums := if k == 0 then t.shardEls shard else els
  let fp := fpSum t.tid shard (nums.map fun x => (x.j, s.fpCode v (if part == 0 then t else { u with layout := 0 }) x (code x)))
  let body :=
    if k == 4 then blocks.flatMap fun b =>
      leBytes 4 (0x1_0000 * b.r + b.k) ++ packCodes u.form ((blockEls [b]).map fun x => (code x).1)
    else
      let qs := packCodes u.form (els.map fun x => (code x).1)
      let es := if k == 0 && u.form == .g8 then els.flatMap fun x => leBytes 2 (code x).2 else []
      let pos := if k == 5 then
          packCodes .fp4 (((List.range (els.length / 2)).map fun i => (els.getD (2 * i) ⟨0, 0, 0, 0, 0, 0, 0, 0⟩).nib).map fun n =>
            let b := if t.aux == 0 then 0 else (s.viewByte v (wrap52 (t.auxT + n / 2))).toNat
            if n % 2 == 0 then b % 16 else b / 16)
        else []
      qs ++ es ++ pos
  let body := pad64 body
  let (origin, x0, x1) := t.shardBox shard
  let kind := if k == 4 then 2 else if k == 5 then 3 else 1
  let mv := if k == 4 && t.aux != 0 then s.rawWord (t.auxT + 8) 4 else 0
  ⟨recordHeader kind part u.fmt u.layout body.length t.tid policy u.scale u.gen mv shard origin x0 x1 fp ++ body, fp, shard,
    if part == 0 then some t else none⟩

/-- The records of a parameter's owned shards for a mask of parts: bit 0 the parameter, bits 1 to 3 its states (R358, R362). -/
def State.paramRecords (s : State) (p : PierId) (t : Tens) (policy mask : Nat) : List ExpRec :=
  let refs := match s.pentry p t.tid with | some x => x.refs | none => []
  (s.homeShards t p).flatMap fun n => (List.range 4).filterMap fun i =>
    if !bitAt mask i then none
    else if i == 0 then some (s.partRecord p t t 0 n policy)
    else (s.boundTens (refs.getD (i - 1) 0) policy).map fun u => s.partRecord p t u i n policy

/-- The accesses of those records: the parameter's elements and its states', with the states' descriptors (R372, R373, R564). -/
def State.recordMet (s : State) (p : PierId) (t : Tens) (policy mask : Nat) (m : Met) : Met :=
  let refs := match s.pentry p t.tid with | some x => x.refs | none => []
  let us := (List.range 4).filterMap fun i =>
    if !bitAt mask i then none else if i == 0 then some t else s.boundTens (refs.getD (i - 1) 0) policy
  let m := if bitAt mask 0 then us.tail.foldl (fun m u => m.meta u.missing) m else us.foldl (fun m u => m.meta u.missing) m
  if (s.homeShards t p).isEmpty then m
  else (s.paramEls p t).1.foldl (fun m x => us.foldl (fun m u =>
    if u.fmt ≥ 10 || !u.elIn t.kind x then m else m.elem s p (u.elLoc t.kind p x)) m) m

/-- The trailer: records written and not written, and the sum of the written fingerprints (R359, R361; log 32). -/
def trailer (tid policy written short fp : Nat) : List Byte :=
  recordHeader 0xFF 0 0 0 0 tid policy 0 0 written short [0, 0, 0, 0] 0 0 fp

/-- The records that fit a capacity with the trailer after them (R358, R361). -/
def fitting : Nat → List ExpRec → List ExpRec
  | _, [] => []
  | room, r :: rs => if r.bytes.length + 64 ≤ room then r :: fitting (room - r.bytes.length) rs else []

/-- The fingerprint of each record of a parameter's own values compared with the stored one; R356 acts where they differ (R361). -/
def State.checkRecords (s : State) (p : PierId) (v : Nat) (rs : List ExpRec) : State :=
  rs.foldl (fun st r => match r.tens with
    | some t => if (s.pentry p t.tid).isSome && s.storedFp p t r.shard v != some r.fp then st.diverge p t r.shard v else st
    | none => st) s

/-- What a share of EXPORT or CKPT has written before R356 acts: the state after, its records, the bytes that they take with their
trailer (0 where not even that fits), its accesses, and whether a record was not written. -/
structure Written where
  s : State
  recs : List ExpRec
  bytes : Nat
  met : Met
  short : Bool
  deriving DecidableEq, Repr

/-! ## EXPORT -/

/-- The records of a pier's share of EXPORT written at d (R358 to R361). -/
def State.exportWrite (s : State) (e : Env) : Written :=
  let p := e.p
  let a := e.tA
  let d := e.tD
  let met := [a.missing, d.missing].foldl Met.meta Met.none
  let all := s.paramRecords p a e.policy 15
  let slow := (a.slowPort p).isSome
  let cap := d.e0 * 64
  let fit := if slow then [] else fitting cap all
  let out := fit.flatMap (·.bytes) ++
    trailer a.tid e.policy fit.length (all.length - fit.length) (fit.foldl (fun f r => wrap64 (f + r.fp)) 0)
  let base := wrap52 (d.base + d.tw)
  let met := if slow then met else s.recordMet p a e.policy 15 met
  let fits := cap ≥ 64
  let met := if fits then met.spanW s p base out.length else met
  let st := if fits then s.putHome p .trowel base out else s
  let short := all.length - (if fits then fit.length else 0)
  ⟨st.bumpPier p kExportShort short, fit, if fits then out.length else 0, met, short != 0⟩

/-- A pier's share of EXPORT (R358 to R361). -/
def State.exportShare (s : State) (e : Env) : Out :=
  let w := s.exportWrite e
  { Out.of ((w.s.checkRecords e.p e.policy w.recs).account e w.met) with
    err := w.met.bad, lines := if w.bytes == 0 then [] else linesOf (wrap52 (e.tD.base + e.tD.tw)) w.bytes }

/-! ## CKPT -/

/-- The region of a source pier: base and size in bytes, held by pier p xor 4 (R362, R363). -/
def State.ckptRegion (s : State) (p : PierId) : Nat × Nat :=
  let r := (s.pier (pierOf (p.val ^^^ 4))).cfg.ckptBase.toNat
  (4096 * fld r 51 12, 0x10_0000 * min (fld r 63 52) 1024)

/-- The region's header (R363). -/
def ckptHeader (state : Nat) (p : PierId) (epoch policy records bytes time : Nat) : List Byte :=
  padTo 64 (leBytes 4 (state + p.val * 4) ++ leBytes 4 epoch ++ leBytes 4 policy ++ leBytes 4 records ++ leBytes 8 bytes ++
    leBytes 8 time)

/-- The tensor by which a pier, or else another, knows a parameter (log 30). -/
def State.knownTens (s : State) (p : PierId) (tid : Nat) : Option Tens :=
  ((p :: allPiers).findSome? fun q => ((s.pier q).known.find? fun k => k.1 == tid).map (·.2)).map s.reown

/-- The first absent word of a CKPT's list (R362, R564). -/
def State.ckptAbsent (s : State) (p : PierId) (a : Tens) : Option Nat :=
  (a.listPlaces p).findSome? fun l => match l with
    | some l => if (s.memHome l.addr).isNone then some l.addr else none
    | none => none

/-- A CKPT's list fetched from the piers that hold it (R362, R435). -/
def State.ckptFar (s : State) (p : PierId) (a : Tens) : State :=
  ((a.listPlaces p).foldl (fun acc l => match l with
    | some l => joinLines acc [lineOf l.addr]
    | none => acc) []).foldl (fun (s : State) l => s.fetchFar p l 64) s

/-- The records of a pier's share of CKPT: header with state 0, records and trailer written in the neighbour's memory, which wakes for them
(R36, R362, R363). A listed id of which no pier has met a descriptor counts as a record not written where the pier's parameter table has
it (DESIGN CHOICE; log 30). -/
def State.ckptWrite (s : State) (e : Env) : Written :=
  let p := e.p
  let a := if e.tA.sparse then e.tA.rowMajor else e.tA
  let words := s.ckptList p a
  let met := (Met.none.meta a.missing).meta (s.ckptAbsent p a)
  let (base, size) := s.ckptRegion p
  let parts := words.map fun w =>
    let tid := fld w 19 0
    let mask := if fld w 23 20 == 0 then 1 else fld w 23 20
    match s.knownTens p tid with
    | some k =>
      let t := k.ver e.policy
      let rs := s.paramRecords p t e.policy mask
      if (t.slowPort p).isSome then (([] : List ExpRec), rs.length) else (rs, 0)
    | none => ([], b2n (s.pentry p tid).isSome)
  let all := parts.flatMap (·.1)
  let skipped := parts.foldl (fun n x => n + x.2) 0
  let fit := fitting (size - 64) all
  let short := skipped + (all.length - fit.length)
  let body := fit.flatMap (·.bytes) ++ trailer 0 e.policy fit.length short (fit.foldl (fun f r => wrap64 (f + r.fp)) 0)
  let fits := size ≥ 128
  let met := words.foldl (fun m w => match s.knownTens p (fld w 19 0) with
    | some k => if (k.slowPort p).isSome then m
      else s.recordMet p (k.ver e.policy) e.policy (if fld w 23 20 == 0 then 1 else fld w 23 20) m
    | none => m) met
  let nb := pierOf (p.val ^^^ 4)
  let s := (s.readLines e .trowel met).ckptFar p a
  let s := (s.wakePier nb).sendPackets (pathEdges p nb) (if fits then cdiv (64 + body.length) 64 else 0)
  let st := if fits then (s.writeBytes .trowel base (ckptHeader 0 p e.epoch e.policy 0 0 0)).writeBytes .trowel (base + 64) body else s
  let met := if fits then match s.missingIn base (64 + body.length) with
      | some x => met.meta (some x)
      | none => met
    else met
  let bad := short != 0 || !fits
  ⟨if bad then st.bumpPier p kCkptShort 1 else st, fit, if fits then body.length else 0, met, bad⟩

/-- A pier's share of CKPT; CKPT_WRITE_DONE ends it (R362, R363). -/
def State.ckptShare (s : State) (e : Env) : Out :=
  let p := e.p
  let a := if e.tA.sparse then e.tA.rowMajor else e.tA
  let w := s.ckptWrite e
  let run : CkptRun :=
    { q := e.q, drain := bitAt e.h.imm 0, epoch := e.epoch, policy := e.policy
      records := if w.bytes == 0 then 0 else w.recs.length + 1, bytes := w.bytes
      tids := (s.ckptList p a).map fun w => fld w 19 0, draining := false }
  let st := w.s.checkRecords p e.policy w.recs
  { Out.of ((st.updPier p fun pr => { pr with ckpt := some run, ckptPhase := 1 }).account e w.met) with
    err := w.short || w.met.bad, jobs := 1, lines := if w.bytes == 0 then [] else linesOf (s.ckptRegion p).1 (64 + w.bytes) }

/-- A drain that comes to nothing: drain_ok cleared, counted, recorded (R365; log 32). -/
def State.drainAbandon (s : State) (p : PierId) : State :=
  let s := s.updPier p fun pr => { pr with ckpt := none, ckptPhase := 0, ckptDrainOk := false }
  (s.bumpPier p kCkptShort 1).log
    { errorRecord 0x0C 2 5 0 (pierUnit p) s.tick with
      die := p.val, address := 4096 * fld (s.pier p).cfg.ckptCxl.toNat 51 12 }

/-- The address that a pier's checkpoint drains to, if it is set and its window is present (R365). -/
def State.drainTarget (s : State) (p : PierId) : Option Nat :=
  let a := 4096 * fld (s.pier p).cfg.ckptCxl.toNat 51 12
  if a == 0 then none else match s.place a with
    | .cxl _ _ => some a
    | _ => none

/-- The header with state 1, and the start of a drain (R363, R365). -/
def State.ckptWritten (s : State) (p : PierId) : State :=
  match (s.pier p).ckpt with
  | none => s
  | some r =>
    if r.draining then s
    else
      let (base, _) := s.ckptRegion p
      let nb := pierOf (p.val ^^^ 4)
      let s := if r.records == 0 then s
        else ((s.wakePier nb).sendPackets (pathEdges p nb) 1).writeBytes .trowel base (ckptHeader 1 p r.epoch r.policy r.records r.bytes s.tick)
      let s := s.updPier p fun pr => { pr with
        ckptLastEpoch := if r.records == 0 then pr.ckptLastEpoch else r.epoch % 2 ^ 32
        ckpt := none, ckptPhase := 0 }
      let s := s.jobDone r.q (if r.records == 0 then [] else linesOf base 64) []
      if !r.drain || r.records == 0 then s
      else if (s.drainTarget p).isNone then s.drainAbandon p
      else s.updPier p fun pr => { pr with ckpt := some { r with draining := true }, ckptPhase := 2 }

def execCkptWriteDone (p : PierId) (s : State) : Host.Outcome State Fault Refusal := .next (s.ckptWritten p)

/-- The end of a drain: the region copied, header first; its state becomes 2 (R365). -/
def State.ckptDrained (s : State) (p : PierId) : State :=
  match (s.pier p).ckpt with
  | none => s
  | some r =>
    if !r.draining then s
    else
      match s.drainTarget p with
      | none => s.drainAbandon p
      | some a =>
        let (base, _) := s.ckptRegion p
        let home := (s.memHome a).getD p
        let nb := pierOf (p.val ^^^ 4)
        let s := ((s.wakePier nb).wakePier home).sendPackets (pathEdges nb home) (cdiv (64 + r.bytes) 64)
        let s := s.trowelLines nb (linesOf base (64 + r.bytes))
        let s := match s.missingIn a (64 + r.bytes) with
          | some x => s.account (envOf p r.q (s.headHdr r.q 0x10) r.epoch r.policy []) (Met.none.meta (some x))
          | none => s
        let s := s.writeBytes .mortar a (s.rawBytes base (64 + r.bytes))
        let w := s.rawWord base 4
        let s := s.writeBytes .trowel base (leBytes 4 (setFld w 1 0 2))
        s.updPier p fun pr => { pr with ckpt := none, ckptPhase := 0, ckptDrainOk := true }

def execCkptDrainDone (p : PierId) (s : State) : Host.Outcome State Fault Refusal := .next (s.ckptDrained p)

end Sys2Proof.Machine
end

