-- ==== Sys2Proof/Machine/Tiles.lean ====
section
/-! DEFINITION. How products walk the courses of a pier: what a course runs on each stream (R82, R108), stationary buffers and
the tiles they hold (R83 to R87, R106, R229), list scans (R233), rows and the running state that the corbel path carries (R79,
R80, R103 to R105, R294). -/

namespace Sys2Proof.Machine

/-! ## What a course runs (R82, R108) -/

/-- The queues whose headers or shares a course holds on a stream, in the order they reached it. -/
def Pier.line (p : Pier) (course stream : Nat) : List QKey :=
  match p.lines.find? (fun l => l.course == course && l.stream == stream) with
  | some l => l.keys
  | none => []

/-- What a course runs on a stream now (R108). -/
def Pier.front (p : Pier) (course stream : Nat) : Option QKey := (p.line course stream).head?

/-- A course's entries on a stream replaced; an empty line is not listed. -/
def Pier.setLine (p : Pier) (course stream : Nat) (ks : List QKey) : Pier :=
  let rest := p.lines.filter fun l => !(l.course == course && l.stream == stream)
  { p with lines := if ks.isEmpty then rest else ⟨course, stream, ks⟩ :: rest }

/-- A header or share reaches some courses. -/
def Pier.joinLines (p : Pier) (cs : List Nat) (stream : Nat) (q : QKey) : Pier :=
  cs.foldl (fun p c => p.setLine c stream (p.line c stream ++ [q])) p

/-- A header or share has left some courses. -/
def Pier.leaveLines (p : Pier) (cs : List Nat) (stream : Nat) (q : QKey) : Pier :=
  cs.foldl (fun p c => p.setLine c stream ((p.line c stream).erase q)) p

/-- Whether a header or share is what each of some courses runs. -/
def Pier.atFront (p : Pier) (cs : List Nat) (stream : Nat) (q : QKey) : Bool := cs.all fun c => p.front c stream == some q

/-! ## Physical units (R111, R490) -/

/-- Physical course of a logical course, and physical core of a logical core: cores are numbered within their physical course;
of a logical mason core. -/
def Pier.physCourse (p : Pier) (c : Nat) : Nat :=
  match p.courseMap.get c with
  | 0 => c
  | n + 1 => n
def Pier.physCore (p : Pier) (c k : Nat) : Nat :=
  match p.coreMap.get (16 * p.physCourse c + k) with
  | 0 => k
  | n + 1 => n

def Pier.physMason (p : Pier) (k : Nat) : Nat := ((p.masons[k]?).map (·.phys)).getD k

/-- The idle spare core of a physical course, the idle spare course and mason core of a pier. -/
def Pier.idleCore (p : Pier) (pc : Nat) : Option Nat :=
  match p.coreSpare.get pc with
  | 0 => some 16
  | n + 1 => if n == 17 then none else some n
def Pier.idleCourse (p : Pier) : Option Nat :=
  match p.courseSpare with
  | 0 => some 48
  | n + 1 => if n == 49 then none else some n
def Pier.idleMason (p : Pier) : Option Nat :=
  match p.masonSpare with
  | 0 => some 8
  | n + 1 => if n == 9 then none else some n

/-! ## Stationary buffers (R83 to R87) -/

/-- The buffers that a stream may load: its own, or buffer 0 where it holds none (R86). -/
def PierCfg.buffersOf (c : PierCfg) (stream : Nat) : List Nat :=
  let own := (List.range c.bufferOwners.length).filter fun b => c.bufferOwners.getD b 3 == stream
  if own.isEmpty then [0] else own

/-- The walk that a course runs on a stream. -/
def Pier.walkAt (p : Pier) (course stream : Nat) : Option Walk :=
  p.walks.find? fun w => w.course == course && w.stream == stream && p.front course stream == some w.q

/-- The buffer that holds a tile of a walk. -/
def Pier.tileOf (p : Pier) (w : Walk) (i : WalkItem) : Option TileBuf :=
  p.tiles.find? fun t => t.course == w.course && t.stream == w.stream && t.q == w.q && t.item == i

/-- Whether a buffer holds a tile of a walk. -/
def Pier.inBuffer (p : Pier) (w : Walk) (i : WalkItem) : Bool := (p.tileOf w i).isSome

/-- The tile that a walk loads next. -/
def Pier.nextLoad (p : Pier) (w : Walk) : Option WalkItem := w.items.find? fun i => !p.inBuffer w i

/-- Whether a tile is still to be worked: its last moving row has not entered the matrix engine (R87). -/
def Pier.live (p : Pier) (t : TileBuf) : Bool :=
  p.walks.any fun w => w.course == t.course && w.stream == t.stream && w.q == t.q && w.items.contains t.item

/-- The number of a stream's next tile at a course. -/
def Pier.tileNo (p : Pier) (course stream : Nat) : Nat :=
  ((p.tiles.filter fun t => t.course == course && t.stream == stream).map (·.tile + 1)).foldl max 0

/-- The buffer for a stream's next tile: of its buffers, taken in turn, the first that holds no live tile of its own (R87). -/
def Pier.bufferFor (p : Pier) (course stream : Nat) : Option Nat :=
  let bs := p.cfg.buffersOf stream
  let n := p.tileNo course stream % bs.length
  (bs.drop n ++ bs.take n).find? fun b => !p.tiles.any fun t => t.course == course && t.buf == b && t.stream == stream && p.live t

/-- A tile put in a buffer, whose earlier tile is gone, its owner's too where the stream holds none (R86). The values lie from offset 0,
the codes of a 2-of-4 tile from 32 KiB (R229). -/
def Pier.putTile (p : Pier) (w : Walk) (b : Nat) (i : WalkItem) (vals : List (List (List (Option Nat)))) : Pier :=
  { p with tiles := ⟨w.course, b, w.stream, p.tileNo w.course w.stream, w.q, i, if i.codes == 0 then 0 else 32768, vals⟩ ::
      p.tiles.filter fun t => !(t.course == w.course && t.buf == b) }

/-! ## Which load may be issued (R87, R106, R233) -/

/-- Whether the scan has closed the K range of a tile (R233). -/
def Walk.scanned (w : Walk) (i : WalkItem) : Bool := !w.needTile || i.part < w.ranges

/-- Whether a walk's load of a tile may be issued: it is the next one, the course runs that walk, the scan has closed its range and
a buffer is free for it. -/
def Pier.mayIssue (p : Pier) (w : Walk) (i : WalkItem) : Bool :=
  p.nextLoad w == some i && p.front w.course w.stream == some w.q && w.scanned i && (p.bufferFor w.course w.stream).isSome

/-- In round 0 the loads of earlier chains have been issued first (R106). -/
def Pier.inOrder (p : Pier) (w : Walk) (i : WalkItem) : Bool :=
  i.round != 0 || p.walks.all fun w' => w'.q != w.q || w'.items.all fun i' =>
    i'.prod != i.prod || i'.round != 0 || i'.chain ≥ i.chain || p.inBuffer w' i' || p.mayIssue w' i'

/-! ## The walks of a share -/

/-- Bytes of a tile's values in its buffer, and of the position codes of a 2-of-4 one (R92, R229). -/
def tileBytes (pr : Prod) (k n : Nat) : Nat × Nat :=
  let half := halfBytes (matClass pr.b.fmt) * k * n
  if pr.op == 2 && pr.b.layout == 5 then (cdiv half 4, cdiv (k * n) 8) else (cdiv half 2, 0)

/-- What a course works on in one part of a product, round by round. -/
def Plan.items (pl : Plan) (pr : Prod) (course : Nat) : List WalkItem :=
  (pl.ts.filter fun t => t.k == 0).flatMap fun t => (List.range t.links.length).filterMap fun j =>
    if t.links.getD j 0 != course then none
    else
      let b := tileBytes pr ((pl.link j).2 - (pl.link j).1) t.cols
      some ⟨pl.n, t.round, t.chain, j, j + 1 == t.links.length, if j == 0 then course else t.links.getD (j - 1) 0, t.row0, t.rows,
        b.1, b.2, t.cols, pl.part⟩

/-- The walks that a share's products begin on its courses (R103 to R107). -/
def walksOf (e : Env) (pr : Prod) (pls : List Plan) : List Walk :=
  let pls := pls.filter (·.walk)
  let needTile := (pr.op == 2 || pr.op == 3) && pr.b.layout == 4
  let needBand := pr.dest == .sampleBlocks || (pr.gate && pr.hasC && pr.c.layout == 4)
  (plansCourses pls).map fun c =>
    ⟨c, e.h.stream, e.q, pls.flatMap fun pl => pl.items pr c, 0, [], [], [], needTile, needBand, 0, 0⟩

/-! ## Rows (R79, R80, R104, R105) -/

/-- What stands in the accumulator bank of a stream at a core of a course and in the spill values beside it (R79, R83): the rows of the
core's walk that wait for the next link, one after the other. -/
def Pier.bank (p : Pier) (course stream k : Nat) : List (Nat × Nat) :=
  (p.walks.filter fun w => w.course == course && w.stream == stream).flatMap fun w => w.rows.flatMap fun r => r.elems.getD k []

/-- Whether the banks of a course's cores have room for another row (R79, R83): each holds 512 accumulators, with as many spill
values. -/
def Pier.bankRoom (p : Pier) (w : Walk) (width : Nat) : Bool :=
  (List.range 16).all fun k => (p.bank w.course w.stream k).length + width ≤ 512

/-- Rows of a tile whose state has come from the link before: those that have started or stand in the corbel queue. -/
def Walk.arrivals (w : Walk) (i : WalkItem) : Nat :=
  (if w.items.head? == some i then w.next else 0) + (w.arrived.filter fun r => r.item == i).length

/-- A walk put in place of the one of its course, stream and header. -/
def Pier.setWalk (p : Pier) (w : Walk) : Pier :=
  { p with walks := p.walks.map fun x => if x.course == w.course && x.stream == w.stream && x.q == w.q then w else x }

/-- Whether the current slot of a pier is a stream's (R80, R292, R293). -/
def Pier.inSlot (p : Pier) (stream : Nat) : Bool := p.cfg.slot (p.bondPos / 256) == stream

/-- The row that a walk starts next, if it may: the tile in a buffer, the slot its stream's (R80, R294), the row band's scan closed
(R233), the incoming state there (R105), and, of a link that is not the last, room in the accumulators (R79). -/
def Pier.nextRow (p : Pier) (pls : List Plan) (w : Walk) : Option (WalkItem × Plan × TileBuf × List (List (Nat × Nat))) :=
  match w.items with
  | [] => none
  | i :: _ =>
    match pls[i.prod]?, p.tileOf w i with
    | some pl, some tb =>
      let inc := w.arrived.find? fun r => r.item == i && r.row == w.next
      if p.awake && p.front w.course w.stream == some w.q && p.inSlot w.stream &&
        (!w.needBand || (pl.g.m0 + i.row0 + w.next) / 16 < w.bands) && (i.link == 0 || inc.isSome) &&
        (i.last || p.bankRoom w i.width) && w.next < i.rows
      then some (i, pl, tb, match inc with | some r => r.elems | none => [])
      else none
    | _, _ => none

/-- The tiles that the cores of a link take in an item's round. -/
def Plan.tilesOf (pl : Plan) (i : WalkItem) : List DTile := pl.ts.filter fun t => t.chain == i.chain && t.round == i.round

/-- A walk's rows run as far as they may: one row's state by core and column, then the next; the last link hands its rows to the drain
(R105); a tile whose last row has entered is done. -/
def State.runRows (s : State) (e : Env) (pr : Prod) (pls : List Plan) : Nat → Walk → Walk
  | 0, w => w
  | n + 1, w =>
    match ((s.pier e.p).setWalk w).nextRow pls w with
    | none => w
    | some (i, pl, tb, inc) =>
      let mine := pl.tilesOf i
      let elems := (List.range mine.length).filterMap fun k => (mine[k]?).map fun t =>
        s.linkRow e pr pl t i.link w.next (tb.vals.getD k []) (inc.getD k [])
      let done := w.next + 1 == i.rows
      let row : RowState := ⟨i, w.next, elems⟩
      s.runRows e pr pls n { w with
        items := if done then w.items.tail else w.items
        next := if done then 0 else w.next + 1
        arrived := w.arrived.filter fun r => !(r.item == i && r.row == w.next)
        rows := if i.last then w.rows else w.rows ++ [row]
        done := if i.last then w.done ++ [row] else w.done }

/-- The environment of a running share, its tensors as the header read them with their present scales (R70, R117). -/
def State.envAt (s : State) (p : PierId) (q : QKey) (x : QEntry) : Env :=
  let bound := match x.bound.find? (fun b => b.1 == p) with
    | some b => b.2.map (·.map s.rescale)
    | none => []
  { envOf p q x.hdr x.epoch x.policy (x.ops.map s.rescale) with bound := bound }

/-- The walk of a course and stream goes on. -/
def State.advanceWalk (s : State) (p : PierId) (w : Walk) : State :=
  match s.head w.q with
  | none => s
  | some x =>
    let e := s.envAt p w.q x
    let pr := (s.product e true).1
    let w' := s.runRows e pr (pr.plans e) 512 w
    if w' == w then s else s.updPier p (·.setWalk w')

/-- The walks of a pier go on. -/
def State.advanceWalks (s : State) (p : PierId) : State :=
  (s.pier p).walks.foldl (fun (s : State) w => s.advanceWalk p w) s

/-! ## The events -/

/-- The contents of a tile as it is loaded now, by core of the link (R83). -/
def State.loadVals (s : State) (p : PierId) (w : Walk) (i : WalkItem) : List (List (List (Option Nat))) :=
  match s.head w.q with
  | none => []
  | some x =>
    let e := s.envAt p w.q x
    let pr := (s.product e true).1
    match (pr.plans e)[i.prod]? with
    | none => []
    | some pl => (pl.tilesOf i).map fun t => s.tileVals e pr pl t i.link

/-- STATIONARY_TILE_LOADED (R86, R87, R105, R106, R233). -/
def State.tileLoaded (s : State) (p : PierId) (course stream : Nat) : State :=
  let pr := s.pier p
  match pr.walkAt course stream with
  | none => s
  | some w =>
    match pr.nextLoad w, pr.bufferFor course stream with
    | some i, some b => if pr.mayIssue w i && pr.inOrder w i then (s.updPier p (·.putTile w b i (s.loadVals p w i))).advanceWalks p else s
    | _, _ => s

/-- CORBEL_STATE_ARRIVAL (R82, R104, R105): the state of the next row that link j has finished reaches link j + 1, whose queue takes
256 elements; what it leaves is free for another row. -/
def State.stateArrival (s : State) (p : PierId) (course stream row : Nat) : State :=
  let pr := s.pier p
  match pr.walkAt course stream with
  | none => s
  | some w =>
    match w.items.find? (fun i => i.link != 0 && w.arrivals i < i.rows) with
    | none => s
    | some i =>
      match pr.walks.find? (fun x => x.course == i.prev && x.stream == stream && x.q == w.q) with
      | none => s
      | some x =>
        let mine : RowState → Bool := fun r => r.item.prod == i.prod && r.item.round == i.round && r.item.chain == i.chain &&
          r.item.link + 1 == i.link && r.row == row
        match x.rows.find? mine with
        | none => s
        | some r =>
          if w.arrivals i != row || (w.arrived.length + 1) * i.width > 256 then s
          else
            (s.updPier p fun pr => (pr.setWalk { x with rows := x.rows.filter fun y => !mine y }).setWalk
              { w with arrived := w.arrived ++ [{ r with item := i }] }).advanceWalks p

/-- LIST_SCAN_CLOSE (R233): the K range of the tile that waits to load, else the next block row of c or d. -/
def State.scanClose (s : State) (p : PierId) (course stream : Nat) : State :=
  let pr := s.pier p
  match pr.walkAt course stream with
  | none => s
  | some w =>
    let tile := match pr.nextLoad w with
      | some i => !w.scanned i
      | none => false
    let w' := if tile then { w with ranges := w.ranges + 1 } else if w.needBand then { w with bands := w.bands + 1 } else w
    (s.updPier p (·.setWalk w')).advanceWalks p

/-- SLOT_CHANGE (R293, R294): the pier's bond position at the first cycle of the next slot; unfinished work of its stream goes on. -/
def State.nextSlot (s : State) (p : PierId) : State :=
  if (s.pier p).awake then
    (s.updPier p fun pr => { pr with bondPos := 256 * (pr.bondPos / 256 + 1) % 16384 }).advanceWalks p
  else s

/-! ## A share's walk begun and ended -/

/-- A product's walks begun at a pier; no tile of an earlier product of its queue counts as its own (R87, R106). -/
def State.beginWalks (s : State) (e : Env) : State :=
  let pr := (s.product e true).1
  let ws := walksOf e pr (pr.plans e)
  s.updPier e.p fun p => { p with
    walks := p.walks.filter (fun w => w.q != e.q) ++ ws, tiles := p.tiles.filter fun t => t.q != e.q }

/-- Whether the walks of a header have handed every row to the drain (R105). -/
def Pier.walked (p : Pier) (q : QKey) : Bool := p.walks.all fun w => w.q != q || w.items.isEmpty

/-- A header's walks over. -/
def Pier.endWalks (p : Pier) (q : QKey) : Pier := { p with walks := p.walks.filter fun w => w.q != q }

end Sys2Proof.Machine
end

