-- ==== Sys2Proof/Machine/Headers.lean ====
section
/-! DEFINITION. Headers from submission to completion: entering a queue (R28, R64, R369), decoding (R62, R63), waiting (R49,
R51), holds (R284, R295, R317, R345, R357), the run of each opcode (R56) over its shares (R110, R141), and completion
(R53, R202, R375, R458). -/

namespace Sys2Proof.Machine

/-! ## Units and queues -/

/-- Whether a unit field names a unit (R28). -/
def unitExists (u : Nat) : Bool := unitLevel u ≤ 4 && !(unitLevel u ≤ 1 && fld u 7 4 ≥ 12)

/-- A unit address with every field below its level zero (R27). -/
def unitCanon (u : Nat) : Nat :=
  match unitLevel u with
  | 0 => u % 65536
  | 1 => u / 16 % 4096 * 16
  | 2 => 256 * (u / 256 % 256)
  | 3 => 1024 * (u / 1024 % 64)
  | _ => 0x8000

/-- The queue of a unit field and a stream: a U header of any unit of a pier waits in the pier's queue (R82). -/
def queueKey (u stream : Nat) : QKey :=
  let u := if stream % 4 == 3 && unitLevel u ≤ 3 then 0x6000 + 0x400 * fld u 12 10 else unitCanon u
  ⟨BitVec.ofNat 16 u, streamOf stream⟩

end Sys2Proof.Machine

namespace Sys2Proof

open Machine

def Header.key (h : Header) : QKey := queueKey h.unit h.stream

/-- The references that an opcode requires, in the order d, a, b, c (R56). -/
def Header.required (h : Header) : List Nat :=
  let op := h.opcode
  if 1 ≤ op && op ≤ 4 then [h.refD, h.refA, h.refB]
  else if op == 8 then (if bitAt h.imm 6 then [h.refD, h.refA, h.refB] else [h.refD, h.refA])
  else if op == 0x0A then [h.refD, h.refA, h.refC]
  else if op == 0x0C || op == 0x0D then [h.refD, h.refB]
  else if op == 0x10 then [h.refA]
  else if op == 0x13 || op == 0x14 then []
  else [h.refD, h.refA]

/-- A reserved code in an immediate, or a TOPK k out of range (R60, R61). -/
def Header.immBad (h : Header) : Bool :=
  let i := h.imm
  match h.opcode with
  | 1 | 2 | 3 => fld i 3 2 == 3
  | 5 => fld i 1 0 == 3
  | 8 => fld i 5 0 == 0
  | 0x0A => fld i 8 0 == 0 || fld i 8 0 > Config.topkMax
  | 0x0B => fld i 1 0 == 0 || fld i 1 0 == 3
  | 0x0F => fld i 31 16 == 0
  | _ => false

def Header.waitBad (h : Header) : Bool := h.waitEn && h.waitCond ≥ 3
def Header.signalBad (h : Header) : Bool := h.sigEn && (h.sigOp == 3 || (h.sigOp == 2 && h.opcode != 0x13))

/-- The activation table that a header needs on its cores, if any (R308, R317). -/
def Header.tableId (h : Header) : Nat :=
  match h.opcode with
  | 1 | 2 | 3 => fld h.imm 9 4
  | 8 => fld h.imm 5 0
  | _ => 0

end Sys2Proof

namespace Sys2Proof.Machine

/-- The Plumbline port beside the active module sequencer, and its corner pier (R17, R62). -/
def State.seqPort (s : State) : PortId := if s.seqOnC then 1 else 0
def State.seqCorner (s : State) : PierId := if s.seqOnC then 7 else 0

/-- The pier that holds a queue; the corner pier of the active sequencer for the module's (R62, R63). -/
def State.queuePier (s : State) (q : QKey) : PierId :=
  if unitLevel q.unit.toNat ≤ 3 then pierOf (fld q.unit.toNat 12 10) else s.seqCorner

/-- The courses of a unit within a pier of it. -/
def unitCourses (u : Nat) : List Nat :=
  match unitLevel u with
  | 0 | 1 => [fld u 9 8 * 12 + fld u 7 4]
  | 2 => (List.range 12).map (fld u 9 8 * 12 + ·)
  | _ => List.range 48

/-- The piers that hold part of a unit. -/
def unitPiers (u : Nat) : List PierId := if unitLevel u ≤ 3 then [pierOf (fld u 12 10)] else allPiers

/-! ## Entering a queue -/

/-- A request's program one header further (R426); one that STOP cut short goes no further. -/
def Request.advance (r : Request) (status tick : Nat) : Request :=
  if r.todo == 0 then r
  else { r with
    todo := r.todo - 1
    done := r.done + 1
    error := r.error || status != 0
    completed := if r.todo == 1 then some tick else none }

def State.requestStep (s : State) (n status : Nat) : State :=
  { s with requests := replaceFirst (fun r => r.number == n) (·.advance status s.tick) s.requests }

/-- A header whose unit field names no unit (R28, R64, R559), decoded at a pier or at a port's quoin. -/
def State.badUnit (s : State) (h : Header) (o : Origin) (at_ : PierId ⊕ PortId) : State :=
  let answered := match o with | .host _ _ => h.report | _ => false
  let sev := if answered then 3 else 0
  let s := match at_ with
    | .inl p => ((s.wakePier p).bumpPier p kUnitAnomaly 1).log
        { errorRecord 0x0A sev 15 0 (pierUnit p) s.tick with
          seq := h.seq, opcode := h.opcode, die := p.val, detail0 := h.w0.toNat }
    | .inr p => (s.bump (plmbReg p 0x18) 1).log
        { errorRecord 0x0A sev 15 0 0xFFFF s.tick with
          seq := h.seq, opcode := h.opcode, die := 8 + (portQuoin p).val, detail0 := h.w0.toNat }
  match o with
  | .host port tag => if h.report then s.send port ⟨0x13, tag.toNat, 0, completion h 1 s.tick⟩ else s
  | .request n => s.requestStep n 1
  | _ => s
where
  /-- A completion record (R458). -/
  completion (h : Header) (status tick : Nat) : List Byte :=
    padTo 64 (leBytes 8 (1 + 2 ^ 8 * h.stream + 2 ^ 16 * status + 2 ^ 24 * h.opcode + 2 ^ 32 * h.unit + 2 ^ 48 * h.seq) ++
      leBytes 8 tick)

/-- The pier of a unit, if it belongs to one. A lane group's is that of the link's sending end, or of its only pier. -/
def linkPier (link : Nat) (dir : Bool) : PierId :=
  if link < 40 then
    let e := link / 4
    let (a, b) := if e < 3 then (e, e + 1) else if e < 6 then (e + 1, e + 2) else (e - 6, e - 2)
    pierOf (if dir then b else a)
  else cornerPier (quoinOf ((link - 40) / 2))

/-- Whether the sending end of a link's direction stands on a pier (R18). -/
def sendsFromPier (link : Nat) (dir : Bool) : Bool := link < 40 || dir

/-- The pier that hosts a domain, if one does (R34): of a link, its end in a direction is the end that sends. -/
def domainPier : Domain → Option PierId
  | .course c => some c.pier
  | .mortar p | .mason p _ | .gddr p _ | .spareCourse p | .spareMason p => some p
  | .linkEnd l d => if sendsFromPier l.val d then some (linkPier l.val d) else none
  | _ => none

/-- The stopped domain that a header for a unit waits before (R434): the pier's, or the course's. -/
def State.asleepBefore (s : State) (u : Nat) (stream : Nat) : Option Domain :=
  if unitLevel u > 3 then none
  else
    let p := pierOf (fld u 12 10)
    let c := courseId p (fld u 9 8 * 12 + fld u 7 4)
    if !(s.pier p).awake then some (.mortar p)
    else if unitLevel u ≤ 1 && stream != 3 && !(s.pier p).coursesAwake.contains c.course.val then some (.course c)
    else none

/-- Whether a queue stands at a course: that of a G, F or B header of the course or of a core (R82). -/
def atCourse (q : QKey) : Bool := unitLevel q.unit.toNat ≤ 1 && q.stream != 3

/-- The number in a pier of the sequencer at which a queue stands: a course, 48 + a wall, or 52 for the pier's own (R82). -/
def queueSeq (q : QKey) : Nat :=
  let u := q.unit.toNat
  match unitLevel u with
  | 0 | 1 => fld u 9 8 * 12 + fld u 7 4
  | 2 => 48 + fld u 9 8
  | _ => 52

/-- Whether a queue stands at a sequencer of a pier: every one but the module's (R82). -/
def inPierQueue (q : QKey) : Bool := unitLevel q.unit.toNat ≤ 3

/-- Entries that a sequencer's queue of one stream holds: a course 8, a wall 16, a pier 32 (R82). -/
def seqDepth (c : Nat) : Nat := if c < 48 then 8 else if c < 52 then 16 else 32

/-- The sequencers above one in its pier: the wall's of a course, the pier's of a wall. -/
def seqAbove (c : Nat) : Option Nat := if c < 48 then some (48 + c / 12) else if c < 52 then some 52 else none

/-- A header enters its queue (R38, R369), and its sequencer's (R82, R108); for a stopped domain its sender holds it at the crossing
(R434). -/
def State.enter (s : State) (h : Header) (o : Origin) : State :=
  let q := h.key
  let s := s.setQueue q (s.queue q ++ [.fresh h o])
  let s := if inPierQueue q then s.updPier (s.queuePier q) fun pr =>
      ((pr.joinLines [queueSeq q] q.stream.val q).stirCourse (queueSeq q) s.tick).stir s.tick
    else s
  match s.asleepBefore h.unit h.stream with
  | some d => { s with crossHeld := holdCross s.crossHeld (domainNo d) s.tick }
  | none => s

/-- Whether a course waits to become quiescent for the exchange of it or of one of its cores, a spare standing idle (R112). -/
def State.exchangeDue (s : State) (p : PierId) (course : Nat) : Bool :=
  s.sounding.any fun x => x.old.isNone && (match x.unit with
    | .core c => c.pier == p && c.course.val == course && ((s.pier p).idleCore ((s.pier p).physCourse course)).isSome
    | .course c => c.pier == p && c.course.val == course && (s.pier p).idleCourse.isSome
    | _ => false)

/-- Whether a sequencer takes another header or share of a stream: its queue has room (R82), and a course takes none while an exchange is
due (R112). -/
def State.seqRoom (s : State) (p : PierId) (stream c : Nat) : Bool :=
  ((s.pier p).line c stream).length < seqDepth c && (c ≥ 48 || !s.exchangeDue p c)

/-- Whether a queue and its sequencer take another header (R82, R112). -/
def State.queueRoom (s : State) (q : QKey) : Bool :=
  (s.queue q).length < q.depth && (!inPierQueue q || s.seqRoom (s.queuePier q) q.stream.val (queueSeq q))

/-- Whether a queue takes another entry: it has room and no earlier submission waits (R82, R369). -/
def State.hasRoom (s : State) (q : QKey) : Bool :=
  s.queueRoom q && !s.waitingSubs.any (fun w => w.key == q)

/-- The way of a header from the pier or port's quoin where it is submitted to the sequencer that its unit names: its pier's, or the
module's on its quoin (R21, R369). -/
def State.submitPath (s : State) (at_ : PierId ⊕ PortId) (u : Nat) : List (Nat × Nat) :=
  let d := pierOf (fld u 12 10)
  let seq := portQuoin s.seqPort
  let top := unitLevel u > 3
  match at_ with
  | .inl p => if top then backEdges seq p else pathEdges p d
  | .inr t =>
    if !top then quoinEdges (portQuoin t) d
    else if t == s.seqPort then [] else quoinEdges (portQuoin t) (cornerPier seq) ++ [(10 + seq.val, 1)]

/-- A header submitted: discarded, or sent to its sequencer (R22) and there queued or held back; whether its write is complete (R28,
R369). -/
def State.submitHeader (s : State) (h : Header) (o : Origin) (at_ : PierId ⊕ PortId) (ack : Option Source) :
    State × Bool :=
  if !unitExists h.unit then (s.badUnit h o at_, true)
  else
    let s := s.sendPackets (s.submitPath at_ h.unit) 1
    if s.hasRoom h.key then (s.enter h o, true)
  else ({ s with waitingSubs := s.waitingSubs ++ [⟨h.key, h, o, ack⟩] }, false)

/-- The oldest submission held back at a queue enters it (R369). -/
def State.enqueueWaiting (s : State) (q : QKey) : State :=
  match s.waitingSubs.find? (fun w => w.key == q) with
  | none => s
  | some w =>
    if !s.queueRoom q then s
    else
      let rest := s.waitingSubs.eraseP (fun w => w.key == q)
      let s := ({ s with waitingSubs := rest }).enter w.hdr w.origin
      match w.ack with
      | some src => s.answerWrite src 0
      | none => s

/-! ## Defects (R62) -/

/-- The streams of an opcode (R56): none for a reserved one. -/
def opStreams (op : Nat) : List Nat :=
  if op == 0x04 || op == 0x0F then [1, 2]
  else if op == 0x0C || op == 0x0D || op == 0x0E || op == 0x10 || op == 0x11 then [3]
  else if op == 0x12 || op == 0x13 || op == 0x14 then [0, 1, 2, 3]
  else if 1 ≤ op && op ≤ 0x0B then [0, 1, 2]
  else []

/-- Word w of a promise class (R418), whether the class is defined, and its piers. -/
def State.classWord (s : State) (c w : Nat) : Nat := s.promises.get (8 * (c % 64) + w)
def State.classDefined (s : State) (c : Nat) : Bool := bitAt (s.classWord c 0) 40 && fld (s.classWord c 4) 63 52 != 0
def State.classMargin (s : State) (c : Nat) : Nat := fld (s.classWord c 3) 31 0
def State.classHas (s : State) (c : Nat) (p : PierId) : Bool := bitAt (s.classWord c 0) (48 + p.val)

/-- The defects of R62 but the pier test of a module-level header's shares. -/
def State.malformed (s : State) (h : Header) (o : Origin) (p : PierId) : Bool :=
  !(opStreams h.opcode).contains h.stream || h.required.any (fun r => !refOn r) || h.immBad || h.waitBad || h.signalBad ||
  (h.stream == 0 && (match o with
    | .host _ _ | .departed _ => true
    | _ => !s.classDefined h.cls || (unitLevel h.unit ≤ 3 && !s.classHas h.cls p)))

/-- A header anomaly counted and recorded at a pier (R63, R559). -/
def State.headerAnomaly (s : State) (p : PierId) (h : Header) : State :=
  (s.bumpPier p kHdrAnomaly 1).log { hdrRecord s p h 0x0A 3 with detail0 := h.w0.toNat }

/-! ## Shares (R110, R141) -/

/-- The piers that own blocks of a tensor, or its home pier (R110). -/
def State.destPiers (s : State) (t : Tens) : List PierId :=
  match t.own with
  | some o => allPiers.filter fun p => (List.range o.ents.length).any fun i => o.owner i == p
  | none => [(s.memHome (t.base + t.tw)).getD s.seqCorner]

/-- The piers that run shares of a header, its operands d, a, b and c given in the buffers of version v. -/
def State.sharePiers (s : State) (h : Header) (v : Nat) (ops : List Tens) : List PierId :=
  let d := ops.getD 0 .zero
  if unitLevel h.unit ≤ 3 then [pierOf (fld h.unit 12 10)]
  else
    match h.opcode with
    | 0x0C | 0x0D => [(s.memHome (d.ver (v + 1)).auxT).getD s.seqCorner]
    | 0x10 => allPiers
    | 0x13 => if refOn h.refD && h.sigEn && h.sigOp == 2 then
        match d.own with
        | some o => [o.owner 0]
        | none => s.destPiers d
      else []
    | 0x14 => []
    | _ => s.destPiers d

/-- A U header at the head of another queue that reads or writes a tensor, or one that has started, as R345 and R357 see it. -/
def State.otherReads (s : State) (q : QKey) (p : PierId) (tid v : Nat) (single : Bool) : Bool :=
  s.queues.any fun y => y.key != q && y.key.stream == 3 && (match y.entries.head? with
    | some x => x.busy && (x.hdr.opcode == 0x10 || x.hdr.opcode == 0x11) && x.shares.contains p &&
        (s.uTids p x.hdr x.ops).contains tid && (single || x.policy % 2 != v % 2)
    | none => false)

/-- Whether a header whose wait is met is held at the head of its queue (R284, R295, R345, R357, R365): its stream has no slot at
its unit's pier; a drain, its tensor's deferral entries, a checkpoint or export that reads what it would write, or a repair stand in
its way; a pier trowel of an UPDATE or of a MOVE on U is being sounded (R488). -/
def State.heldBack (s : State) (q : QKey) (h : Header) (v : Nat) (ops : List Tens) : Bool :=
  let ps := s.sharePiers h v ops
  let d := ops.getD 0 .zero
  (h.stream != 3 && unitLevel h.unit ≤ 3 && ps.any fun p => (s.pier p).cfg.slots h.stream == 0) ||
  (h.opcode == 0x10 && ps.any fun p => (s.pier p).ckpt.isSome) ||
  (h.stream == 3 && allPiers.any fun p => !(s.pier p).repairing.isEmpty &&
    ps.any fun r => (s.uTids r h ops).any fun t => (s.pier p).repairing.any fun x => x.tensor == t) ||
  ((h.opcode == 0x0C || h.opcode == 0x0D) &&
    s.quoins.toList.any fun x => (x.queue ++ x.placing).any fun y => y.tensor == d.tid) ||
  (h.stream == 3 && (h.opcode == 0x0E || h.opcode == 0x12) && s.sounding.any fun x => match x.unit with
    | .pierTrowel p _ => ps.contains p
    | _ => false) ||
  (h.opcode == 0x0E && bitAt h.imm 8 && ps.any fun p => s.otherReads q p d.tid v d.single)

/-! ## Waits -/

/-- Whether a wait condition holds of a keystone value (R49, R63). -/
def waitMet (cond value operand : Nat) : Bool :=
  let a := value % 0x1_0000_0000
  let b := operand % 0x1_0000_0000
  match cond with
  | 0 => subMod 0x1_0000_0000 a b < 0x8000_0000
  | 1 => a == b
  | 2 => a != b
  | _ => true

def State.keyValue (s : State) (k : Nat) : Nat := (s.pier (keyPier k)).keyAt (keyLocal k)

/-- The wait of a header is met (R49, R51). -/
def State.headerMet (s : State) (h : Header) : Bool :=
  !h.waitEn || waitMet h.waitCond (s.keyValue h.waitKey) h.waitValue

/-- A line taken from the bed caches beneath a unit: of a course's cores, or of one core. -/
def dropLine (u : Nat) (b : BedLine) : Option BedLine :=
  if !(unitCourses u).contains b.course then some b
  else b.without (if unitLevel u == 0 then 2 ^ fld u 3 0 else 0xFFFF)

/-- Bed caches beneath a unit invalidated: every line (R52), or the lines given (R375). -/
def State.dropBed (s : State) (u : Nat) (lines : Option (List Nat)) : State :=
  (unitPiers u).foldl (fun (s : State) p => if (s.pier p).bed.isEmpty then s else s.updPier p fun pr =>
    { pr with bed := pr.bed.filterMap fun b =>
      match lines with
      | some ls => if ls.contains b.line then dropLine u b else some b
      | none => dropLine u b }) s

/-! ## Decoding and starting -/

/-- Whether a header's shares are run by courses: G, F and B work, but for SIGNAL and WAIT, which sequencers perform (R50, R56). -/
def usesCourses (h : Header) : Bool := h.stream != 3 && h.opcode != 0x13 && h.opcode != 0x14

/-- Whether a header's work lies in a pier whose mortar domain has been declared failed: the crossings there refuse it (R438). -/
def State.unitFailed (s : State) (h : Header) : Bool := (unitPiers h.unit).any fun p => s.deadPier p

/-- Whether a course of a header's unit has been declared failed and not replaced: its work waits for the exchange (R438, R486). -/
def State.courseFailed (s : State) (h : Header) : Bool :=
  usesCourses h && (unitPiers h.unit).any fun p =>
    (unitCourses h.unit).any fun c => (s.pier p).failed.contains (domainNo (.course (courseId p c)))

/-- The tensors of a header by which its piers know a parameter not met before (log 30). -/
def State.meet (s : State) (e : Env) : State :=
  (e.ops.filter fun t => t.ref.isSome).foldl (fun (s : State) t =>
    if (s.pentry e.p t.tid).isNone || (s.pier e.p).known.any (fun k => k.1 == t.tid) then s
    else s.updPier e.p fun pr => { pr with known := (t.tid, t) :: pr.known }) s

/-- The sequencers of a pier that a share of a header passes on its way, from above: of a module-level header the pier's, then, for work
of courses, the walls' and the courses' below its unit (R24, R82). -/
def sharePath (q : QKey) (h : Header) : List Nat :=
  let u := q.unit.toNat
  let top := if unitLevel u > 3 then [52] else []
  let walls := if unitLevel u ≥ 3 then [48, 49, 50, 51] else []
  if usesCourses h && !atCourse q then top ++ walls ++ unitCourses u else top

/-- A share goes down its path as far as it comes: it enters the queue of a sequencer once the one above runs it and the queue has
room (R82, R108). -/
def State.descend (s : State) (q : QKey) (h : Header) (p : PierId) : State :=
  let path := sharePath q h
  path.foldl (fun (s : State) c =>
    let pr := s.pier p
    let above := match seqAbove c with
      | some w => !path.contains w || pr.front w h.stream == some q
      | none => true
    if (pr.line c h.stream).contains q || !above || !s.seqRoom p h.stream c then s
    else s.updPier p (·.joinLines [c] h.stream q)) s

/-- Whether a share stands at the head of every queue on its path (R108). -/
def Pier.shareFront (p : Pier) (q : QKey) (h : Header) : Bool := p.atFront (sharePath q h) h.stream q

/-- Whether a pier lies outside the class of a module-level G header: its share is not run there (R62). -/
def State.outside (s : State) (q : QKey) (h : Header) (p : PierId) : Bool :=
  h.stream == 0 && unitLevel q.unit.toNat > 3 && !s.classHas h.cls p

/-- What the start of a share sets going at its pier: the packet that brings it (R22), the courses of its work awake (R434), the walk of
a matrix product, a job for each row of a TOPK at its wall's engine (R212, R218). -/
def State.startShare (s : State) (e : Env) : State :=
  let op := e.h.opcode
  let s := if unitLevel e.q.unit.toNat > 3 then s.sendPackets (quoinEdges (portQuoin s.seqPort) e.p) 1 else s
  let s := (s.wakePier e.p).meet e
  let s := if !usesCourses e.h then s
    else (unitCourses e.q.unit.toNat).foldl (fun (s : State) c => s.wakeCourse (courseId e.p c)) s
  if 1 ≤ op && op ≤ 4 then s.beginWalks e
  else if op == 0x0A then
    let d := if e.tD.sparse then e.tD.rowMajor else e.tD
    (e.tA.topRows d e.p).foldl (fun (s : State) r =>
      let n := d.rho r.1 r.2.1 r.2.2
      s.addJob e.p e.q (.topk n) (some ⟨(e.wall + n % e.W) % 4, Nat.mod_lt _ (by decide)⟩)) s
  else s

/-- Whether a pier takes a share of a header now: its stream has a slot there (R295). A share outside its class is handled at once
(R62). -/
def State.shareRoom (s : State) (q : QKey) (h : Header) (p : PierId) : Bool :=
  s.outside q h p || h.stream == 3 || (s.pier p).cfg.slots h.stream != 0

/-- A share begun where its pier takes it and it has not begun; one that has goes down its path (R82, R110, R295). -/
def State.beginShare (s : State) (q : QKey) (x : QEntry) (p : PierId) : State :=
  match s.head q with
  | none => s
  | some y =>
    if s.outside q x.hdr p || y.piers.contains p then
      if y.begun.contains p then s else s.updHead q fun y => { y with begun := y.begun ++ [p] }
    else if y.begun.contains p then s.descend q x.hdr p
    else if s.shareRoom q x.hdr p then
      ((s.updHead q fun y => { y with begun := y.begun ++ [p] }).startShare (s.envAt p q x)).descend q x.hdr p
    else s

/-- The shares of a started header that its piers now take. -/
def State.beginShares (s : State) (q : QKey) : State :=
  match s.head q with
  | none => s
  | some x => if x.phase != .ready then s else x.shares.foldl (fun (s : State) p => s.beginShare q x p) s

/-- A header that needs a failed domain ends with an error record (R438, R559). -/
def State.failHeader (s : State) (q : QKey) (h : Header) (p : PierId) : State :=
  (s.log { hdrRecord s p h 0x0A 3 with detail0 := h.w0.toNat }).updHead q fun y =>
    { y with phase := .ran, status := 1, jobs := 0, malformed := y.malformed || y.phase != .ran }

/-- STOP holds every stream queue from its third step on (R478). -/
def State.holding (s : State) : Bool := (s.func.state == 4 && s.func.stopStep ≥ 3) || s.func.state == 5

/-- Whether a queue's header is the one that its sequencer runs on its stream (R108). -/
def State.inTurn (s : State) (q : QKey) : Bool :=
  !inPierQueue q || (s.pier (s.queuePier q)).front (queueSeq q) q.stream.val == some q

/-- The bytes that a header's descriptors take, fetched wherever they lie (R117, R434, R435): its references, and their owner tables. -/
def State.fetchOps (s : State) (p : PierId) (ops : List Tens) : State :=
  ops.foldl (fun (s : State) t =>
    let s := match t.ref with
      | some r => s.fetchFar p r 64
      | none => s
    match t.own with
    | some o => s.fetchFar p t.ownerAt (128 + 2 * o.ents.length)
    | none => s) s

/-- A header started (R117, R417): its tensors read, those that its piers' parameter entries bind among them, and its shares known. -/
def State.startHeader (s : State) (q : QKey) (h : Header) (p : PierId) (v : Nat) (ops : List Tens) : State :=
  let ps := s.sharePiers h v ops
  let tid := (ops.getD 0 .zero).tid
  let bound := if h.opcode == 0x0C || h.opcode == 0x0D || h.opcode == 0x0E
    then ps.map fun r => (r, s.readBound r tid v) else []
  let s := s.fetchOps p ops
  let s := bound.foldl (fun (s : State) b => s.fetchOps b.1 (b.2.filterMap id)) s
  ({ s with free := s.free + 1 } : State).updHead q fun y => { y with
    phase := .ready, epoch := (s.pier p).epoch, policy := v, ops := ops, shares := ps, bound := bound }

/-- The head of a queue decoded (R62, R63) once its domain runs (R434) and its course has come to it (R108), its wait evaluated (R51),
and, once met and not held, the header started (R52, R117, R417); a malformed one is not performed, nor one for a pier whose mortar domain
has failed (R438); one for a failed course waits for the exchange (R486). Of a header that has started, the shares are begun that could not be before. -/
def State.decodeHead (s : State) (q : QKey) : State :=
  match s.head q with
  | none => s
  | some x0 =>
    if s.holding || !s.inTurn q || ((s.asleepBefore x0.hdr.unit x0.hdr.stream).isSome && !s.unitFailed x0.hdr) then s else
    let p := s.queuePier q
    let (s, x) :=
      if x0.phase == .queued then
        let bad := s.malformed x0.hdr x0.origin p
        let s := if bad then s.headerAnomaly p x0.hdr else s
        let x := { x0 with phase := Phase.waiting, malformed := bad }
        (s.updHead q fun _ => x, x)
      else (s, x0)
    if x.phase == .ready then s.beginShares q
    else if x.phase != .met && (x.phase != .waiting || !s.headerMet x.hdr) then s
    else
      let s := s.updHead q fun y => { y with phase := .met }
      let v := (s.pier p).policy
      let h := x.hdr
      let ops := s.readOps h v
      if !x.malformed && (s.heldBack q h v ops || (!s.unitFailed h && s.courseFailed h)) then s
      else
        let s := if h.waitInval then s.dropBed h.unit none else s
        if x.malformed then s.updHead q fun y => { y with phase := .ran, status := 1 }
        else if s.unitFailed h then s.failHeader q h p
        else
          (s.startHeader q h p v ops).beginShares q

def execHeaderDecode (q : QKey) (s : State) : Host.Outcome State Fault Refusal := .next (s.decodeHead q)

/-! ## Running -/

/-- What the product before it drained for a header (R315). -/
def State.fusedFor (s : State) (e : Env) : List FusedEl :=
  match s.head e.q with
  | some x => x.fused
  | none => []

/-- The cores that evaluate a header's table in a share: those of its rows, or those that drain its tiles (R109, R315). -/
def State.tableCores (s : State) (e : Env) : List Nat :=
  if e.h.opcode == 8 then
    let fs := (s.fusedFor e).filter fun f => f.pier == e.p
    if fs.isEmpty then (e.tD.ownRows e.p).map fun r => e.rowCore e.tD r.1 r.2.1 r.2.2 else (fs.map (·.core)).eraseDups
  else (((s.product e true).1.plans e).flatMap fun pl => pl.ts.map (·.core)).eraseDups

/-- Whether a share must wait for the table store of one of the cores that evaluate its table (R317). -/
def State.needsTable (s : State) (e : Env) : Bool :=
  e.h.tableId != 0 && s.mustWait e.p (s.tableCores e) e.h.tableId

/-- Whether the rows of a TOPK at a pier have all been taken by their engines (R218). -/
def State.topReady (s : State) (q : QKey) (p : PierId) : Bool :=
  (s.pier p).jobs.all fun j => j.q != q || (match j.body with | .topk _ => false | _ => true) || j.taken.isSome

/-- The opcodes whose rows, elements or blocks the vector units work, in their stream's slots (R94, R248). -/
def vectorOps : List Nat := [0x05, 0x06, 0x07, 0x08, 0x09, 0x0B, 0x0F]

/-- Whether a begun share may run: the sequencers on its path have come to it, and its courses (R108); the walks of a product have handed
every row to the drains (R105); the slot is its stream's for the work of vector units (R80, R94), but for an ACT that the drains have
evaluated (R315); the rows of a TOPK have come to their engines (R218). A share outside its class waits for nothing (R62). -/
def State.shareTurn (s : State) (q : QKey) (h : Header) (p : PierId) : Bool :=
  let pr := s.pier p
  let fused := match s.head q with
    | some x => x.fused.any fun f => f.pier == p
    | none => false
  s.outside q h p ||
    (pr.shareFront q h && (!atCourse q || !usesCourses h || pr.front (queueSeq q) h.stream == some q) &&
     (!(1 ≤ h.opcode && h.opcode ≤ 4) || pr.walked q) &&
     (!vectorOps.contains h.opcode || fused || (pr.awake && pr.inSlot h.stream)) &&
     (h.opcode != 0x0A || s.topReady q p))

/-- What a share adds to its header. -/
def QEntry.join (x : QEntry) (p : PierId) (o : Out) : QEntry :=
  { x with
    status := if o.err then 1 else x.status
    jobs := x.jobs + o.jobs
    lines := joinLines x.lines o.lines
    stats := x.stats ++ o.stats
    sparse := o.sparse.foldl addFig x.sparse
    piers := x.piers ++ [p] }

/-- One pier's share of a header: outside its class's piers it is not run (R62). -/
def State.runShare (share : State → Env → Out) (q : QKey) (x : QEntry) (a : State × QEntry) (p : PierId) : State × QEntry :=
  let h := x.hdr
  if a.1.outside q h p then
    (a.1.headerAnomaly p h, { a.2 with status := 1, piers := a.2.piers ++ [p] })
  else
    let bad := match x.bad with
      | some (c, n) => if c.pier == p then some (c.course.val * 16 + c.core.val, n) else none
      | none => none
    let o := share a.1 { a.1.envAt p q x with bad := bad }
    (o.s, a.2.join p o)

/-- The tensor by which a pier knows a parameter (log 30). -/
def State.know (s : State) (p : PierId) (t : Tens) : State :=
  if t.ref.isNone then s
  else s.updPier p fun pr => { pr with known := (t.tid, t) :: pr.known.filter (fun k => k.1 != t.tid) }

/-- What the run of a header leaves at a pier beside its share: TOPK's jobs and the product's walk are over, a parameter is known, and a
share leaves the sequencers it stood at (R108). -/
def State.afterShare (s : State) (q : QKey) (x : QEntry) (p : PierId) : State :=
  let h := x.hdr
  let s := s.updPier p (·.leaveLines (sharePath q h) h.stream q)
  match h.opcode with
  | 1 | 2 | 3 | 4 => s.updPier p (·.endWalks q)
  | 0x0A => s.updPier p fun pr => { pr with jobs := pr.jobs.filter fun j => !(j.q == q && (match j.body with | .topk _ => true | _ => false)) }
  | 0x0C | 0x0D | 0x0E => s.know p (x.ops.getD 0 .zero)
  | 0x11 => s.know p (x.ops.getD 1 .zero)
  | _ => s

/-- A keystone operation whose header has gone: nobody waits for its answer. -/
def KeyOp.forget (k : KeyOp) (q : QKey) : KeyOp :=
  match k.answer with
  | .element _ r | .signal r => if r == q then { k with answer := .none } else k
  | _ => k

/-- The shares of a header that have begun and not run, given up with their walks and jobs. -/
def State.abandonShares (s : State) (q : QKey) : State :=
  let s := ({ s with linkHeld := s.linkHeld.map fun (x : LinkPacket) => { x with op := KeyOp.forget x.op q } } : State)
  match s.head q with
  | none => s
  | some x => allPiers.foldl (fun (s : State) p =>
      let s := s.updPier p fun pr => { pr with
        walks := pr.walks.filter fun w => w.q != q
        jobs := pr.jobs.filter fun j => j.q != q
        applies := pr.applies.filter fun j => j.q != q
        keyArriving := pr.keyArriving.map fun o => KeyOp.forget o q
        keyDeferred := pr.keyDeferred.map fun o => KeyOp.forget o q }
      if x.begun.contains p && !x.piers.contains p
      then s.updPier p (·.leaveLines (sharePath q x.hdr) x.hdr.stream q) else s) s

/-- The header at the head of a queue performed, if it has started, carries this opcode and nothing holds it: of its shares, in
ascending pier order, those that may run now, each as one step (log 12). Where all have run, the operation is over; where what is left
waits for a table store, the header waits for it (R317). -/
def State.runOp (s : State) (q : QKey) (op : Nat) (share : State → Env → Out) : State :=
  match s.head q with
  | none => s
  | some x0 =>
    if x0.phase != .ready || x0.hdr.opcode != op || s.heldBack q x0.hdr x0.policy x0.ops then s
    else
      let s := s.beginShares q
      match s.head q with
      | none => s
      | some x =>
        let left := x.shares.filter fun p => !x.piers.contains p
        let turn := left.filter fun p => x.begun.contains p && s.shareTurn q x.hdr p
        let ps := turn.filter fun p => s.outside q x.hdr p || !s.needsTable (s.envAt p q x)
        let (s, y) := ps.foldl (fun (a : State × QEntry) p => State.runShare share q x a p) (s, x)
        let s := ps.foldl (fun (s : State) p => s.afterShare q x p) s
        s.updHead q fun _ => { y with
          phase := if ps.length == left.length then .ran else if ps.length < turn.length then .table else .ready }

/-- Whether the header behind a product is an ACT that is fused into it at a pier (R315): its a names the descriptor of the product's d,
its table is elementwise, and the cores that drain the product there have no store (DESIGN CHOICE: all of them; log 98). -/
def State.fuses (s : State) (x n : QEntry) (e : Env) : Bool :=
  n.hdr.opcode == 8 && refOn n.hdr.refA && refAddr n.hdr.refA == refAddr x.hdr.refD &&
  (let cs := s.tableCores e
   !cs.isEmpty && cs.all fun c => (s.store e.p c).isNone &&
     (let t := s.tabEntry e.p c (fld n.hdr.imm 5 0)
      t.kind == 1 && builtinOn t.builtin))

/-- What a product's drains converted, with the guesses settled as its share settles them. -/
def State.productFused (s : State) (e : Env) : List FusedEl :=
  let r := s.productRun e true
  if r.1.marked.all fun t => s.agrees e.p t r.1.wrote then r.2 else (s.productRun e false).2

/-- The shares of a product run, and, for an ACT right behind it that is fused into it, what those drains converted (R315). -/
def State.runProduct (s : State) (q : QKey) (op : Nat) : State :=
  let s' := s.runOp q op State.productShare
  match s.queue q, s'.queue q with
  | x :: n :: _, y :: z :: rest =>
    let fs := (y.piers.filter fun p => !x.piers.contains p && !s.outside q x.hdr p).flatMap fun p =>
      let e := s.envAt p q x
      if s.fuses x n e then s.productFused e else []
    if fs.isEmpty then s' else s'.setQueue q (y :: { z with fused := z.fused ++ fs } :: rest)
  | _, _ => s'

/-- A pier's share of ACT, fused or not (R308 to R312, R315). -/
def State.actShare (s : State) (e : Env) : Out := s.actFused e (s.fusedFor e)

def execMmul (q : QKey) (s : State) : Host.Outcome State Fault Refusal := .next (s.runProduct q 0x01)
def execSpmm (q : QKey) (s : State) : Host.Outcome State Fault Refusal := .next (s.runProduct q 0x02)
def execSpmmt (q : QKey) (s : State) : Host.Outcome State Fault Refusal := .next (s.runProduct q 0x03)
def execSddmm (q : QKey) (s : State) : Host.Outcome State Fault Refusal := .next (s.runProduct q 0x04)
def execTcopy (q : QKey) (s : State) : Host.Outcome State Fault Refusal := .next (s.runOp q 0x05 State.tcopyShare)
def execRownorm (q : QKey) (s : State) : Host.Outcome State Fault Refusal := .next (s.runOp q 0x06 State.rownormShare)
def execRowsoftmax (q : QKey) (s : State) : Host.Outcome State Fault Refusal := .next (s.runOp q 0x07 State.rowsoftmaxShare)
def execAct (q : QKey) (s : State) : Host.Outcome State Fault Refusal := .next (s.runOp q 0x08 State.actShare)
def execReduce (q : QKey) (s : State) : Host.Outcome State Fault Refusal := .next (s.runOp q 0x09 State.reduceShare)
def execTopk (q : QKey) (s : State) : Host.Outcome State Fault Refusal := .next (s.runOp q 0x0A State.topkShare)
def execPack (q : QKey) (s : State) : Host.Outcome State Fault Refusal := .next (s.runOp q 0x0B State.packShare)
def execPrune (q : QKey) (s : State) : Host.Outcome State Fault Refusal := .next (s.runOp q 0x0C State.pruneShare)
def execRegrow (q : QKey) (s : State) : Host.Outcome State Fault Refusal := .next (s.runOp q 0x0D State.regrowShare)
def execUpdate (q : QKey) (s : State) : Host.Outcome State Fault Refusal := .next (s.runOp q 0x0E State.updateShare)
def execDmask (q : QKey) (s : State) : Host.Outcome State Fault Refusal := .next (s.runOp q 0x0F State.dmaskShare)
def execCkpt (q : QKey) (s : State) : Host.Outcome State Fault Refusal := .next (s.runOp q 0x10 State.ckptShare)
def execExport (q : QKey) (s : State) : Host.Outcome State Fault Refusal := .next (s.runOp q 0x11 State.exportShare)
def execMove (q : QKey) (s : State) : Host.Outcome State Fault Refusal := .next (s.runOp q 0x12 State.moveShare)

/-- WAIT has no work beyond its header's wait and invalidation (R56). -/
def State.noShare (s : State) (_ : Env) : Out := Out.of s
def execWait (q : QKey) (s : State) : Host.Outcome State Fault Refusal := .next (s.runOp q 0x14 State.noShare)

/-- The keystone requester port of a header's sequencer (R412). -/
def State.keyFrom (s : State) (h : Header) : KeyFrom :=
  let u := h.unit
  match unitLevel u with
  | 0 | 1 | 2 => .pier (pierOf (fld u 12 10)) (if h.stream == 3 then 5 else fld u 9 8)
  | 3 => .pier (pierOf (fld u 12 10)) (if h.stream == 3 then 5 else 4)
  | _ => .pier s.seqCorner 4

/-- SIGNAL: the signal itself is applied on completion (R53), but a test-and-set is sent now, and the header awaits its answer: the
prior value is one of its writes (R50), made by the pier that owns the element. It waits until each pier takes its share (R295). A pier outside the class of a G header of the module
does not perform its share (R62); the test-and-set is applied all the same (R63). -/
def State.runSignal (s : State) (q : QKey) : State :=
  match s.head q with
  | none => s
  | some x =>
    let h := x.hdr
    if x.phase != .ready || h.opcode != 0x13 || s.heldBack q h x.policy x.ops then s
    else
    let s := s.beginShares q
    if !(x.shares.all fun p => (match s.head q with | some y => y.begun.contains p | none => false) && s.shareTurn q h p) then s
    else if h.sigEn && h.sigOp == 2 then
      let outside := x.shares.filter fun p => s.outside q h p
      let s := outside.foldl (fun (s : State) p => s.headerAnomaly p h) s
      let s := x.shares.foldl (fun (s : State) p => s.afterShare q x p) s
      let ans : TasAnswer := if refOn h.refD && outside.isEmpty then .element (x.ops.getD 0 .zero) q else .signal q
      let s := s.updHead q fun y => { y with
        phase := .ran, jobs := 1, piers := y.shares, status := if outside.isEmpty then y.status else 1 }
      s.sendKey (s.keyFrom h) h.sigKey 2 h.sigOperand ans
    else (x.shares.foldl (fun (s : State) p => s.afterShare q x p) s).updHead q fun y => { y with phase := .ran, piers := y.shares }

def execSignal (q : QKey) (s : State) : Host.Outcome State Fault Refusal := .next (s.runSignal q)

/-- TABLE_STORE_AVAILABLE (R317): a header that waited for a table store goes on once no core that is left needs it. -/
def State.tableReady (s : State) (q : QKey) : State :=
  match s.head q with
  | none => s
  | some x =>
    if x.phase != .table then s
    else if x.shares.any fun p => x.begun.contains p && !x.piers.contains p && s.needsTable (s.envAt p q x) then s
    else s.updHead q fun y => { y with phase := .ready }

def execTableStoreAvailable (q : QKey) (s : State) : Host.Outcome State Fault Refusal := .next (s.tableReady q)

/-! ## Completion -/

/-- The header at the head of a queue gone from it, and from its sequencer (R108). -/
def State.leave (s : State) (q : QKey) : State :=
  let s := s.popHead q
  if inPierQueue q then s.updPier (s.queuePier q) (·.leaveLines [queueSeq q] q.stream.val q) else s

/-- What a header's completion writes before its signal: figures (R202, R256), and its lines out of the unit's bed caches (R375). -/
def State.closeHeader (s : State) (x : QEntry) : State :=
  let h := x.hdr
  let lines := x.lines ++ x.stats.filterMap s.statLine ++ x.sparse.filterMap s.sparseLine
  let s := x.stats.foldl (fun (s : State) f => s.combineStat x.epoch h.seq f) s
  let s := x.sparse.foldl (fun (s : State) f => s.combineSparse x.epoch h.seq f) s
  s.dropBed h.unit (some lines)

/-- What follows its signal: U work noted (R387), its record (R47, R458), its request (R426). -/
def State.reportHeader (s : State) (x : QEntry) : State :=
  let h := x.hdr
  let s := if h.stream == 3 then x.piers.foldl (fun (s : State) p => { s with uRan := s.uRan.set p.val 1 }) s else s
  match x.origin with
  | .host port tag => if h.report then s.send port ⟨0x13, tag.toNat, 0, State.badUnit.completion h x.status s.tick⟩ else s
  | .departed port => if h.report then s.bump (plmbReg port 0x10) 1 else s
  | .request n => s.requestStep n x.status
  | .image => s

/-- The signal that a header's completion sends (R53, R63): its own; of a malformed SIGNAL its test-and-set too; none where sig_op is
reserved or a test-and-set stands outside SIGNAL. A test-and-set that SIGNAL performed has been sent already. -/
def QEntry.signal (x : QEntry) : Option Nat :=
  let h := x.hdr
  if !h.sigEn || h.signalBad then none
  else if h.sigOp < 2 then some h.sigOp
  else if x.malformed then some 2 else none

/-- HEADER_COMPLETE (R38, R53): once it has run and no pass of it is owed, its writes are closed and its signal is sent; when that has
been applied, or at once where it sends none, its record goes and the next header has its turn. -/
def State.completeHead (s : State) (q : QKey) : State :=
  match s.head q with
  | none => s
  | some x =>
    if x.phase != .ran || x.jobs != 0 then s
    else
      let s := s.closeHeader x
      match x.signal with
      | some kind => (s.updHead q fun y => { y with phase := .closing }).sendKey (s.keyFrom x.hdr) x.hdr.sigKey kind x.hdr.sigOperand (.signal q)
      | none => (s.reportHeader x).leave q

/-- A header's signal, or the test-and-set that SIGNAL performs, has been applied at its keystone (R38, R50, R53). -/
def State.signalled (s : State) (q : QKey) : State :=
  match s.head q with
  | none => s
  | some x =>
    if x.phase == .closing then (s.reportHeader x).leave q
    else if x.phase == .ran && x.hdr.opcode == 0x13 then s.jobDone q [] []
    else s

def execHeaderComplete (q : QKey) (s : State) : Host.Outcome State Fault Refusal := .next (s.completeHead q)

end Sys2Proof.Machine
end

