-- ==== Sys2Proof/Machine/Courses.lean ====
section
/-! DEFINITION. What happens at the courses of a pier: slots of the bond pattern (R293, R294), stationary buffers (R84 to
R87), corbel state (R104, R105), list scans (R233), table stores (R305, R314); sleep and wake (R432 to R436) and the
crossings of a reset domain (R429, R430). -/

namespace Sys2Proof.Machine

/-! ## Slots, tiles, rows and scans -/

/-- SLOT_CHANGE (R293, R294). -/
def execSlotChange (p : PierId) (s : State) : Host.Outcome State Fault Refusal := .next (s.nextSlot p)

/-- STATIONARY_TILE_LOADED (R86, R87, R106, R233): a link's tile is in its buffer; the first link's rows may start, another's once
their state has arrived. -/
def execStationaryTileLoaded (c : CourseId) (stream : Fin 3) (s : State) : Host.Outcome State Fault Refusal :=
  .next (s.tileLoaded c.pier c.course.val stream.val)

/-- CORBEL_STATE_ARRIVAL (R104, R105): the next row's whole state reaches a link that is not the first; with its tile in place the row
starts. -/
def execCorbelStateArrival (c : CourseId) (stream : Fin 3) (row : Nat) (s : State) : Host.Outcome State Fault Refusal :=
  .next (s.stateArrival c.pier c.course.val stream.val row)

/-- LIST_SCAN_CLOSE (R233): the scan has closed a tile's range or a row band's block row, and what waited on it may start. -/
def execListScanClose (c : CourseId) (stream : Fin 3) (s : State) : Host.Outcome State Fault Refusal :=
  .next (s.scanClose c.pier c.course.val stream.val)

/-! ## Table stores -/

/-- A core's number in its pier. -/
def coreNo (c : CoreId) : Nat := c.course.val * 16 + c.core.val

/-- The 32,768 bytes of a pier's table block, as listed cells from 0; bytes homed elsewhere or nowhere read zero (R305,
R372). -/
def State.tableBlock (s : State) (p : PierId) : List Host.Cell :=
  let a := (s.pier p).cfg.tableAt
  (s.mem.filter fun c => a ≤ c.1 && c.1 < a + 32768 && s.memHome c.1 == some p).map fun c => (c.1 - a, c.2)

/-- TABLE_STORE_LOAD (R305, R314): a core's store filled from the block, and available, while an image is loaded, the course runs (R34) and the
store is not being sounded. -/
def State.loadStore (s : State) (c : CoreId) : State :=
  if !s.func.loaded || !s.courseRuns ⟨c.pier, c.course⟩ || s.coreSounded c.pier (coreNo c) then s
  else
    let n := coreNo c
    let bs := s.tableBlock c.pier
    s.updPier c.pier fun pr => { pr with stores := ⟨n, true, bs⟩ :: pr.stores.filter (fun t => t.core != n) }

def execTableStoreLoad (c : CoreId) (s : State) : Host.Outcome State Fault Refusal := .next (s.loadStore c)

/-! ## Sleep -/

/-- Whether a unit covers a course of a pier (R26). -/
def unitCovers (u : Nat) (p : PierId) (c : Nat) : Bool := (unitPiers u).contains p && (unitCourses u).contains c

/-- Whether a header or share is queued at a course or in progress on it (R432). -/
def State.courseBusy (s : State) (c : CourseId) : Bool :=
  (List.range 3).any fun n => !((s.pier c.pier).line c.course.val n).isEmpty

/-- Whether a header or share of some stream is in progress on a course (R111): a share from its entry at the course, a header of the
course or of a core once it has started. -/
def State.courseRunning (s : State) (c : CourseId) : Bool :=
  (List.range 3).any fun n => ((s.pier c.pier).line c.course.val n).any fun q =>
    !atCourse q || (match s.head q with | some x => x.busy | none => false)

/-- The idle holds of PIER_SLEEP in whole pilot ticks: of a course, from units of 256 course cycles, 26 to a tick; of the pier (R34,
R431). -/
def PierCfg.courseIdle (c : PierCfg) : Nat := cdiv (256 * fld c.sleep.toNat 15 0) 26
def PierCfg.pierIdle (c : PierCfg) : Nat := fld c.sleep.toNat 47 16

/-- COURSE_SLEEP (R431, R432): a course that has been idle for the whole of its window, which begins with the tick after the one in which
it was last busy (DESIGN CHOICE; log 17), gates its clock; bed memory and table stores are kept. -/
def State.courseSleep (s : State) (c : CourseId) : State :=
  let pr := s.pier c.pier
  if pr.cfg.courseIdle == 0 || s.courseBusy c || s.tick < pr.courseStir.get c.course.val + 1 + pr.cfg.courseIdle then s
  else s.updPier c.pier fun pr => { pr with coursesAwake := pr.coursesAwake.filter (· != c.course.val) }

def execCourseSleep (c : CourseId) (s : State) : Host.Outcome State Fault Refusal := .next (s.courseSleep c)

/-- Whether a pier has anything to do (R433). -/
def State.pierBusy (s : State) (p : PierId) : Bool :=
  let pr := s.pier p
  !pr.coursesAwake.isEmpty ||
  s.queues.any (fun q =>
    let u := q.key.unit.toNat
    (unitLevel u ≤ 3 && pierOf (fld u 12 10) == p && !q.entries.isEmpty) ||
    (unitLevel u > 3 && (match q.entries with | x :: _ => x.busy && x.shares.contains p | [] => false))) ||
  pr.masons.any (fun m => !m.waits) || !pr.jobs.isEmpty || !pr.applies.isEmpty || pr.ckpt.isSome ||
  !pr.keyArriving.isEmpty || !pr.keyDeferred.isEmpty ||
  (match cornerQuoin p with
    | some q => !(s.quoin q).queue.isEmpty || !(s.quoin q).placing.isEmpty
    | none => false) ||
  s.tick ≤ s.commit.get p.val

/-- Dirty CXL lines of a pier written back (R378, R433). -/
def State.cleanCxl (s : State) (p : PierId) : State :=
  s.updPier p fun pr => { pr with mortar := pr.mortar.map fun l => match s.place l.line with
    | .cxl _ _ => { l with dirty := false, under := none }
    | _ => l }

/-- PIER_SLEEP (R431, R433), after a whole window likewise: memory, mortar and keystones are kept. -/
def State.pierSleep (s : State) (p : PierId) : State :=
  let idle := (s.pier p).cfg.pierIdle
  if !(s.pier p).awake || idle == 0 || s.pierBusy p || s.tick < (s.pier p).stirred + 1 + idle then s
  else s.runChange ((s.cleanCxl p).updPier p fun pr => { pr with awake := false })

def execPierSleep (p : PierId) (s : State) : Host.Outcome State Fault Refusal := .next (s.pierSleep p)

/-- What a pier is at as a tick begins noted for its idle windows and its courses' (R432, R433). -/
def State.stirTick (s : State) (p : PierId) : State :=
  let busy := (s.pier p).coursesAwake.filter fun c => s.courseBusy (courseId p c)
  let s := s.updPier p fun pr => busy.foldl (fun (pr : Pier) c => pr.stirCourse c (s.tick + 1)) pr
  if s.pierBusy p then s.updPier p (·.stir (s.tick + 1)) else s

/-! ## Wake -/

/-- Whether a domain may run: the main regulators are on and it has not been declared failed (R438, R510). -/
def State.mayRun (s : State) (p : PierId) (d : Domain) : Bool :=
  s.power.regulators && !(s.pier p).failed.contains (domainNo d)

/-- PIER_WAKE (R435): what waited at its crossings has crossed; the bond position starts at 0 (R293). -/
def State.pierWake (s : State) (p : PierId) : State :=
  if s.mayRun p (.mortar p) then s.wakePier p else s

def execPierWake (p : PierId) (s : State) : Host.Outcome State Fault Refusal := .next (s.pierWake p)

/-- COURSE_WAKE (R434): with its pier, if that sleeps. -/
def State.courseWake (s : State) (c : CourseId) : State :=
  if s.mayRun c.pier (.mortar c.pier) && s.mayRun c.pier (.course c) then s.wakeCourse c else s

def execCourseWake (c : CourseId) (s : State) : Host.Outcome State Fault Refusal := .next (s.courseWake c)

/-- REPOINTING_WAKE (R436): the same steps as any other wake. -/
def execRepointingWake (p : PierId) (course : Option (Fin 48)) (s : State) : Host.Outcome State Fault Refusal :=
  match course with
  | none => .next (s.pierWake p)
  | some c => .next (s.courseWake ⟨p, c⟩)

/-! ## Crossings of a reset domain -/

/-- Whether a domain's crossings to its mortar are in-pier crossings (R428). -/
def inPier : Domain → Bool
  | .course _ | .mason _ _ => true
  | _ => false

/-- IN_PIER_RESET_FLUSH (R429): the surviving side discards what it held for the reset side; headers in the queues above it,
and writes accepted, stay (R486). -/
def execInPierResetFlush (d : Domain) (s : State) : Host.Outcome State Fault Refusal :=
  .next (if inPier d then { s with crossHeld := clearCross s.crossHeld (domainNo d) } else s)

/-- BOUNDARY_RESYNC (R430): both pointers zero, then the held entries sent again in order. -/
def execBoundaryResync (d : Domain) (s : State) : Host.Outcome State Fault Refusal :=
  .next (if inPier d then s else ({ s with crossPtr := s.crossPtr.set (domainNo d) 0 }).deliver d)

end Sys2Proof.Machine
end

