-- ==== Sys2Proof/Machine/Keystones.lean ====
section
/-! DEFINITION. Keystones: the order of the operations of one mortar cycle and the deferred test-and-sets (R412), what sees
the value at the cycle's end (R413, R460), the step keystone (R416) and the advance of the step (R342). -/

namespace Sys2Proof.Machine

/-! ## Rotation (R409) -/

/-- Requester ports of a keystone block (R412). -/
def keyPorts : Nat := 20

/-- Operations in rotation order from a pointer; one port's keep their order. -/
def rotated (ptr : Nat) (ops : List KeyOp) : List KeyOp :=
  sortBy (fun (a b : KeyOp) => (a.port + keyPorts - ptr) % keyPorts < (b.port + keyPorts - ptr) % keyPorts) ops

/-! ## One mortar cycle of one keystone -/

/-- What a keystone's cycle leaves: its value, the two pointers, the deferred test-and-sets, and the one served with the
value that it found. -/
structure KeyCycle where
  value : Nat
  setPtr : Nat
  tasPtr : Nat
  deferred : List KeyOp
  served : Option (KeyOp × Nat)
  deriving DecidableEq, Repr

/-- Step 2 of R412: one test-and-set on a value. -/
def tasStep (v : Nat) (op : KeyOp) : Nat := if v == 0 then op.operand else v

/-- The three steps of R412 on the operations that arrive in one cycle. -/
def keyCycle (v setPtr tasPtr : Nat) (deferred arriving : List KeyOp) : KeyCycle :=
  let sets := rotated setPtr (arriving.filter (fun o => o.kind == 1))
  let tas := rotated tasPtr (arriving.filter (fun o => o.kind == 2))
  let adds := arriving.filter (fun o => o.kind == 0)
  let (v, setPtr) := match sets.head? with
    | some o => (o.operand, (o.port + 1) % keyPorts)
    | none => (v, setPtr)
  let (v, tasPtr, deferred, served) := match deferred, tas with
    | d :: ds, _ => (tasStep v d, tasPtr, ds ++ tas, some (d, v))
    | [], o :: os => (tasStep v o, (o.port + 1) % keyPorts, os, some (o, v))
    | [], [] => (v, tasPtr, [], none)
  ⟨(v + adds.foldl (fun n o => n + o.operand) 0) % 0x1_0000_0000, setPtr, tasPtr, deferred, served⟩

/-- The operations of a keystone that arrive in one cycle: the oldest of each port, since a port presents one operation in a
cycle (log 33); and the rest. -/
def takeArriving (k : Nat) : List Nat → List KeyOp → List KeyOp × List KeyOp
  | _, [] => ([], [])
  | ports, o :: os =>
    if o.key % 4096 == k && !ports.contains o.port then
      let r := takeArriving k (o.port :: ports) os
      (o :: r.1, r.2)
    else
      let r := takeArriving k ports os
      (r.1, o :: r.2)

/-! ## Answers of a test-and-set -/

/-- The prior value written to d as one u32 element at (0, 0, 0, 0) by the pier that runs the SIGNAL's share (R50). -/
def State.tasElement (s : State) (t : Tens) (q : QKey) (prior : Nat) : State :=
  match s.head q with
  | none => s
  | some x =>
    let t := t.ver x.policy
    let p := x.shares.headD (s.queuePier q)
    let o := s.settle (s.envAt p q x) .mortar false t.tid (Met.none.meta t.missing) [⟨0, t.u32Loc p 0 0 0 0, prior, 0⟩]
    o.s.jobDone q o.lines []

/-- The packets of an answer from a keystone's pier to a port's quoin (R22). -/
def State.backTo (s : State) (src : Source) (p : PierId) : State :=
  match src with
  | .host t _ | .gone t => s.sendPackets (backEdges (portQuoin t) p) 1
  | _ => s

/-- The pier that runs a SIGNAL's share, where the answer of its test-and-set goes, and which wakes for it (R22, R435). -/
def State.tasHome (s : State) (q : QKey) (p : PierId) : State :=
  match s.head q with
  | some x => let r := x.shares.headD (s.queuePier q); (s.wakePier r).sendPackets (pathEdges p r) 1
  | none => s

/-- What is told of an operation that a keystone of a pier has taken. -/
def State.answerTas (s : State) (p : PierId) (a : TasAnswer) (prior : Nat) : State :=
  match a with
  | .none => s
  | .element d q => (s.tasHome q p).tasElement d q prior
  | .signal q => s.signalled q
  | .access src => (s.backTo src p).answerRead src 0 8 prior
  | .ack src => (s.backTo src p).answerWrite src 0

/-- What is told of an operation that the crossing into a failed pier refuses (R438): a read returns zero with error status, a write is
discarded, a SIGNAL's header ends with error. -/
def State.refuseTas (s : State) (a : TasAnswer) : State :=
  match a with
  | .none => s
  | .element _ q => (s.jobDone q [] []).updHead q fun x => { x with status := 1 }
  | .signal q => s.signalled q
  | .access src => s.answerRead src 1 8 0
  | .ack src => s.answerWrite src 1

/-- The operations that wait at the keystones of a failed pier refused (R438). -/
def State.refuseKeys (s : State) (p : PierId) : State :=
  let ops := (s.pier p).keyDeferred ++ (s.pier p).keyArriving
  ops.foldl (fun (s : State) o => s.refuseTas o.answer) (s.updPier p fun pr => { pr with keyDeferred := [], keyArriving := [] })

/-! ## The step keystone (R415, R416) -/

/-- The register fields of KEY_STEP on a pier: key, enable, arrivals (0 acts as 1). -/
def PierCfg.stepKey (c : PierCfg) : Nat := fld c.keyStep.toNat 14 0
def PierCfg.stepOn (c : PierCfg) : Bool := bitAt c.keyStep.toNat 15
def PierCfg.stepArrivals (c : PierCfg) : Nat := max 1 (fld c.keyStep.toNat 63 32)

/-- The record of a changed channel map (R382, R530). -/
def State.mapEvent (s : State) (p : PierId) : State :=
  s.event 0x05 (p.val + 2 ^ 32 * ((s.pier p).chanMap.toNat % 2 ^ 26))

/-- The record of a spare taken into use (R492, R497; log 34). -/
def State.spareRecord (s : State) (unitKind unit die new old : Nat) : State :=
  s.log { errorRecord 0x07 2 unitKind 6 unit s.tick with die := die, physical := old, detail0 := new, detail1 := old }

/-- Steps 1 to 4 of an evacuation begun (R387): evac_src and evac 1. -/
def State.evacuate (s : State) (p : PierId) (l : Nat) : State :=
  (s.updPier p fun pr =>
    { pr with chanMap := BitVec.ofNat 64 (setFld (setFld pr.chanMap.toNat 25 23 l) 22 21 1) }).mapEvent p

/-- A pier left with a lasting fault or a unit that its partner serves (R493). -/
def State.degrade (s : State) (p : PierId) : State :=
  { s.updPier p fun pr => { pr with spareStatus := pr.spareStatus ||| 0x100_0000 } with
    degraded := if s.degraded.contains p.val then s.degraded else s.degraded ++ [p.val] }

/-- A lasting fault of a physical channel (R387, R388): its logical channel is evacuated, waits for the evacuation in
progress, or stays in service; and the response that names it (R497). A channel that serves none leaves nothing to do. -/
def State.channelLasting (s : State) (p : PierId) (phys : Nat) : Nat × State :=
  let w := (s.pier p).chanMap.toNat
  match findUp (fun l => fld w (3 * l + 2) (3 * l) == phys) 0 6 with
  | none => (0, s)
  | some l =>
    if fld w 20 18 == 7 then (11, s.degrade p)
    else if fld w 22 21 != 0 then (5, s.updPier p fun pr => { pr with evacNext := some phys })
    else (7, s.evacuate p l)

/-- A repair on a pier, which delays the requests of a class by so many ticks (R494), noted as the cause of a late notice for the
undelivered requests whose M_c it outlasts, where no other cause is known (R427). -/
def State.noteRepair (s : State) (p : PierId) (unit : Nat) (delay : Nat → Nat) : State :=
  { s with requests := s.requests.map fun r =>
    if r.delivered || r.cause != 0 || !s.classHas r.cls p || delay r.cls ≤ s.classMargin r.cls then r
    else { r with cause := 1, unit := unit } }

/-- Step 5 of an evacuation (R387, R493): the spare takes the channel's place in the map, which ends the failure of its
domain (R438); the repairs that waited for the swap are made (R356); then a fault that waited is answered. How long the evacuation
has delayed a request depends on the bytes of its work, Y_c, which no field gives (R494): a free value by class (log 101). -/
def State.evacuationSwitch (s : State) (p : PierId) : State :=
  let w := (s.pier p).chanMap.toNat
  if fld w 22 21 != 2 then s
  else
    let l := fld w 25 23
    let old := fld w (3 * l + 2) (3 * l)
    let new := fld w 20 18
    let w := setFld w (3 * l + 2) (3 * l) new
    let next := (s.pier p).evacNext
    let s := s.updPier p fun pr => { pr with
      chanMap := BitVec.ofNat 64 (setFld (setFld w 20 18 7) 22 21 0)
      spareStatus := pr.spareStatus ||| 0x100
      failed := pr.failed.filter fun n => n != 600 + 7 * p.val + old
      evacNext := none }
    let n := s.free
    let s := (({ s with free := n + 64 } : State).spareRecord 4 (pierUnit p) p.val new old).mapEvent p
    let s := (s.swapDone p).noteRepair p (pierUnit p) fun c => Config.freeNat (n + c)
    match next with
    | some phys => (s.channelLasting p phys).2
    | none => s

/-- The step keystone tested, unless a completion is still to be applied: a target reached completes now (R416). -/
def State.stepTest (s : State) : State :=
  let c := (s.pier 0).cfg
  if !c.stepOn || s.stepDone.isSome then s
  else if waitMet 0 (s.keyValue c.stepKey) (s.stepBase + c.stepArrivals) then
    let s := { s with stepDone := some s.tick, stepBase := (s.stepBase + c.stepArrivals) % 0x1_0000_0000 }
    allPiers.foldl (fun (s : State) p => s.evacuationSwitch p) s
  else s

/-- A pier's epoch and policy one further, its generators seeded for the new epoch (R177, R342). -/
def Pier.advance (p : Pier) : Pier :=
  { p with
    epoch := (p.epoch + 1) % 0x1_0000_0000, policy := (p.policy + 1) % 0x1_0000_0000, 
    draws := reseedDraws p.draws (p.epoch + 1), trowelDraws := reseedTrowel p.trowelDraws (p.epoch + 1) }

/-- A quoin's generators seeded for a new epoch (R177). -/
def Quoin.reseed (q : Quoin) : Quoin := { q with draws := [] }

/-- STEP_ADVANCE (R342, R416): epoch and policy of every pier one further, the generators seeded for the new epoch (R177). -/
def State.stepAdvance (s : State) : State :=
  match s.stepDone with
  | none => s
  | some t =>
    if s.tick < t + 64 then s
    else
      let s := allPiers.foldl (fun (s : State) p => s.updPier p (·.advance)) s
      let s := ([0, 1, 2, 3] : List QuoinId).foldl (fun (s : State) q => s.updQuoin q (·.reseed)) s
      ({ s with stepDone := none }).stepTest

def execStepAdvance (s : State) : Host.Outcome State Fault Refusal := .next s.stepAdvance

/-! ## A cycle applied -/

/-- What sees a keystone's value at the end of a cycle: headers that wait at the head of their queues, and watches (R413,
R460). -/
def State.keySeen (s : State) (k : Nat) : State :=
  let v := s.keyValue k
  let sees : QEntry → Bool := fun x =>
    x.phase == .waiting && x.hdr.waitKey == k && waitMet x.hdr.waitCond v x.hdr.waitValue
  let s := { s with queues := s.queues.map fun q => match q.entries with
    | x :: xs => if sees x then { q with entries := { x with phase := .met } :: xs } else q
    | [] => q }
  allPorts.foldl (fun (s : State) p => s.updPort p fun pt => { pt with
    watches := pt.watches.map fun w => if w.key == k && waitMet w.cond v w.value then { w with met := true } else w }) s

/-- A cycle's outcome put in place: the headers whose adds and sets it took, a losing set's too, have sent their signals, and its
test-and-set is answered. -/
def State.keyApply (s : State) (key : Nat) (c : KeyCycle) (now arriving : List KeyOp) : State :=
  let p := keyPier key
  let k := keyLocal key
  let s := s.updPier p fun pr => { pr.setKey k c.value with
    keyRot := (pr.keyRot.set (2 * k) c.setPtr).set (2 * k + 1) c.tasPtr
    keyDeferred := pr.keyDeferred.filter (fun o => keyLocal o.key != k) ++ c.deferred
    keyArriving := arriving }
  let s := (now.filter fun o => o.kind != 2).foldl (fun (s : State) o => s.answerTas p o.answer 0) s
  let s := match c.served with
    | some (o, prior) => s.answerTas p o.answer prior
    | none => s
  let s := s.keySeen key
  if key == (s.pier 0).cfg.stepKey then s.stepTest else s

/-- One mortar cycle of a keystone: what has arrived for it, and its oldest deferred test-and-set (R412), while its mortar domain runs
(R34), which an arriving packet wakes (R435); of a failed one, the crossings refuse what comes (R438). -/
def State.keyUpdate (s : State) (key : Nat) : State :=
  let p := keyPier key
  let k := keyLocal key
  let pr := s.pier p
  let (now, rest) := takeArriving k [] pr.keyArriving
  let deferred := pr.keyDeferred.filter (fun o => keyLocal o.key == k)
  if s.deadPier p then s.refuseKeys p
  else if now.isEmpty && deferred.isEmpty then s
  else
    (s.wakePier p).keyApply key (keyCycle (pr.keyAt k) (pr.keyRot.get (2 * k)) (pr.keyRot.get (2 * k + 1)) deferred now) now rest

/-- A mortar cycle in which nothing arrives for the keystone: its oldest deferred test-and-set (R412), while its mortar domain runs (R34). -/
def State.keyDeferredStep (s : State) (key : Nat) : State :=
  let k := keyLocal key
  let pr := s.pier (keyPier key)
  let deferred := pr.keyDeferred.filter (fun o => keyLocal o.key == k)
  if deferred.isEmpty || !s.runs (keyPier key) then s
  else s.keyApply key (keyCycle (pr.keyAt k) (pr.keyRot.get (2 * k)) (pr.keyRot.get (2 * k + 1)) deferred []) [] pr.keyArriving

/-- A mortar cycle that is one test-and-set with operand 1, which leaves what has been deferred and what arrives as it is (log 99). -/
def State.keyTas (s : State) (key : Nat) : State :=
  let pr := s.pier (keyPier key)
  let k := keyLocal key
  s.keyApply key ⟨if pr.keyAt k == 0 then 1 else pr.keyAt k, pr.keyRot.get (2 * k), pr.keyRot.get (2 * k + 1),
    pr.keyDeferred.filter fun o => keyLocal o.key == k, none⟩ [] pr.keyArriving

/-- Headers that wait on a keystone at the head of a queue (R410). -/
def State.keyWaiters (s : State) (k : Nat) : Nat :=
  (s.queues.filter fun q => match q.entries with
    | x :: _ => x.phase == .waiting && x.hdr.waitEn && x.hdr.waitKey == k
    | [] => false).length

end Sys2Proof.Machine
end

