-- ==== Sys2Proof/Machine/Memory.lean ====
section
/-! DEFINITION. Code word errors and their first response (R384 to R386, R484, R485), repointing (R403, R404), run-ahead
fetches (R399 to R401), evacuation (R387) and the CXL tier's arrivals and departures (R389 to R392). -/

namespace Sys2Proof.Machine

/-! ## Code word errors -/

/-- A line marked poisoned (R386); addresses rising. -/
def State.poisonLine (s : State) (line : Nat) : State :=
  if s.poison.contains line then s else { s with poison := insertBy (fun a b => decide (a < b)) line s.poison }

/-- A bank and set of the mortar as the unit that is sounded (R377, R488). -/
def mortarUnit (p : PierId) (line : Nat) : SUnit :=
  let ix := mortIx line
  .mortarSet p ⟨ix / 4096 % 64, Nat.mod_lt _ (by decide)⟩ ⟨ix % 4096, Nat.mod_lt _ (by decide)⟩

/-- The pier (of a Skovlaper its corner pier), die, unit kind, logical unit, physical index, address and sounded unit of an error's place
(R487, R488, R497). -/
structure Spot where
  pier : PierId
  die : Nat
  kind : Nat
  unit : Nat
  physical : Nat
  addr : Nat
  sounded : Option SUnit
  deriving DecidableEq, Repr

def State.coreSpot (s : State) (c : CoreId) (addr : Nat) : Spot :=
  ⟨c.pier, c.pier.val, 0, coreUnit c, (s.pier c.pier).physCore c.course.val c.core.val, addr, some (.core c)⟩

def State.spotOf (s : State) : EccPlace → Spot
  | .bed c a => s.coreSpot c (lineOf a)
  | .stationary c | .accumulator c _ | .tableStore c => s.coreSpot c 0
  | .mortar p a =>
    let way := match (s.pier p).mortar.find? (fun l => l.line == lineOf a) with | some l => l.way | none => 0
    ⟨p, p.val, 3, pierUnit p, way, lineOf a, some (mortarUnit p (lineOf a))⟩
  | .masonL2 p k a _ => ⟨p, p.val, 8, pierUnit p, (s.pier p).physMason k.val, lineOf a, some (.mason p k)⟩
  | .gddr p a =>
    let (ch, r) := (s.pier p).regionOf (a % 0x4_0000_0000)
    ⟨p, p.val, 4, pierUnit p, ch.val, lineOf a, some (.gddrRegion p ch r)⟩
  | .keystone k _ =>
    let p := keyPier k.val
    ⟨p, p.val, 6, pierUnit p, 0, 0, some (.keyBlock p)⟩
  | .checkLine p ch line => ⟨p, p.val, 4, pierUnit p, ch.val, 0, some (.gddrRegion p ch (64 * line / 0x10_0000))⟩
  | .cxlPoison q a =>
    let p := cornerPier (cxlQuoin q)
    ⟨p, p.val, 4, pierUnit p, q.val, lineOf a, none⟩
  | .skovSram d => ⟨cornerPier (if d then 3 else 1), if d then 11 else 9, 13, 0xFFFF, 0, 0, none⟩

/-- Whether the domain in which an error is met runs (R34): a course's, its pier's mortar, a mason core's that works, a Skovlaper's. -/
def State.spotRuns (s : State) : EccPlace → Bool
  | .bed c _ | .stationary c | .accumulator c _ | .tableStore c => s.courseRuns ⟨c.pier, c.course⟩
  | .mortar p _ | .gddr p _ | .checkLine p _ _ => s.runs p
  | .masonL2 p k _ _ => s.runs p && !(s.pier p).failed.contains (domainNo (.mason p k))
  | .keystone k _ => s.runs (keyPier k.val)
  | .cxlPoison q _ => s.runs (cornerPier (cxlQuoin q))
  | .skovSram d => (s.skov d).up

/-- Whether an address lies in a port's present window. -/
def State.inWindow (s : State) (q : Fin 8) (a : Nat) : Bool :=
  match s.place a with
  | .cxl r _ => r == q
  | _ => false

/-- The error counters of a place (R405, R500). -/
def State.eccCount (s : State) (x : EccPlace) (sp : Spot) (corrected : Bool) : State :=
  match x with
  | .gddr _ _ | .checkLine _ _ _ => s.bump (chanReg sp.pier sp.physical (if corrected then 0 else 8)) 1
  | .keystone _ _ | .skovSram _ => s
  | _ => s.bumpPier sp.pier (if corrected then kSramCorrected else kSramUncorrected) 1

/-- An error's record (R497). -/
def State.eccRecord (s : State) (sp : Spot) (cls severity response d0 d1 : Nat) : State :=
  s.log { errorRecord cls severity sp.kind response sp.unit s.tick with
    address := sp.addr, die := sp.die, physical := sp.physical, detail0 := d0, detail1 := d1 }

/-- The row of R485 that an uncorrectable error takes, its severity and response, and its effect. -/
structure First where
  row : Nat
  severity : Nat
  response : Nat
  s : State
  deriving DecidableEq, Repr

/-- What a device line holds (R383). -/
inductive DeviceLine where
  /-- A data line, by module address. -/
  | data (a : Nat)
  /-- A check line, by the module address of the first of its eight data lines. -/
  | check (a : Nat)
  deriving DecidableEq, Repr

/-- What a line of a device holds, by physical channel and device line; none where it serves no logical channel. -/
def State.deviceLine (s : State) (p : PierId) (phys line : Nat) : Option DeviceLine :=
  let m := (s.pier p).chanMap.toNat
  (findUp (fun l => fld m (3 * l + 2) (3 * l) == phys) 0 6).map fun l =>
    let st := line / 3
    let L := (l + 6 - 2 * st % 6) % 6 + 6 * (line % 3)
    if L < 16 then .data (gddrBase p + 1024 * st + 64 * L) else .check (gddrBase p + 1024 * st + 512 * (L - 16))

/-- The data lines of a check line. -/
def State.checkedLines (s : State) (p : PierId) (phys line : Nat) : List Nat :=
  match s.deviceLine p phys line with
  | some (.check a) => (List.range 8).map fun i => a + 64 * i
  | _ => []

/-- Whether a GDDR 7 line belongs to the channel that its pier is evacuating (R387), and whether its copy on the spare is there: once
every line has been copied, or, while they are, of the lines copied so far (log 91). -/
def State.onSpare (s : State) (p : PierId) (line : Nat) : Bool × State :=
  let w := (s.pier p).chanMap.toNat
  let off := line % 0x4_0000_0000
  if fld w 25 23 != (off % 1024 / 64 + 2 * (off / 1024)) % 6 then (false, s)
  else if fld w 22 21 == 2 then (true, s)
  else if fld w 22 21 == 1 then (Config.evacCopied s.free line, { s with free := s.free + 1 })
  else (false, s)

/-- A line out of one core's bed cache. -/
def Pier.dropBedLine (p : Pier) (c : CoreId) (line : Nat) : Pier :=
  { p with
    bed := p.bed.filterMap fun b =>
      if b.course == c.course.val && b.line == line then b.without (2 ^ c.core.val) else some b }

def State.firstResponse (s : State) (x : EccPlace) : First :=
  match x with
  | .bed c a => ⟨2, 2, 2, s.updPier c.pier (·.dropBedLine c (lineOf a))⟩
  | .stationary c => ⟨2, 2, 2, s.updPier c.pier fun pr => { pr with tiles := pr.tiles.filter fun t => t.course != c.course.val }⟩
  | .accumulator c q =>
    let (n, s) := s.takeFree
    ⟨3, 3, 3, match s.head q with
      | some y => if y.phase == .ready || y.phase == .table then s.updHead q fun y => { y with status := 1, bad := some (c, n) }
        else s
      | none => s⟩
  | .tableStore c => ⟨4, 2, 5, s.updPier c.pier fun pr => { pr with
      stores := pr.stores.filter fun t => t.core != coreNo c }⟩
  | .mortar p a =>
    let line := lineOf a
    match (s.pier p).mortar.find? (fun l => l.line == line) with
    | some l =>
      if l.dirty then ⟨5, 3, 3, s.poisonLine line⟩
      else ⟨2, 2, 2, s.updPier p fun pr => { pr with mortar := pr.mortar.filter fun l => l.line != line }⟩
    | none => ⟨2, 2, 2, s⟩
  | .masonL2 _ _ a dirty => if dirty then ⟨5, 3, 3, s.poisonLine (lineOf a)⟩ else ⟨2, 2, 2, s⟩
  | .gddr p a =>
    let r := s.onSpare p (lineOf a)
    if r.1 then ⟨5, 2, 2, r.2⟩ else ⟨5, 3, 3, r.2.poisonLine (lineOf a)⟩
  | .keystone _ _ => ⟨6, 1, 5, s⟩
  | .skovSram _ => ⟨0, 3, 0, s⟩
  | .checkLine p ch line =>
    let (n, s) := s.takeFree
    let ls := s.checkedLines p ch.val line
    ⟨5, 3, 3, ls.foldl (fun (s : State) l => if bitAt (n % 255 + 1) (l / 64 % 8) then s.poisonLine l else s) s⟩
  | .cxlPoison q a => ⟨5, 3, 3, if s.inWindow q a then s.poisonLine (lineOf a) else s⟩

/-- A line that the code corrected written back to where it came from (R386, R485): a GDDR 7 line to its channel. -/
def State.rewriteLine (s : State) (x : EccPlace) : State :=
  match x with
  | .gddr p a => s.updPier p (·.channelWrite (lineOf a) (memRead s.mem (lineOf a) 64))
  | _ => s

/-- The sounding of an error's unit, where it has one (R487, R488). -/
def State.soundSpot (s : State) (sp : Spot) : State :=
  match sp.sounded with
  | some u => s.startSounding u false
  | none => s

/-- CODEWORD_ERROR (R485, R487) in a domain that runs: the first response, then sounding, which is what the record of a corrected error
names as its response where there is a unit to sound. Copies of a keystone that disagree are rewritten
from the majority, which leaves the value (R484). What an uncorrectable word of a Skovlaper's SRAM leads to is not stated: it is recorded,
with row 0 (DESIGN CHOICE; log 100). Of poison that a CXL device returns the read that meets it is counted and its header writes
the record (R386, R389); the module has no unit to sound for it (log 34). -/
def State.codeword (s : State) (x : EccPlace) (res : EccResult) : State :=
  let sp := s.spotOf x
  if !s.spotRuns x then s
  else match x, res with
  | _, .clean => s
  | .keystone k copies, _ =>
    let s := s.updPier sp.pier fun pr => pr.setKey (keyLocal k.val) (pr.keyAt (keyLocal k.val))
    (s.eccRecord sp 0x03 1 5 k.val copies.val).soundSpot sp
  | .cxlPoison _ _, _ => (s.firstResponse x).s
  | _, .corrected symbol syndrome =>
    (((s.rewriteLine x).eccCount x sp true).eccRecord sp 0x01 1 (if sp.sounded.isSome then 5 else 1) symbol syndrome).soundSpot sp
  | _, .uncorrectable syndrome =>
    let f := (s.eccCount x sp false).firstResponse x
    (f.s.eccRecord sp 0x02 f.severity f.response f.row syndrome).soundSpot sp

def execCodewordError (at_ : EccPlace) (res : EccResult) (s : State) : Host.Outcome State Fault Refusal :=
  .next (s.codeword at_ res)

/-! ## Repointing -/

/-- The place of a repointed line in the error response, if it holds anything. The lines of a bed cache stand in it in the order in which
they came (DESIGN CHOICE; log 93). -/
def State.repointPlace (s : State) (u : RepointUnit) (line : Nat) : Option EccPlace :=
  match u with
  | .channel p phys => (s.deviceLine p phys.val line).map fun x => match x with
    | .data a => .gddr p a
    | .check _ => .checkLine p phys line
  | .mortarBank p bank =>
    let ix := 4096 * bank.val + line / 16 % 4096
    ((s.pier p).mortar.find? fun l => mortIx l.line == ix && l.way == line % 16).map fun l => .mortar p l.line
  | .bedBank c b =>
    let pr := s.pier c.pier
    match pr.cfg.bedRegion (64 * (16 * line + b.val)) with
    | .buffer n _ => if pr.tiles.any fun t => t.course == c.course.val && t.buf == n then some (.stationary c) else none
    | .spill _ => (pr.walks.find? fun w => w.course == c.course.val).map fun w => .accumulator c w.q
    | .cache off => ((pr.bed.filter fun x => x.course == c.course.val && x.inCore c.core.val)[off / 64]?).map fun x => .bed c x.line

/-- Whether the domain of a repointed unit runs (R34). -/
def State.repointRuns (s : State) : RepointUnit → Bool
  | .channel p _ | .mortarBank p _ => s.runs p
  | .bedBank c _ => s.courseRuns ⟨c.pier, c.course⟩

/-- The repointing table's entry of a unit: channels from 0, mortar banks from 16, bed banks from 128. -/
def repointIx : RepointUnit → PierId × Nat × Nat
  | .channel p ch => (p, ch.val, 50331648)
  | .mortarBank p b => (p, 16 + b.val, 65536)
  | .bedBank c b => (c.pier, 128 + 16 * coreNo c + b.val, 256)

/-- An uncorrectable line marked poisoned where repointing, unlike the first response to an access, marks it: a clean mortar line, a line
of a bed cache (R404). -/
def State.repointPoison (s : State) (x : EccPlace) (res : EccResult) : State :=
  match x, res with
  | .mortar _ a, .uncorrectable _ | .bed _ a, .uncorrectable _ => s.poisonLine (lineOf a)
  | _, _ => s

/-- REPOINT_LINE (R404) in a domain that runs (R34): one line of a pass read; corrected and rewritten, or marked poisoned, with
sounding. -/
def State.repointLine (s : State) (u : RepointUnit) (line : Nat) (res : EccResult) : State :=
  let (p, ix, n) := repointIx u
  if !s.repointRuns u then s else
  let s := s.updPier p fun pr => { pr with repoint := pr.repoint.set ix ((line + 1) % n) }
  let s := match res with
    | .corrected _ _ => s.bumpPier p kRepointFixed 1
    | _ => s
  match s.repointPlace u line with
  | some x => (s.codeword x res).repointPoison x res
  | none => s

def execRepointLine (u : RepointUnit) (addr : Nat) (res : EccResult) (s : State) : Host.Outcome State Fault Refusal :=
  .next (s.repointLine u addr res)

/-- GDDR7_RETRAIN (R403): while the pier runs (R34), at most once per 100 ms per channel; the tick of the last, plus one, is kept. -/
def State.retrain (s : State) (p : PierId) (ch : Nat) : State :=
  let last := (s.pier p).retrained.get ch
  if !s.runs p || last != 0 && s.tick + 1 < last + 5000000 then s
  else s.updPier p fun pr => { pr with retrained := pr.retrained.set ch (s.tick + 1) }

def execGddr7Retrain (p : PierId) (channel : Fin 7) (s : State) : Host.Outcome State Fault Refusal :=
  .next (s.retrain p channel.val)

/-! ## Run-ahead -/

/-- Whether a core's access engine may fetch a line speculatively: its course runs (R34), and the line is among the 8 beyond the highest
demand line of one of its runs (R399). -/
def State.mayRunAhead (s : State) (c : CoreId) (line : Nat) : Bool :=
  let pr := s.pier c.pier
  s.courseRuns ⟨c.pier, c.course⟩ &&
  pr.runs.any fun r => r.core == coreNo c && r.tops.any fun t => t < line && line ≤ t + 64 * Config.runAheadLines

/-- RUN_AHEAD_FETCH (R400, R401): a speculative fetch of a line by a core's access engine; one that fills a line of the mortar is counted
(R552), one of a set that is bypassed fills none. -/
def State.runAhead (s : State) (p : PierId) (a : Nat) (codeError : Bool) : State :=
  let line := lineOf a
  match s.place line with
  | .absent => s.bumpPier p kDropAbsent 1
  | .control _ _ => s.bumpPier p kDropNospec 1
  | pl =>
    if s.memHome line != some p then s.bumpPier p kDropForeign 1
    else
      let hit := (s.pier p).holds line
      let isCxl := match pl with | .cxl _ _ => true | _ => false
      if isCxl && !hit then s.bumpPier p kDropCxl 1
      else if codeError || s.poison.contains line then s.bumpPier p kDropError 1
      else if hit then s
      else if (s.pier p).bypassed (mortIx line) then s.readLine p line else (s.readLine p line).bumpPier p kSpecFill 1

def execRunAheadFetch (c : CoreId) (addr : Nat) (codeError : Bool) (s : State) : Host.Outcome State Fault Refusal :=
  .next (if s.mayRunAhead c (lineOf addr) then s.runAhead c.pier addr codeError else s)

/-! ## Evacuation -/

/-- EVACUATION_COPY_DONE (R387): the copy is done; the switch follows at once if no U header has run on the pier since start. -/
def State.copyDone (s : State) (p : PierId) : State :=
  let w := (s.pier p).chanMap.toNat
  if fld w 22 21 != 1 then s
  else
    let s := (s.updPier p fun pr => { pr with chanMap := BitVec.ofNat 64 (setFld w 22 21 2) }).mapEvent p
    if s.uRan.get p.val == 0 then s.evacuationSwitch p else s

def execEvacuationCopyDone (p : PierId) (s : State) : Host.Outcome State Fault Refusal := .next (s.copyDone p)

/-! ## The CXL tier -/

/-- What a port shows once a partner has passed the steps of R391 up to the one that failed: present from the signal, the link with its
width and speed once trained, the range once all are done; refused where the partner is outside R389: not attached directly, or no
single Type 3 memory device. -/
def shownPort (dev : CxlDevice) : CxlPort :=
  let p := { CxlPort.reset with present := true }
  if !dev.stable then p
  else match dev.trained with
    | none => { p with refused := !dev.direct }
    | some (w, r) =>
      let p := { p with linkUp := true, width := 16 / 2 ^ w.val, speed := 3 - r.val }
      if !dev.direct || !dev.memory then { p with refused := true }
      else if !dev.active || !dev.programmed then p
      else { p with
        registered := true
        truncated := dev.capacityMib > 0x20_0000
        sizeMib := min (256 * (dev.capacityMib / 256)) 0x20_0000 }

/-- CXL_DEVICE_ARRIVAL (R389 to R391), while the quoins have power. -/
def State.cxlArrive (s : State) (q : Fin 8) (dev : CxlDevice) : State :=
  if !s.power.regulators || (s.cxlPort q).registered then s
  else
    let c := shownPort dev
    let s := s.updCxl q fun _ => c
    if c.registered then s.event 0x06 (q.val + 2 ^ 32 * c.sizeMib)
    else s.log { errorRecord 0x0C 2 10 0 0xFFFF s.tick with die := 8 + (cxlQuoin q).val, physical := q.val, detail0 := c.word }

def execCxlDeviceArrival (port : Fin 8) (dev : CxlDevice) (s : State) : Host.Outcome State Fault Refusal :=
  .next (s.cxlArrive port dev)

/-- Whether a port has a partner that can depart: one that has shown more than its presence. -/
def CxlPort.partnered (c : CxlPort) : Bool := c.linkUp || c.registered || c.refused

/-- The window absent, every field but present 0, and the event record (R392). -/
def State.cxlGone (s : State) (q : Fin 8) (surprise : Bool) : State :=
  (s.updCxl q fun c => { CxlPort.reset with present := c.present }).event 0x07 (q.val + 256 * b2n surprise)

/-- The deferral queue of a port's quoin placed and drained until no entry for the port is left (R350, R392). -/
def State.drainPort (q : Fin 8) : Nat → State → State
  | 0, s => s
  | n + 1, s =>
    let k := cxlQuoin q
    let w := s.quoin k
    if !(w.queue ++ w.placing).any (fun x => x.port == q.val) then s
    else State.drainPort q n ((s.placeEntry k).drainDefer k)

/-- Mortar lines of a port's window (R392). -/
def State.windowLines (s : State) (q : Fin 8) : List MortLine :=
  (s.pier (cornerPier (cxlQuoin q))).mortar.filter fun l => s.inWindow q l.line

/-- The lines of a port's window out of the mortar. -/
def State.dropWindow (s : State) (q : Fin 8) : State :=
  let ls := (s.windowLines q).map (·.line)
  s.updPier (cornerPier (cxlQuoin q)) fun pr => { pr with mortar := pr.mortar.filter fun l => !ls.contains l.line }

/-- The piers whose checkpoint is draining into a port's window (R365). -/
def State.drainingTo (s : State) (q : Fin 8) : List PierId :=
  allPiers.filter fun p => match (s.pier p).ckpt, s.drainTarget p with
    | some r, some a => r.draining && s.inWindow q a
    | _, _ => false

/-- CXL_ORDERLY_DEPARTURE (R392). -/
def State.cxlOrderly (s : State) (q : Fin 8) : State :=
  if !(s.cxlPort q).partnered then s
  else
    let w := s.quoin (cxlQuoin q)
    let s := State.drainPort q (w.queue.length + w.placing.length) s
    let s := (s.drainingTo q).foldl (fun (s : State) p => s.ckptDrained p) s
    (s.dropWindow q).cxlGone q false

def execCxlOrderlyDeparture (port : Fin 8) (s : State) : Host.Outcome State Fault Refusal := .next (s.cxlOrderly port)

/-- CXL_SURPRISE_DEPARTURE (R392): dirty lines are lost, and the device keeps what it held before them; the deferral queue's entries for
the window are dropped. -/
def State.cxlSurprise (s : State) (q : Fin 8) : State :=
  if !(s.cxlPort q).partnered then s
  else
    let dirty := (s.windowLines q).filter (·.dirty)
    let back := dirty.foldl (fun (m : List Host.Cell) (l : MortLine) => match l.under with
      | some bs => memWrite m l.line bs
      | none => m) s.mem
    let s := { s with mem := back }
    let s := s.bump (cxlReg q 8) dirty.length
    let drains := s.drainingTo q
    let s := ((s.dropWindow q).cxlGone q true).dropEntries (cxlQuoin q) q.val
    drains.foldl (fun (s : State) p => s.drainAbandon p) s

def execCxlSurpriseDeparture (port : Fin 8) (s : State) : Host.Outcome State Fault Refusal := .next (s.cxlSurprise port)

end Sys2Proof.Machine
end

