-- ==== Sys2Proof/Machine/Resilience.lean ====
section
/-! DEFINITION. Sounding and its judgement (R487 to R489), spares (R111, R112, R490 to R493), the checks, replay and lane
sparing of die-to-die links (R22, R23, R495) and the writing of records (R497 to R500). -/

namespace Sys2Proof.Machine

/-! ## What the repair of a pier may delay (R423, R494) -/

def State.classPiers (s : State) (c : Nat) : List PierId := allPiers.filter fun p => s.classHas c p

/-- The greatest and the least of a list, and a value for an empty one. -/
def listMax (l : List Nat) : Nat := l.foldl max 0
def listMin (l : List Nat) (d : Nat) : Nat :=
  match l with
  | [] => d
  | a :: as => as.foldl min a

/-- G cycles of every link frame that a pier grants (R395, R396). -/
def PierCfg.linkG (c : PierCfg) : Nat := min 56 (fld c.linkShare.toNat 5 0)

/-- The edges that packets between the piers of a class pass. -/
def State.classEdges (s : State) (c : Nat) : List Nat :=
  let ps := s.classPiers c
  ps.flatMap fun a => ps.flatMap fun b =>
    let r := a :: route a b
    (r.zip r.tail).map fun x => edgeOf x.1 x.2

/-- t_move of R423. -/
def State.classMove (s : State) (c : Nat) : Nat :=
  let links := fld (s.classWord c 1) 63 56
  let n := max 1 (listMin ((s.classEdges c).map fun x => (s.workingLinks x).length) 4)
  let x := max 1 (listMin ((s.classPiers c).map fun p => (s.pier p).cfg.linkG) 1)
  cdiv (32 * links + 64 * (cdiv (fld (s.classWord c 2) 47 0) (1000 * n * x) + links)) 32

/-! ## Spares (R490) -/

/-- The pool of a course's spare core, a pier's spare course and spare mason core set to a physical unit or to none. -/
def Pier.poolCore (p : Pier) (c : Nat) (u : Option Nat) : Pier :=
  { p with coreSpare := p.coreSpare.set c (match u with | some n => n + 1 | none => 18) }
def Pier.poolCourse (p : Pier) (u : Option Nat) : Pier :=
  { p with courseSpare := match u with | some n => n + 1 | none => 50 }
def Pier.poolMason (p : Pier) (u : Option Nat) : Pier :=
  { p with masonSpare := match u with | some n => n + 1 | none => 10 }

/-- Spare keystones in use, the highest index taken. -/
def Pier.keysUsed (p : Pier) : Nat := p.keySpare.foldl (fun (n : Nat) x => max n x.2) 0

/-- PIER_SPARE_STATUS from the pools (R493); the channel, chisel and degraded bits stand. -/
def Pier.recount (p : Pier) : Pier :=
  let w := p.spareStatus.toNat
  let w := setFld w 5 0 ((List.range 49).filter fun c => (p.idleCore c).isNone).length
  let w := setFld w 6 6 (b2n p.idleCourse.isNone)
  let w := setFld w 7 7 (b2n p.idleMason.isNone)
  let w := setFld w 18 10 p.keysUsed
  let w := setFld w 44 32 (p.repair.foldl (fun (n : Nat) x => n + x.2) 0)
  { p with spareStatus := BitVec.ofNat 64 w }

/-! ## What a unit is in records (R497) -/

/-- unit_kind, unit, die and physical index of a unit. -/
structure Who where
  kind : Nat
  unit : Nat
  die : Nat
  physical : Nat
  deriving DecidableEq, Repr

def State.who (s : State) : SUnit → Who
  | .core c => ⟨0, coreUnit c, c.pier.val, (s.pier c.pier).physCore c.course.val c.core.val⟩
  | .course c => ⟨1, courseUnit c, c.pier.val, (s.pier c.pier).physCourse c.course.val⟩
  | .mortarSet p _ _ => ⟨3, pierUnit p, p.val, 0⟩
  | .gddrRegion p ch _ | .gddrInterface p ch => ⟨4, pierUnit p, p.val, ch.val⟩
  | .pierTrowel p ch => ⟨5, pierUnit p, p.val, ch.val⟩
  | .chisel p w => ⟨2, 0x4000 + 0x400 * p.val + 0x100 * w.val, p.val, w.val⟩
  | .keyBlock p => ⟨6, pierUnit p, p.val, 0⟩
  | .laneGroup l d _ => ⟨7, pierUnit (linkPier l.val d), (linkPier l.val d).val, l.val⟩
  | .mason p k => ⟨8, pierUnit p, p.val, (s.pier p).physMason k.val⟩
  | .quoinTrowel q i => ⟨9, 0xFFFF, 8 + q.val, i.val⟩
  | .moduleSequencer => ⟨12, 0xFFFF, if s.seqOnC then 10 else 8, 0⟩

/-- An error record about a unit, or about another physical unit of its kind. -/
def State.recordOf (s : State) (u : SUnit) (physical cls severity response d0 d1 : Nat) : State :=
  let w := s.who u
  s.log { errorRecord cls severity w.kind response w.unit s.tick with
    die := w.die, physical := physical, detail0 := d0, detail1 := d1 }
def State.unitRecord (s : State) (u : SUnit) (cls severity response d0 d1 : Nat) : State :=
  s.recordOf u (s.who u).physical cls severity response d0 d1

/-- MARGIN_MONITOR_TRIP (R487): recorded, and its unit sounded; the check paths stand in courses. -/
def State.marginTrip (s : State) (u : SUnit) (monitor code : Nat) : State :=
  let s := match u with
    | .core c | .course c => s.bumpPier c.pier kMarginTrip 1
    | _ => s
  (s.unitRecord u 0x05 1 5 monitor code).startSounding u true

def execMarginMonitorTrip (u : SUnit) (monitor code : Nat) (s : State) : Host.Outcome State Fault Refusal :=
  .next (s.marginTrip u monitor code)

/-! ## Exchanges (R111, R112, R491) -/

/-- Bed memory, table stores, stationary tiles, runs and generators of the cores of a course, or of one, whose physical units leave: a
spare starts with empty ones (R111, R178). -/
def Pier.emptied (p : Pier) (c : Nat) (core : Option Nat) : Pier :=
  let mine := fun n => match core with
    | some k => n == 16 * c + k
    | none => n / 16 == c
  { p with
    bed := p.bed.filterMap fun b =>
      if b.course != c then some b
      else b.without (match core with | some k => 2 ^ k | none => 0xFFFF)
    stores := p.stores.filter fun t => !mine t.core
    tiles := p.tiles.filter fun t => t.course != c
    runs := p.runs.filter fun r => !mine r.core
    draws := p.draws.filter fun x => !mine (x.1 % drawSpan / 272) }

/-- A spare that has taken a unit's place noted in the unit's sounding. -/
def State.noteOld (s : State) (u : SUnit) (old : Nat) : State :=
  { s with sounding := replaceFirst (fun x => x.unit == u && x.old.isNone) (fun x => { x with old := some old }) s.sounding }

/-- How long a unit's exchange has delayed G work (R494): the wait since its sounding asked for it, the reload and a course's wake. -/
def State.exchangeDelay (s : State) (u : SUnit) : Nat :=
  match s.sounding.find? fun x => x.unit == u && x.old.isNone with
  | some x => s.tick - x.start + 280
  | none => 280

/-- The idle spare in the place of a core's or course's physical unit, if there is one; a failed course domain is replaced
(R438). -/
def State.exchange (s : State) (u : SUnit) : State :=
  match u with
  | .core c =>
    let pc := (s.pier c.pier).physCourse c.course.val
    match (s.pier c.pier).idleCore pc with
    | none => s
    | some n =>
      let old := (s.pier c.pier).physCore c.course.val c.core.val
      let s := s.spareRecord 0 (coreUnit c) c.pier.val n old
      (s.updPier c.pier fun pr =>
        (({ pr with coreMap := pr.coreMap.set (16 * pc + c.core.val) (n + 1) } : Pier).poolCore pc
          none |>.emptied c.course.val (some c.core.val)).recount).noteOld u (32 * pc + old) |>.noteRepair c.pier (coreUnit c) fun _ => s.exchangeDelay u
  | .course c =>
    match (s.pier c.pier).idleCourse with
    | none => s
    | some n =>
      let old := (s.pier c.pier).physCourse c.course.val
      let s := s.spareRecord 1 (courseUnit c) c.pier.val n old
      (s.updPier c.pier fun pr =>
        (({ pr with
          courseMap := pr.courseMap.set c.course.val (n + 1)
          failed := pr.failed.filter fun d => d != domainNo (.course c) } : Pier).poolCourse none |>.emptied
          c.course.val none).recount).noteOld u old |>.noteRepair c.pier (courseUnit c) fun _ => s.exchangeDelay u
  | .mason p k =>
    match (s.pier p).idleMason with
    | none => s
    | some n =>
      let old := (s.who u).physical
      let delay := (((s.pier p).masons[k.val]?).bind (·.saving)).getD s.tick
      let s := s.spareRecord 8 (pierUnit p) p.val n old
      (s.updPier p fun pr =>
        (({ pr with
          masons := pr.masons.modify k.val fun m => { m with phys := n, saving := none }
          failed := pr.failed.filter fun d => d != domainNo (.mason p k) } : Pier).poolMason none).recount).noteOld u old
        |>.noteRepair p (pierUnit p) fun _ => s.tick - delay
  | _ => s

/-- Whether a unit is being sounded and still holds its logical address. -/
def State.soundedIn (s : State) (u : SUnit) : Bool := s.sounding.any fun x => x.unit == u && x.old.isNone

/-- SPARE_TAKEOVER (R111, R112): for a core or course that is being sounded, or a course that was declared failed, once no
header or share is in progress on the course. -/
def State.takeover (s : State) (u : SUnit) : State :=
  match u with
  | .core c => if s.soundedIn u && !s.courseRunning ⟨c.pier, c.course⟩ then s.exchange u else s
  | .course c =>
    if (s.soundedIn u || (s.pier c.pier).failed.contains (domainNo (.course c))) && !s.courseRunning c then s.exchange u else s
  | _ => s

def execSpareTakeover (u : SUnit) (s : State) : Host.Outcome State Fault Refusal := .next (s.takeover u)

/-- A mason core's state is being saved and its time has not run out (R491). -/
def State.savingAt (s : State) (p : PierId) (k : Fin 8) : Option Nat := ((s.pier p).masons[k.val]?).bind (·.saving)

/-- MASON_EXCHANGE (R491): within 1 ms the spare resumes the saved state. -/
def State.masonExchange (s : State) (p : PierId) (k : Fin 8) : State :=
  match s.savingAt p k with
  | some t => if s.tick < t + 50000 then s.exchange (.mason p k) else s
  | none => s

def execMasonExchange (p : PierId) (core : Fin 8) (s : State) : Host.Outcome State Fault Refusal :=
  .next (s.masonExchange p core)

/-! ## Judgement (R488) -/

/-- 24 hours in pilot ticks. -/
def dayTicks : Nat := 4_320_000_000_000

/-- The number under which soundings of a physical core, course or mason core are remembered. -/
def State.soundNo (s : State) (u : SUnit) (old : Option Nat) : Option (PierId × Nat) :=
  let ph := old.getD (s.who u).physical
  match u with
  | .core c => some (c.pier, old.getD (32 * (s.pier c.pier).physCourse c.course.val + ph))
  | .course c => some (c.pier, 2000 + ph)
  | .mason p _ => some (p, 3000 + ph)
  | _ => none

/-- Whether a sounding is the third of its unit within 24 hours, and the state with it remembered. -/
def State.third (s : State) (x : Sounding) : Bool × State :=
  match s.soundNo x.unit x.old with
  | none => (false, s)
  | some (p, n) =>
    let recent := (s.pier p).soundings.filter fun y => x.start < y.2 + dayTicks
    ((recent.filter fun y => y.1 == n).length ≥ 2,
      s.updPier p fun pr => { pr with soundings := recent ++ [(n, x.start)] })

/-- A hard error remembered, and whether it is the fourth line of its device within 24 hours. -/
def State.hardError (s : State) (p : PierId) (ch line : Nat) : Bool × State :=
  let recent := (s.pier p).hardErrors.filter fun y => s.tick < y.2.2 + dayTicks && !(y.1 == ch && y.2.1 == line)
  let all := recent ++ [(ch, line, s.tick)]
  ((all.filter fun y => y.1 == ch).length ≥ 4, s.updPier p fun pr => { pr with hardErrors := all })

/-- The verdict on a unit: whether its fault is lasting, whether a hard error held, and the histories brought up to date. -/
structure Verdict where
  lasting : Bool
  held : Bool
  s : State
  deriving DecidableEq, Repr

def State.judge (s : State) (x : Sounding) (res : SoundTest) : Verdict :=
  let (third, s) := s.third x
  match x.unit, res with
  | .core _, _ | .course _, _ => ⟨res == .failed || third || x.margin, false, s⟩
  | .mason _ _, _ => ⟨res == .failed || third, false, s⟩
  | .gddrRegion p ch r, .held lines =>
    let q := lines.foldl (fun (a : Bool × State) line =>
      let x := a.2.hardError p ch.val (16384 * r + line.val)
      (a.1 || x.1, x.2)) (false, s)
    ⟨q.1, !lines.isEmpty, q.2⟩
  | _, .failedWay _ => ⟨true, false, s⟩
  | _, _ => ⟨res == .failed, false, s⟩

/-! ## Work that a unit's failure ends (R438, R486) -/

/-- Whether a header's work needs a pier's domain: of a course, its unit covers it and it is no U header; of a mortar, its unit
lies on the pier. The other domains run no shares. -/
def needsDomain (d : Domain) (h : Header) : Bool :=
  match d with
  | .course c => h.stream != 3 && unitExists h.unit && unitCovers h.unit c.pier c.course.val
  | .mortar p => unitExists h.unit && (unitPiers h.unit).contains p
  | _ => false

/-- Whether a header's work needs a core: its unit covers the core's course, or is that core. -/
def needsCore (c : CoreId) (h : Header) : Bool :=
  needsDomain (.course ⟨c.pier, c.course⟩) h && (unitLevel h.unit != 0 || fld h.unit 3 0 == c.core.val)

/-- A pier's checkpoint that a header was writing given up with the header: its status shows none (R363). -/
def Pier.dropCkpt (p : Pier) (q : QKey) : Pier :=
  match p.ckpt with
  | some r => if r.q == q && !r.draining then { p with ckpt := none, ckptPhase := 0 } else p
  | none => p

/-- Running headers whose work needs what has failed end with error (R438); one whose shares are over and whose signal is on its way is
none. -/
def State.endHeaders (s : State) (need : Header → Bool) (p : PierId) : State :=
  (s.queues.map (·.key)).foldl (fun (s : State) q => match s.head q with
    | some x =>
      if x.busy && x.phase != .closing && need x.hdr then
        ((s.abandonShares q).updPier p (·.dropCkpt q)).failHeader q x.hdr p
      else s
    | none => s) s

/-- A logical mason core restarted: at the entry that the image names, or waiting for an interrupt (R491). -/
def Mason.restart (m : Mason) : Mason := { m with saving := none, waits := m.entry.isNone, loaded := 0, faulted := 0, reserve := none }

/-- The reset of a unit that fails its sounding with work still bound to it (R486): that work ends as R438 states; a mason core
restarts. -/
def State.resetWork (s : State) (u : SUnit) : State :=
  match u with
  | .core c => s.endHeaders (needsCore c) c.pier
  | .course c => s.endHeaders (needsDomain (.course c)) c.pier
  | .mason p k => s.updPier p fun pr => { pr with masons := pr.masons.modify k.val (·.restart) }
  | _ => s

/-- A logical unit whose spare is gone served by its partner (R490, R493); a course that was declared failed works again. -/
def State.partnered (s : State) (u : SUnit) : State :=
  match u with
  | .core c => (s.updPier c.pier fun pr =>
      let n := pr.physCore c.course.val (c.core.val ^^^ 1)
      { pr with coreMap := pr.coreMap.set (16 * pr.physCourse c.course.val + c.core.val) (n + 1) }).degrade c.pier
  | .course c => (s.updPier c.pier fun pr =>
      { pr with
        courseMap := pr.courseMap.set c.course.val (pr.physCourse (c.course.val ^^^ 1) + 1)
        failed := pr.failed.filter fun d => d != domainNo (.course c) }).degrade c.pier
  | .mason p k => (s.updPier p fun pr =>
      { pr with masons := pr.masons.modify k.val fun m =>
          { m with phys := ((pr.masons[k.val ^^^ 1]?).map (·.phys)).getD m.phys } }).degrade p
  | _ => s

/-- Quoin C's sequencer takes over the module level where A's has failed its sounding, and the requests not yet delivered note it (R17,
R427). Where C's own fails, nothing stands in for it, and nothing returns the level to A (DESIGN CHOICE; log 90). -/
def State.sequencerTakeover (s : State) : State :=
  if s.seqOnC then s
  else ({ s with
    seqOnC := true
    requests := s.requests.map fun r =>
      if r.delivered then r else { r with cause := if r.cause == 0 then 3 else r.cause } } : State).event 0x04 0

/-- The way of a mortar set whose line fails. -/
def wayOf : SoundTest → Nat
  | .failedWay w => w.val
  | _ => 0

/-- A quoin left with a lasting fault or with a trowel that its partner serves (R493). -/
def State.degradeQuoin (s : State) (q : QuoinId) : State :=
  { s with degraded := if s.degraded.contains (100 + q.val) then s.degraded else s.degraded ++ [100 + q.val] }

/-- A lasting fault answered: the spare or the partner of its kind, and the response its record names (R490, R497). A unit
already exchanged is retired; work bound to one that is not ends with its reset (R486). -/
def State.lasting (s : State) (u : SUnit) (old : Option Nat) (res : SoundTest) : Nat × State :=
  match u with
  | .core _ | .course _ =>
    if old.isSome then (6, s) else (10, (s.resetWork u).partnered u)
  | .mason p _ =>
    if old.isSome then (6, s)
    else if (s.pier p).idleMason.isSome then (6, (s.resetWork u).exchange u) else (10, (s.resetWork u).partnered u)
  | .mortarSet p b set =>
    let ix := 4096 * b.val + set.val
    let way := wayOf res
    if (s.pier p).repair.get b.val < 64 then
      (6, ((s.spareRecord 3 (pierUnit p) p.val ((s.pier p).repair.get b.val) way).updPier p fun pr =>
        ({ pr with repair := pr.repair.set b.val (pr.repair.get b.val + 1) } : Pier).recount))
    else (11, s.updPier p fun pr => { pr with waysOut := pr.waysOut.set ix (pr.waysOut.get ix ||| 2 ^ way) })
  | .gddrRegion p ch _ | .gddrInterface p ch | .pierTrowel p ch => s.channelLasting p ch.val
  | .chisel p w =>
    (10, (s.updPier p fun pr => { pr with
      chiselOut := setFld pr.chiselOut w.val w.val 1
      spareStatus := pr.spareStatus ||| BitVec.ofNat 64 (2 ^ (20 + w.val)) }).degrade p)
  | .keyBlock p =>
    let (n, s) := s.takeFree
    let free := (s.pier p).keysUsed
    if free ≥ 256 then (11, s.degrade p)
    else (6, ((s.spareRecord 6 (pierUnit p) p.val (4096 + free) (n % 4096)).updPier p fun pr =>
      ({ pr.setKey (n % 4096) (pr.keyAt (n % 4096)) with keySpare := pr.keySpare.set (n % 4096) (free + 1) } : Pier).recount))
  | .quoinTrowel q i =>
    (10, (s.updQuoin q fun w => { w with spare := w.spare ||| BitVec.ofNat 64 (2 ^ i.val) }).degradeQuoin q)
  | .moduleSequencer => if s.seqOnC then (11, s.degradeQuoin 2) else (0, s.sequencerTakeover)
  | .laneGroup _ _ _ => (0, s)

/-- A transient fault: the unit returns to service, or becomes the spare of its kind after an exchange (R488). -/
def State.transient (s : State) (u : SUnit) (old : Option Nat) : State :=
  match u, old with
  | .core c, some n => s.updPier c.pier fun pr => (pr.poolCore (n / 32) (some (n % 32))).recount
  | .course c, some n => s.updPier c.pier fun pr => (pr.poolCourse (some n)).recount
  | .mason p _, some n => s.updPier p fun pr => (pr.poolMason (some n)).recount
  | .mason p k, none => s.updPier p fun pr => { pr with masons := pr.masons.modify k.val fun m => { m with saving := none } }
  | .chisel p w, _ => s.updPier p fun pr =>
    { pr with chiselOut := if bitAt pr.spareStatus.toNat (20 + w.val) then pr.chiselOut else setFld pr.chiselOut w.val w.val 0 }
  | _, _ => s

/-- The end of a sounding's bypass; and the repairs that waited for a region's sounding, made now or, where its channel is evacuated, after
the swap (R356, R357, R488). -/
def State.endTest (s : State) (u : SUnit) : State :=
  match u with
  | .mortarSet p b set => s.updPier p fun pr =>
    let ix := 4096 * b.val + set.val
    { pr with waysOut := pr.waysOut.set ix (setFld (pr.waysOut.get ix) 16 16 0) }
  | .quoinTrowel q i => s.updQuoin q fun w => { w with out := setFld w.out i.val i.val 0 }
  | .gddrRegion p _ _ => s.regionSounded p u (fld (s.pier p).chanMap.toNat 22 21 != 0 || (s.pier p).evacNext.isSome)
  | _ => s

/-- Whether a sounded core, course or mason core still waits for its exchange: a spare of its kind stands idle (R112, R488), or a mason
core's state is being saved (R491). -/
def State.awaitsSpare (s : State) (u : SUnit) : Bool :=
  s.soundedIn u && (match u with
    | .core c => ((s.pier c.pier).idleCore ((s.pier c.pier).physCourse c.course.val)).isSome
    | .course c => (s.pier c.pier).idleCourse.isSome
    | .mason p k => (s.savingAt p k).isSome
    | _ => false)

/-- The physical index of a unit that is sounded: the unit's that has left service, of a mortar set the way that fails (R497). -/
def State.soundedNo (s : State) (x : Sounding) (res : SoundTest) : Nat :=
  match x.unit, x.old with
  | .core _, some n => n % 32
  | .mortarSet _ _ _, _ => wayOf res
  | _, some n => n
  | u, none => (s.who u).physical

/-- SOUNDING_RESULT (R488), of the unit's oldest sounding. A core, course or mason core is tested once its spare has taken over (R111,
R491). -/
def State.soundingResult (s : State) (u : SUnit) (res : SoundTest) : State :=
  let s := if s.awaitsSpare u then s.takeover u else s
  let mine : Sounding → Bool := fun x => x.unit == u && (x.old.isSome || !s.awaitsSpare u)
  match s.sounding.find? mine with
  | none => s
  | some x =>
    let v := ({ s with sounding := s.sounding.eraseP mine } : State).judge x res
    let time := s.tick - x.start
    let n := s.soundedNo x res
    if v.lasting then
      let (response, s) := v.s.lasting u x.old res
      ((s.bump (skovReg s.activeD 0x38) 1).recordOf u n 0x06 2 response 2 time).endTest u
    else
      let s := v.s.transient u x.old
      let s := if v.held then s.recordOf u n 0x06 1 5 1 time else s.recordOf u n 0x06 1 0 0 time
      (s.bump (skovReg s.activeD 0x30) 1).endTest u

def execSoundingResult (u : SUnit) (res : SoundTest) (s : State) : Host.Outcome State Fault Refusal :=
  .next (match u with
    | .laneGroup _ _ _ => s
    | u => s.soundingResult u res)

/-! ## Idle spares (R489) -/

/-- The spares of a lane group that are in use. -/
def State.lanesUsed (s : State) (link : Fin 48) (dir : Bool) (g : Nat) : Nat := s.laneSpares.get ((2 * link.val + b2n dir) * 10 + g)

/-- The pier that sounds an idle spare of the kind that a unit names. -/
def sparePier : SUnit → Option PierId
  | .core c => some c.pier
  | .course c => some c.pier
  | .mason p _ | .gddrInterface p _ | .pierTrowel p _ | .keyBlock p | .mortarSet p _ _ => some p
  | .laneGroup l d _ => some (linkPier l.val d)
  | _ => none

/-- The idle spare of the kind that a unit names there, by its physical index, if there is one: a course's core, a pier's course, mason
core or device, the next keystone, the next repair line of a mortar bank, the next lane of a lane group. -/
def State.idleSpare (s : State) (u : SUnit) : Option Nat :=
  match u with
  | .core c => (s.pier c.pier).idleCore ((s.pier c.pier).physCourse c.course.val)
  | .course c => (s.pier c.pier).idleCourse
  | .mason p _ => (s.pier p).idleMason
  | .gddrInterface p _ | .pierTrowel p _ =>
    let m := (s.pier p).chanMap.toNat
    if fld m 20 18 != 7 && fld m 22 21 == 0 then some (fld m 20 18) else none
  | .keyBlock p => if (s.pier p).keysUsed < 256 then some (4096 + (s.pier p).keysUsed) else none
  | .mortarSet p b _ => if (s.pier p).repair.get b.val < 64 then some ((s.pier p).repair.get b.val) else none
  | .laneGroup l d g => if s.lanesUsed l d g.val < 4 then some (84 * g.val + 80 + s.lanesUsed l d g.val) else none
  | _ => none

/-- A spare that fails is taken out of its pool and counts as used. -/
def State.dropSpare (s : State) (u : SUnit) : State :=
  match u with
  | .core c => s.updPier c.pier fun pr => (pr.poolCore (pr.physCourse c.course.val) none).recount
  | .course c => s.updPier c.pier fun pr => (pr.poolCourse none).recount
  | .mason p _ => s.updPier p fun pr => (pr.poolMason none).recount
  | .gddrInterface p _ | .pierTrowel p _ => (s.updPier p fun pr => { pr with
      chanMap := BitVec.ofNat 64 (setFld pr.chanMap.toNat 20 18 7), spareStatus := pr.spareStatus ||| 0x100 }).mapEvent p
  | .keyBlock p => s.updPier p fun pr =>
    ({ pr with keySpare := pr.keySpare.set (4096 + pr.keysUsed) (pr.keysUsed + 1) } : Pier).recount
  | .mortarSet p b _ => s.updPier p fun pr =>
    ({ pr with repair := pr.repair.set b.val (pr.repair.get b.val + 1) } : Pier).recount
  | .laneGroup l d g => { s with laneSpares := s.laneSpares.set ((2 * l.val + b2n d) * 10 + g.val) (s.lanesUsed l d g.val + 1) }
  | _ => s

/-- Where the tick of the last sounding of an idle spare stands: a course's core by its physical course, then a pier's course and mason
core, its device, its trowel and its keystones, the mortar banks and the lane groups. -/
def State.routineNo (s : State) (u : SUnit) : Nat :=
  match u with
  | .core c => (s.pier c.pier).physCourse c.course.val
  | .course _ => 50
  | .mason _ _ => 51
  | .gddrInterface _ _ => 52
  | .pierTrowel _ _ => 53
  | .keyBlock _ => 54
  | .mortarSet _ b _ => 64 + b.val
  | .laneGroup l d g => 128 + (2 * l.val + b2n d) * 10 + g.val
  | _ => 55

/-- Pilot ticks of an hour; the interval in PIER_ROUTINE, of which 0 hours act as 1 (R489). -/
def hourTicks : Nat := 180_000_000_000
def PierCfg.spareTicks (c : PierCfg) : Nat := max 1 (fld c.routine.toNat 7 0) * hourTicks

/-- ROUTINE_SPARE_SOUNDING (R489) once the interval since the spare's last sounding has passed, while its pier runs (R34): started and
judged as one event; the spare of the unit's kind. -/
def State.routineSounding (s : State) (u : SUnit) (failed : Bool) : State :=
  match sparePier u, s.idleSpare u with
  | some p, some n =>
    let k := s.routineNo u
    let pr := s.pier p
    if !s.runs p || s.tick < pr.routineAt.get k + pr.cfg.spareTicks then s
    else
      let s := (s.updPier p fun pr => { pr with routineAt := pr.routineAt.set k s.tick }).bump (skovReg s.activeD 0x28) 1
      if failed then ((s.dropSpare u).bump (skovReg s.activeD 0x38) 1).recordOf u n 0x06 2 0 2 0
      else (s.bump (skovReg s.activeD 0x30) 1).recordOf u n 0x06 0 0 0 0
  | _, _ => s

def execRoutineSpareSounding (u : SUnit) (failed : Bool) (s : State) : Host.Outcome State Fault Refusal :=
  .next (s.routineSounding u failed)

/-! ## Die-to-die links (R495) -/

/-- A lane group's unit. -/
def laneUnit (link : Fin 48) (dir : Bool) (g : Nat) : SUnit := .laneGroup link dir ⟨g % 10, Nat.mod_lt _ (by decide)⟩

/-- Lane groups sounded by lane-group test: their link leaves its edge's rotation (R488). -/
def State.soundGroups (s : State) (link : Fin 48) (dir : Bool) (gs : List Nat) : State :=
  let s := gs.foldl (fun (s : State) g => s.startSounding (laneUnit link dir g) false) s
  if gs.isEmpty || s.testing.contains link.val then s else { s with testing := s.testing ++ [link.val] }

/-- Whether both ends of a link run: their dies have power and their piers are awake (R34). -/
def State.linkRuns (s : State) (link : Nat) : Bool :=
  s.power.regulators && allPiers.all fun p => !(linkEnds p).contains link || (s.pier p).awake

/-- The lane groups whose CRC-8 fails, and whether a cycle passes both checks (R495); the side-band holds the CRC-32, then the CRC-8s by
group. -/
def badGroups (cycle side : List Byte) : List Nat :=
  (List.range 10).filter fun g => groupCrc8 cycle g != (byteAt side (4 + g)).toNat
def cycleOk (cycle side : List Byte) : Bool := (badGroups cycle side).isEmpty && linkCrc32 cycle == leAt side 0 4

/-- A cycle accepted: acknowledged, and among those that its sender keeps, the last 256 (R495). -/
def State.keepCycle (s : State) (i : Nat) (cycle : List Byte) : State :=
  let kept := if (s.linkKept.filter fun x => x.1 == i).length < Config.linkReplayCap then s.linkKept
    else s.linkKept.eraseP fun x => x.1 == i
  { s with linkKept := kept ++ [(i, cycle)] }

/-- LINK_CYCLE_RECEIVE (R495, R496): accepted, and what waited behind it goes on in order; or discarded and replayed, after four failed
sends of one cycle with the groups at fault sounded, and with each group that fails more than 64 times in 2^24 link cycles. -/
def State.linkCycle (s : State) (link : Fin 48) (dir : Bool) (cycle side : List Byte) : State :=
  if s.retired.contains link.val || !s.linkRuns link.val then s
  else
    let i := 2 * link.val + b2n dir
    let now := s.linkCycles.get i
    let s := { s with linkCycles := s.linkCycles.set i (now + 1) }
    if cycleOk cycle side then ({ s with linkFails := s.linkFails.set i 0 } : State).keepCycle i cycle |>.releaseLink i false
    else
      let s := if sendsFromPier link.val dir then s.bumpPier (linkPier link.val dir) kLinkReplay 1 else s
      let fails := s.linkFails.get i + 1
      let groups := badGroups cycle side
      let key := fun g => 10 * i + g
      let log := s.groupFails.filter (fun x => !(x.1 / 10 == i && x.2 + 2 ^ 24 ≤ now)) ++ groups.map fun g => (key g, now)
      let often := groups.filter fun g => (log.filter fun x => x.1 == key g).length > 64
      let s := { s with linkFails := s.linkFails.set i fails, groupFails := log.filter fun x => !(often.map key).contains x.1 }
      let s := s.soundGroups link dir often
      if fails % 4 != 0 then s
      else
        let gs := if groups.isEmpty then List.range 10 else groups
        (s.unitRecord (laneUnit link dir 0) 0x04 2 5 (gs.foldl (fun (n : Nat) g => n + 2 ^ g) 0) 4).soundGroups link dir gs

def execLinkCycleReceive (link : Fin 48) (dir : Bool) (cycle sideBand : List Byte) (s : State) :
    Host.Outcome State Fault Refusal := .next (s.linkCycle link dir cycle sideBand)

/-- A link retired (R23): its edge goes on with the others, which replay what waited on it (R496), and its groups are tested no
more. -/
def State.retireLink (s : State) (link : Fin 48) : State :=
  if s.retired.contains link.val then s
  else (({ s with
    retired := s.retired ++ [link.val]
    testing := s.testing.filter (· != link.val)
    linkKept := s.linkKept.filter fun x => x.1 / 2 != link.val
    linkFails := (s.linkFails.set (2 * link.val) 0).set (2 * link.val + 1) 0
    sounding := s.sounding.filter fun x => match x.unit with
      | .laneGroup l _ _ => l != link
      | _ => true } : State).releaseLink (2 * link.val) true).releaseLink (2 * link.val + 1) true

/-- LANE_GROUP_TEST (R495): each lane that fails is replaced by the lowest-numbered free spare, lanes 80 to 83 of the group; a
fifth failed lane retires the link. -/
def State.laneTest (s : State) (link : Fin 48) (dir : Bool) (group : Fin 10) (failed : Nat) : State :=
  let u := SUnit.laneGroup link dir group
  match s.sounding.find? (fun x => x.unit == u) with
  | none => s
  | some x =>
    let s := ({ s with sounding := s.sounding.eraseP (fun y => y.unit == u) }).bumpPier (linkPier link.val dir) kLaneTest 1
    let lanes := (List.range 84).filter fun i => bitAt failed i
    let k := (2 * link.val + b2n dir) * 10 + group.val
    let used := s.laneSpares.get k
    let time := s.tick - x.start
    let w := s.who u
    let s := (List.range (min lanes.length (4 - used))).foldl (fun (s : State) n =>
      s.log { errorRecord 0x07 2 7 8 w.unit s.tick with
        die := w.die, physical := 84 * group.val + lanes.getD n 0,
        detail0 := 84 * group.val + 80 + used + n, detail1 := 84 * group.val + lanes.getD n 0 }) s
    let s := { s with laneSpares := s.laneSpares.set k (min 4 (used + lanes.length)) }
    let s := if lanes.isEmpty then (s.bump (skovReg s.activeD 0x30) 1).unitRecord u 0x06 1 0 0 time
      else s.bump (skovReg s.activeD 0x38) 1
    if used + lanes.length > 4 then ((s.unitRecord u 0x06 2 9 2 time).retireLink link).noteRepair (linkPier link.val dir) w.unit
        fun c => cdiv (s.classMove c) 3
    else
      let s := if lanes.isEmpty then s else s.unitRecord u 0x06 2 8 2 time
      if s.sounding.any (fun x => match x.unit with
        | .laneGroup l _ _ => l == link
        | _ => false) then s
      else { s with testing := s.testing.filter (· != link.val) }

def execLaneGroupTest (link : Fin 48) (dir : Bool) (group : Fin 10) (failedLanes : Nat) (s : State) :
    Host.Outcome State Fault Refusal := .next (s.laneTest link dir group failedLanes)

/-! ## Records written (R497, R499, R500) -/

/-- The 64 bytes of a record. -/
def Record.bytes (r : Record) : List Byte :=
  let body := leBytes 8 (r.kind + 2 ^ 8 * r.cls + 2 ^ 16 * r.severity + 2 ^ 19 * r.unitKind + 2 ^ 24 * r.response +
      2 ^ 32 * (r.unit % 65536) + 2 ^ 48 * (r.seq % 65536)) ++ leBytes 8 r.stamp ++
    leBytes 8 (r.address % 2 ^ 52 + 2 ^ 52 * r.die) ++
    leBytes 8 (r.opcode % 256 + 2 ^ 16 * (r.physical % 65536) + 2 ^ 32 * (r.count % 2 ^ 32)) ++
    leBytes 8 r.detail0 ++ leBytes 8 r.detail1 ++ leBytes 8 r.number
  body ++ leBytes 8 (crc64 body)

/-- A log ring with one more record: when it is full its oldest block is erased first. -/
def ringAdd (ring : List (List Byte)) (r : List Byte) : List (List Byte) :=
  (if ring.length ≥ Config.logCap then ring.drop Config.logBlock else ring) ++ [r]

/-- Whether a record's check holds; every reader skips one of which it does not (R499). -/
def recordOk (r : List Byte) : Bool := crc64 (r.take 56) == leAt r 56 8

/-- The number of a record in flash (R497). -/
def recordNo (r : List Byte) : Nat := leAt r 48 8

/-- An event notice (R464). -/
def noticeMsg (r : Record) : OutMsg := ⟨0x16, 0, 0, leBytes 8 0x80 ++ r.bytes⟩

/-- The active Skovlaper runs: it alone sends records and decisions (R502, R504). -/
def State.activeUp (s : State) : Bool := (s.skov s.activeD).up

/-- LOG_WRITE (R499, R500) by the active Skovlaper: the oldest held record takes its number, goes to the log of each device whose
Skovlaper is up, and to every bound port. -/
def State.logWrite (s : State) : State :=
  match s.held with
  | [] => s
  | (_, r) :: rest =>
    if !s.activeUp then s
    else
      let r := { r with number := s.recordCount }
      let s := { s with
        held := rest, recordCount := s.recordCount + 1,
        log0 := if (s.skov false).up then ringAdd s.log0 r.bytes else s.log0,
        log1 := if (s.skov true).up then ringAdd s.log1 r.bytes else s.log1 }
      allPorts.foldl (fun (s : State) p => if (s.port p).bound then s.send p (noticeMsg r) else s) s

def execLogWrite (s : State) : Host.Outcome State Fault Refusal := .next s.logWrite

end Sys2Proof.Machine
end

