-- ==== Sys2Proof/Machine/Plumbline.lean ====
section
/-! DEFINITION. The Plumbline link: training (R443 to R446), the receiver and sender of flits (R447 to R451), credits (R454),
identification (R461) and the loss of a link or host (R465). -/

namespace Sys2Proof.Machine

/-! ## Loss of a link or host (R453, R461, R465) -/

/-- The link layer of a port without a link; what it was sent before and the lanes that it has lost stay. -/
def Port.unlinked (p : Port) : Port :=
  { p with
    trainState := 0, linked := false, width := 0, rate := 0, laneFails := [], laneErrors := [], flits := 0, trying := 0,
    preset := 0, txPreset := 0, txScr := [], rxScr := [], lineOut := [], trainSent := [], trainGot := [],
    txSeq := 0, replay := [], retrains := [], backlog := [], sinceIdle := 0, txHdr := 0,
    rxExpected := 0, rxAny := false, rxSinceAck := 0, ackOwed := false, nakSent := false, rxBytes := [],
    credits := [], owed := [] }

/-- The host of an origin departed. -/
def Origin.leave (o : Origin) (p : PortId) : Origin :=
  match o with
  | .host q _ => if q == p then .departed p else o
  | o => o

/-- The host of an access departed; and of the one that a keystone operation answers. -/
def goneFrom (p : PortId) (src : Source) : Source :=
  match src with
  | .host q _ => if q == p then .gone p else src
  | _ => src
def KeyOp.leave (p : PortId) (o : KeyOp) : KeyOp :=
  { o with answer := match o.answer with
    | .access src => .access (goneFrom p src)
    | .ack src => .ack (goneFrom p src)
    | a => a }

/-- The keystone operations of a host that has departed: carried out, with their answers discarded (R465). -/
def State.leaveKeys (s : State) (p : PortId) : State :=
  allPiers.foldl (fun (s : State) q => s.updPier q fun pr => { pr with
      keyArriving := pr.keyArriving.map (·.leave p), keyDeferred := pr.keyDeferred.map (·.leave p) })
    { s with linkHeld := s.linkHeld.map fun (x : LinkPacket) => { x with op := x.op.leave p } }

/-- Whether a management session belongs to a port (R526). -/
def ownedBy (m : Manager) (p : PortId) : Bool :=
  match m with
  | .port q _ => q == p
  | .smbus _ | .smbusRecovery _ => false

/-- A held submission whose host has departed. -/
def WaitingSub.leave (w : WaitingSub) (p : PortId) : WaitingSub :=
  { w with origin := w.origin.leave p, ack := w.ack.map (goneFrom p) }

/-- Departure (R465): binding and watches gone, what was held for want of credit and requests not yet decided discarded and counted; what
has been received still runs, with its answers discarded; its update session ends (R526). -/
def State.depart (s : State) (p : PortId) : State :=
  let s := s.leaveKeys p
  let lost := (s.port p).held.length + (s.admits.filter (·.port == p)).length
  let subs := s.waitingSubs.map (·.leave p)
  let queues := s.queues.map fun q => { q with entries := q.entries.map fun x => { x with origin := x.origin.leave p } }
  let reqs := s.requests.map fun (r : Request) => if r.port == p then { r with departed := true } else r
  let session := match s.session with
    | some x => if ownedBy x.owner p then none else some x
    | none => none
  let s := { s with waitingSubs := subs, queues := queues, requests := reqs, session := session, admits := s.admits.filter (·.port != p) }
  (s.updPort p fun pt => { pt with
    bound := false, hostId := 0, watches := [], held := [], inbox := pt.inbox.map fun m => (true, m.2) }).bump
    (plmbReg p 0x10) lost

/-- A link down: the host departs with it, and an event says so where there was a link (R465, R530). -/
def State.linkDown (s : State) (p : PortId) : State :=
  let was := (s.port p).linked
  let s := (s.depart p).updPort p (·.unlinked)
  if was then s.event 0x09 p.val else s

/-- HOST_DEPARTURE (R461, R465): presence deasserted. -/
def State.hostDeparture (s : State) (p : PortId) : State :=
  (s.linkDown p).updPort p fun pt => { pt with present := false }

def execHostDeparture (port : PortId) (s : State) : Host.Outcome State Fault Refusal := .next (s.hostDeparture port)

/-! ## Identification and credits (R454, R461) -/

/-- Credits that the module offers, queues 0 to 3. -/
def offered : List Nat := [256, 64, 64, 16]

/-- ASCII "HN-RKM8-128L". -/
def partNumber : List Byte := [0x48, 0x4E, 0x2D, 0x52, 0x4B, 0x4D, 0x38, 0x2D, 0x31, 0x32, 0x38, 0x4C]

/-- The module's IDENT. -/
def State.identMsg (s : State) (p : PortId) : OutMsg :=
  let gen := if s.func.state == 3 || s.func.state == 4 then s.func.generation else 0
  ⟨0x07, 0, 0, padTo 64 (leBytes 8 (1 + 2 ^ 24 * p.val + 2 ^ 32 * s.func.state) ++ leBytes 8 gen ++
    leBytes 8 (256 + 64 * 2 ^ 16 + 64 * 2 ^ 32 + 16 * 2 ^ 48) ++ partNumber)⟩

/-- The four counts of an IDENT's credits or a CREDIT's increments. -/
def creditsOf (w : Nat) : List Nat := [fld w 15 0, fld w 31 16, fld w 47 32, fld w 63 48]

/-- A table of credits with four counts added. -/
def addCredits (t : Table) (cs : List Nat) : Table :=
  (List.range 4).foldl (fun (t : Table) q => t.set q (t.get q + cs.getD q 0)) t

/-- IDENT from a host: the initial credits of the module's queues, and what was held for want of them. -/
def State.hostIdent (s : State) (p : PortId) (payload : List Byte) : State :=
  if !(s.port p).linked then s
  else s.updPort p fun pt => ({ pt with credits := addCredits [] (creditsOf (leAt payload 16 8)) } : Port).release

def execIdent (port : PortId) (payload : List Byte) (s : State) : Host.Outcome State Fault Refusal :=
  .next (s.hostIdent port payload)

/-- CREDIT from a host (R454). -/
def State.hostCredit (s : State) (p : PortId) (payload : List Byte) : State :=
  if !(s.port p).linked then s
  else s.updPort p fun pt => ({ pt with credits := addCredits pt.credits (creditsOf (leAt payload 0 8)) } : Port).release

def execCredit (port : PortId) (payload : List Byte) (s : State) : Host.Outcome State Fault Refusal :=
  .next (s.hostCredit port payload)

/-- A message of a queue carried out: its credit goes back in a CREDIT once half of the queue's is owed (log 35). -/
def State.giveCredit (s : State) (p : PortId) (q : Nat) : State :=
  let t := (s.port p).owed
  let t := t.set q (t.get q + 1)
  if t.get q < offered.getD q 1 / 2 then s.updPort p fun pt => { pt with owed := t }
  else (s.updPort p fun pt => { pt with owed := [] }).sendFree p
    ⟨0x08, 0, 0, leBytes 8 (t.get 0 + 2 ^ 16 * t.get 1 + 2 ^ 32 * t.get 2 + 2 ^ 48 * t.get 3)⟩

/-! ## Training (R443 to R446, R451) -/

/-- The rate code and width of the pairs, in the order in which they are tried. -/
def pairsTried : List (Nat × Nat) := [(2, 8), (2, 4), (1, 8), (1, 4)]

/-- The fields of a training flit (R444): lane, rates, widths, the sender's state, the lane it retires, the preset it asks for. -/
structure TrainFlit where
  lane : Nat
  rates : Nat
  widths : Nat
  state : Nat
  failed : Nat
  preset : Nat
  deriving DecidableEq, Repr

/-- A training flit: kind 2, its payload, no CRC, bytes 242 to 255 zero (R444, R447, R449). -/
def TrainFlit.bytes (f : TrainFlit) : List Byte :=
  leBytes 4 2 ++ padTo 238 (leBytes 4 (f.lane + 2 ^ 8 * f.rates + 2 ^ 16 * f.widths + 2 ^ 24 * f.state) ++
    leBytes 2 (f.failed + 2 ^ 8 * f.preset)) ++ List.replicate 14 0

/-- What a training flit says; none of a flit of another kind. -/
def readTrain (f : List Byte) : Option TrainFlit :=
  if leAt f 0 4 % 4 != 2 then none
  else
    let w := leAt f 4 4
    some ⟨fld w 7 0, fld w 15 8, fld w 23 16, fld w 31 24, leAt f 8 1, leAt f 9 1⟩

/-- What the port sends on its nine lanes (R443, R444): both rates, both widths, its state, the lane it retires, a preset. -/
def Port.trainFlits (p : Port) (state preset : Nat) : List (List Byte) :=
  (List.range 9).map fun i => (⟨i, 3, 3, state, if p.retired < 8 then p.retired else 0xFF, preset⟩ : TrainFlit).bytes

/-- Lane number 7 − i is found on physical lane i (R445), for every one from 0 to 7 whose flit could be read (DESIGN CHOICE: of a lane
that has failed none may be; log 103), and for one at least. -/
def mirrored (got : List (List Byte)) : Bool :=
  let seen := (List.range 8).filterMap fun i => (readTrain (got.getD i [])).map fun f => (i, f.lane)
  !seen.isEmpty && seen.all fun x => x.2 == 7 - x.1

/-- The first training flit that could be read. -/
def partnerSays (got : List (List Byte)) : Option TrainFlit := got.findSome? readTrain

/-- Whether the partner's training flits, where one could be read, offer a pair. -/
def offers (got : List (List Byte)) (rate width : Nat) : Bool :=
  match partnerSays got with
  | some f => bitAt f.rates (rate - 1) && bitAt f.widths (if width == 8 then 1 else 0)
  | none => true

/-- The lanes that failed retired (R446). -/
def Port.retireFailed (p : Port) : Port :=
  { p.laneFails.foldl (fun (p : Port) i => p.loseLane i) p with laneFails := [] }

/-- Map (R443 to R446), in a training or a quick retrain: the order of the lanes, and the lanes that each side retires; the partner's is
named by its own number. -/
def Port.mapped (p : Port) (got : List (List Byte)) : Port :=
  let p := { p with reversed := mirrored got, trainGot := got }.retireFailed
  match partnerSays got with
  | some f => if f.failed < 8 then p.loseLane (if p.reversed then 7 - f.failed else f.failed) else p
  | none => p

/-- Config over (R441, R443): the sequences seeded, the first idle flit sent; the replay buffer is sent again from its oldest flit, with
what waits behind it. -/
def Port.active (p : Port) : Port :=
  let p := { p.seeded with trainState := 5, nakSent := false }.sendIdle
  let p := p.replay.foldl (fun (p : Port) x => p.sendData x.seq x.payload) p
  ({ p with replay := p.replay.map fun x => { x with sends := 1 } } : Port).fill Config.replayCap

/-- A port retrained; the lane that the spare took the place of goes to the event log (R446, R490, R492). -/
def State.retrained (s : State) (p : PortId) (f : Port → Port) : State :=
  let pt := f (s.port p)
  let t := s.updPort p f
  if (s.port p).spareUsed || !pt.spareUsed then t
  else t.log { errorRecord 0x07 2 11 8 0xFFFF s.tick with
    die := 8 + (portQuoin p).val, physical := pt.retired, detail0 := 8, detail1 := pt.retired }

/-- The pair with a number tried next: each rate begins with Equalise, another width of it with Map. Past the last the link is down
(R443, R451). -/
def State.tryPair (s : State) (p : PortId) (n : Nat) : State :=
  if n ≥ pairsTried.length then s.linkDown p
  else s.updPort p fun pt => { pt with trying := n, trainState := if n % 2 == 0 then 2 else 3 }

/-- PLUMBLINE_TRAINING (R443 to R446), with power: the action of the state at which the port stands. Detect waits for presence; Equalise
sends training flits with the preset asked for, notes the one that the partner asks for, and the lanes that do not complete it; Map finds the order and
the spare, where both sides offer the pair, complete it, and lanes enough work; Config ends in Active, where a link that is being
retrained goes on with what it holds, and a new one is identified (R461). Where a state is not completed, the next pair is tried. -/
def State.train (s : State) (p : PortId) (out : TrainOutcome) : State :=
  let a := s.port p
  let pair := pairsTried.getD a.trying (2, 8)
  if !s.power.regulators then s
  else match a.trainState with
    | 0 => if out.done then s.updPort p fun pt => { pt with present := true, trainState := 1 } else s
    | 1 => if out.done then s.tryPair p 0 else s.linkDown p
    | 2 =>
      let s := s.updPort p fun pt => { pt with
        preset := out.preset.val, trainSent := pt.trainFlits 2 out.preset.val, trainGot := out.flits
        txPreset := match partnerSays out.flits with
          | some f => if f.preset ≤ 10 then f.preset else pt.txPreset
          | none => pt.txPreset
        laneFails := pt.laneFails ++ (List.range 9).filter fun i =>
          out.done && bitAt out.failedLanes.val i && !pt.badLanes.contains i && !pt.laneFails.contains i }
      if out.done then s.updPort p fun pt => { pt with trainState := 3 } else s.tryPair p (2 * (a.trying / 2) + 2)
    | 3 =>
      let s := s.retrained p fun pt =>
        let pt := pt.mapped out.flits
        { pt with trainSent := pt.trainFlits 3 pt.preset }
      if out.done && offers out.flits pair.1 pair.2 && (s.port p).allows pair.2
      then s.updPort p fun pt => { pt with trainState := 4 } else s.tryPair p (a.trying + 1)
    | 4 =>
      if !out.done then s.tryPair p (a.trying + 1)
      else
        let s := s.updPort p fun pt => { pt with rate := pair.1, width := pair.2, linked := true }.active
        if a.linked then s else (s.updPort p fun pt => { pt with waits := false }).sendFree p (s.identMsg p)
    | _ => s

def execPlumblineTraining (port : PortId) (out : TrainOutcome) (s : State) : Host.Outcome State Fault Refusal :=
  .next (s.train port out)

/-- Map and Config again at the kept rate and presets, at x4 where a further lane is lost (R443, R446). -/
def Port.requick (p : Port) (got : List (List Byte)) : Port :=
  let p := p.mapped got
  let p := { p with trainSent := p.trainFlits 6 p.preset, width := if p.allows p.width then p.width else 4 }
  if p.allows p.width then p.active else { p with trainState := 1 }

/-- QUICK_RETRAIN (R446, R451); if it fails, training in full begins. -/
def State.quickRetrain (s : State) (p : PortId) (got : Option (List (List Byte))) : State :=
  if !(s.port p).linked || !((s.port p).trainState == 5 || (s.port p).trainState == 6) then s
  else match got with
    | some flits => s.retrained p (·.requick flits)
    | none => s.updPort p fun pt => { pt with trainState := 1 }

def execQuickRetrain (port : PortId) (got : Option (List (List Byte))) (s : State) : Host.Outcome State Fault Refusal :=
  .next (s.quickRetrain port got)

/-! ## The sender (R442, R450, R451) -/

/-- Whether three quick retrains stand within 1 ms (R406, R451). -/
def threeRetrains (ts : List Nat) : Bool :=
  match ts with
  | [a, _, c] => a < c + 50000
  | _ => false

/-- The replay buffer sent again, oldest first; with its oldest flit sent four times, the port quick-retrains, and trains in
full after three quick retrains within 1 ms. -/
def Port.replayAll (p : Port) (tick : Nat) : Port :=
  match p.replay with
  | [] => p
  | x :: _ =>
    if x.sends < 4 then
      { p.replay.foldl (fun (p : Port) x => p.sendData x.seq x.payload) p with
        replay := p.replay.map fun x => { x with sends := x.sends + 1 } }
    else if threeRetrains p.retrains then { p with trainState := 1, retrains := [] }
    else { p with trainState := 6, retrains := (tick :: p.retrains).take 3 }

/-- An ack taken: the flits up to it leave the buffer, which is progress. -/
def Port.acked (p : Port) (a : Nat) : Port :=
  match p.replay.findIdx? (fun x => x.seq == a) with
  | none => p
  | some i => ({ p with replay := p.replay.drop (i + 1), retrains := [] } : Port).fill Config.replayCap

/-- REPLAY_TIMEOUT (R450). -/
def State.replayTimeout (s : State) (p : PortId) : State :=
  if (s.port p).trainState != 5 then s else s.updPort p (·.replayAll s.tick)

def execReplayTimeout (port : PortId) (s : State) : Host.Outcome State Fault Refusal := .next (s.replayTimeout port)

/-- ACK_TIMER (R450): the ack that is owed goes out. -/
def State.ackTimer (s : State) (p : PortId) : State :=
  let pt := s.port p
  if pt.trainState != 5 || !pt.ackOwed then s else s.updPort p (·.sendIdle)

def execAckTimer (port : PortId) (s : State) : Host.Outcome State Fault Refusal := .next (s.ackTimer port)

/-- IDLE_FLIT_SEND (R442). -/
def State.idleFlit (s : State) (p : PortId) : State :=
  if (s.port p).trainState != 5 then s
  else s.updPort p fun pt => pt.sendIdle.fill Config.replayCap

def execIdleFlitSend (port : PortId) (s : State) : Host.Outcome State Fault Refusal := .next (s.idleFlit port)

/-! ## The receiver (R446, R448 to R450) -/

/-- Corrected bytes counted by physical lane; a lane with more than 1,024 in 2^20 flits fails (R446). -/
def Port.countErrors (p : Port) (bytes : List Nat) : Port :=
  let now := p.flits
  let w := max 1 p.width
  let log := p.laneErrors.filter (fun x => now < x.2 + 2 ^ 20) ++ bytes.map fun i => (p.lanes.getD (i % w) 9, now)
  let bad := p.lanes.filter fun l =>
    !p.laneFails.contains l && !p.badLanes.contains l && (log.filter fun x => x.1 == l).length > 1024
  { p with flits := now + 1, laneErrors := log, laneFails := p.laneFails ++ bad }

/-- A flit that fails its CRC, or carries any other sequence number: nak with the ack; nothing is accepted until the expected
one arrives. -/
def Port.nak (p : Port) : Port :=
  let p := { p with nakSent := true }
  p.sendIdle

/-- A data flit accepted in order, its payload taken; an ack at least every 64 (R450). -/
def Port.accept (p : Port) (payload : List Byte) : Port :=
  let p := { p with
    rxExpected := (p.rxExpected + 1) % 4096, rxAny := true, nakSent := false, ackOwed := true,
    rxSinceAck := p.rxSinceAck + 1, rxBytes := p.rxBytes ++ payload }
  if p.rxSinceAck ≥ 64 then p.sendIdle else p

/-- A flit at the receiver (R441, R448 to R450), as its lanes carry it, while the link is Active: descrambled, corrected, checked, its ack and nak taken, its data
accepted. Whether it was accepted. -/
def Port.receive (p : Port) (tick : Nat) (flit : List Byte) : Port × Bool :=
  let d := scramble p.width p.rxScr (padTo 256 flit)
  let (f, fixed) := fecCorrect d.1
  let p := { p with rxScr := d.2 }.countErrors fixed
  let h := leAt f 0 4
  let kind := h % 4
  if !flitCrcOk f || kind == 3 then (p.nak, false)
  else
    let p := if bitAt h 26 then p.acked (fld h 25 14) else p
    let p := if bitAt h 27 then p.replayAll tick else p
    if kind != 1 then (p, false)
    else
      let seq := fld h 13 2
      if seq == p.rxExpected then (p.accept ((f.drop 4).take 238), true)
      else if subMod 4096 p.rxExpected seq ≤ 1024 then (p.sendIdle, false)
      else (p.nak, false)

/-! ## Messages in the byte stream (R452, R453) -/

/-- Whether a host may send a type with a payload of a length. -/
def lengthOk (mtype n : Nat) : Bool :=
  match mtype with
  | 1 => n == 0
  | 2 | 6 => 1 ≤ n && n ≤ 256
  | 3 | 7 => n == 64
  | 4 => n == 32
  | 5 => n == 16
  | 8 => n == 8
  | _ => false

/-- The whole messages at the front of a port's bytes, what is left, and whether a protocol error was met. A pad ends the
flit at hand, whose payload is all that is left. -/
def cutMessages : Nat → List Byte → List (List Byte) × List Byte × Bool
  | 0, bs => ([], bs, false)
  | n + 1, bs =>
    match bs with
    | [] => ([], [], false)
    | t :: _ =>
      if t == 0 then ([], [], false)
      else if bs.length < 3 then ([], bs, false)
      else
        let len := fld (leAt bs 0 4) 16 8
        if !lengthOk t.toNat len then ([], [], true)
        else if bs.length < 16 + len then ([], bs, false)
        else
          let r := cutMessages n (bs.drop (16 + len))
          (bs.take (16 + len) :: r.1, r.2)

end Sys2Proof.Machine
end

