-- ==== Sys2Proof/Machine/Admission.lean ====
section
/-! DEFINITION. Promise classes and admission (R418 to R425, R439, R459) and the delivery of results and late notices (R408,
R426, R427, R479, R504). -/

namespace Sys2Proof.Machine

/-! ## A promise class (R418) -/

def State.classSlots (s : State) (c : Nat) : Nat := min 64 (fld (s.classWord c 0) 47 41)
def State.classWork (s : State) (c : Nat) : Nat := fld (s.classWord c 1) 47 0
/-- S_c, N_c, the header count and the addresses of the program and the ring. -/
def State.classService (s : State) (c : Nat) : Nat := fld (s.classWord c 0) 39 0
def State.classInflight (s : State) (c : Nat) : Nat := max 1 (fld (s.classWord c 2) 63 48)
def State.classCount (s : State) (c : Nat) : Nat := fld (s.classWord c 4) 63 52
def State.classProgram (s : State) (c : Nat) : Nat := fld (s.classWord c 4) 51 6 * 64
def State.classRing (s : State) (c : Nat) : Nat := fld (s.classWord c 5) 51 6 * 64

/-! ## The decision (R422, R423) -/

/-- σ and β of a pier (R420), the G slots its pattern leaves to requests and those that classes reserve (R297). -/
def PierCfg.sigma (c : PierCfg) : Nat := min 64 (fld c.gStanding.toNat 6 0)
def PierCfg.beta (c : PierCfg) : Nat := fld c.gStanding.toNat 55 8
def State.reserved (s : State) (p : PierId) : Nat :=
  ((List.range 64).filter fun c => s.classDefined c && s.classHas c p).foldl (fun (n : Nat) c => n + s.classSlots c) 0

/-- Code 4 on a pier: the pattern is short of G slots. -/
def State.patternShort (s : State) (p : PierId) : Bool :=
  let c := (s.pier p).cfg
  c.sigma + s.reserved p > c.slots 0 || c.slots 0 ≤ c.sigma

/-- Code 5 on a pier (R438, R493): a failed domain that no spare has replaced, a link end among them, or a unit left with a lasting fault
there or on the quoin beside it, whose CXL windows are homed there. -/
def State.pierOut (s : State) (p : PierId) : Bool :=
  !(s.pier p).failed.isEmpty || s.degraded.contains p.val ||
  (match cornerQuoin p with
    | some q => s.degraded.contains (100 + q.val)
    | none => false)

/-- Code 5 for the quoins whose work a request uses beside its piers' (R493): that of the admission unit and module sequencer (R421),
and that of its port. -/
def State.quoinOut (s : State) (p : PortId) : Bool :=
  s.degraded.contains (100 + (portQuoin s.seqPort).val) || s.degraded.contains (100 + (portQuoin p).val)

/-- Undelivered requests, and those of a class. -/
def State.undelivered (s : State) : List Request := s.requests.filter fun r => !r.delivered
def State.classPending (s : State) (c : Nat) : List Request := s.undelivered.filter fun r => r.cls == c

/-- The promised tick of R423, for a class with at least one pier. -/
def State.promise (s : State) (c ta : Nat) : Nat :=
  let ps := s.classPiers c
  let cfgs := ps.map fun p => (s.pier p).cfg
  let g := listMin (cfgs.map fun x => x.slots 0 - x.sigma) 1
  let bt := listMax (cfgs.map (·.beta))
  let wake := if ps.all fun p => (s.pier p).awake then 80 else 2000
  let start := max (ta + 16 + wake) (listMax (ps.map fun p => s.commit.get p.val))
  let size := fun (p : PierId) => fld (s.pier p).cfg.ckptBase.toNat 63 52
  let b := if ps.any fun p => size p != 0 || size (pierOf (p.val ^^^ 4)) != 0 then 25 else 1
  let hops := fld (s.classWord c 1) 55 48
  let e := 16384 * (cdiv (s.classWork c) (256 * g) + hops + 1) + bt
  let work := cdiv (64 * e) (26 * (64 - b))
  let rt := 450 * ps.length * (cdiv work 5000000 + 1)
  wrap64 (start + work + s.classMove c + rt + s.classMargin c)

/-- Code and promised tick of a request: 0 and P, or the first refusal that applies; where no image runs, code 7 (R468; log
36). -/
def State.judgeRequest (s : State) (p : PortId) (c : Nat) (reserved : Bool) (ta : Nat) : Nat × Nat :=
  let ps := s.classPiers c
  if s.func.state != 3 && s.func.state != 4 then (7, 0)
  else if !s.classDefined c then (1, 0)
  else if (s.classPending c).length ≥ s.classInflight c || s.undelivered.length ≥ Config.requestCap then (2, 0)
  else if (s.classPending c).length * s.classWork c + s.classWork c >
      256 * s.classSlots c * (s.classService c * 26 / 16384) then (3, 0)
  else if ps.isEmpty || ps.any (fun p => s.patternShort p) then (4, 0)
  else if ps.any (fun p => s.pierOut p) || s.quoinOut p || s.func.state == 4 then (5, 0)
  else if s.promise c ta > wrap64 (ta + s.classService c) then (6, 0)
  else if reserved then (8, 0)
  else (0, s.promise c ta)

/-! ## Answers (R459) -/

/-- A DELIVERY of kind 3, 4 or 5. -/
def deliveryBytes (kind cls status code id promised stamp arrival : Nat) : List Byte :=
  padTo 64 (leBytes 8 (kind + 2 ^ 8 * cls + 2 ^ 16 * status + 2 ^ 24 * code) ++ leBytes 8 id ++ leBytes 8 promised ++
    leBytes 8 stamp ++ leBytes 8 arrival)

/-- A delivery sent to the port a request came from; discarded where its host has departed (R465). -/
def State.deliverTo (s : State) (r : Request) (bs : List Byte) : State :=
  if r.departed then s.bump (plmbReg r.port 0x10) 1 else s.send r.port ⟨0x14, r.tag, 0, bs⟩

/-- A decision of R426: sent by the active Skovlaper; while that is down, kept by the standby, which makes the same ones (R504). -/
def State.decide (s : State) (r : Request) (bs : List Byte) : State :=
  if s.activeUp then s.deliverTo r bs else { s with unsent := s.unsent ++ [(r, bs)] }

/-- Whether a Skovlaper decides deliveries: either that runs (R504). -/
def State.anySkov (s : State) : Bool := (s.skov false).up || (s.skov true).up

/-- A request line (R425). -/
def requestLine (id c arg ta promised k : Nat) : List Byte :=
  padTo 64 (leBytes 8 (id + 2 ^ 32 * c) ++ leBytes 8 arg ++ leBytes 8 ta ++ leBytes 8 promised ++ leBytes 8 k)

/-- The headers of a class program submitted in list order (R425), each to its own queue. -/
def State.submitProgram (s : State) (number addr : Nat) : Nat → State
  | 0 => s
  | n + 1 =>
    let h := headerOf (s.rawBytes addr 64)
    State.submitProgram (s.submitHeader h (.request number) (.inr s.seqPort) none).1 number (addr + 64) n

/-- A request decided (R422, R425, R459), in the tick in which it arrived. -/
def State.admitRequest (s : State) (p : PortId) (tag : Nat) (payload : List Byte) : State :=
  let w := leAt payload 0 8
  let c := fld w 5 0
  let id := fld w 63 32
  let ta := s.tick
  let (code, promised) := s.judgeRequest p c (fld w 31 6 != 0) ta
  let reg := plmbReg s.seqPort
  if code != 0 then
    (s.bump (reg (0x28 + 8 * (code - 1))) 1).send p ⟨0x14, tag, 0, deliveryBytes 5 c 0 code id 0 s.tick ta⟩
  else
    let commit := (s.classPiers c).foldl (fun (t : Table) q => t.set q.val
      (max (t.get q.val) (subMod (2 ^ 64) promised (s.classMargin c)))) s.commit
    let k := s.accepts.get c
    let number := s.requestCount
    let count := s.classCount c
    let r : Request := ⟨number, p, c, id, tag, ta, promised, count, 0, false, none, false, false, 0, 0xFFFF, false⟩
    let s := { s with
      commit := commit, accepts := s.accepts.set c (k + 1), requests := s.requests ++ [r], requestCount := number + 1 }
    let line := s.classRing c + 64 * (k % s.classInflight c)
    let s := match s.memHome line with
      | some h => (s.wakePier h).writeBytes .mortar line (requestLine id c (leAt payload 8 8) ta promised k)
      | none => s
    let s := (s.bump (reg 0x20) 1).send p ⟨0x14, tag, 0, deliveryBytes 5 c 0 0 id promised s.tick ta⟩
    s.submitProgram number (s.classProgram c) count

/-- The ports in the order of a rotation that stands at port n (R409). -/
def portsFrom (n : Nat) : List PortId := if n % 2 == 0 then [0, 1] else [1, 0]

/-- The requests of a tick decided: at each decision the rotation picks a port that has one, and its oldest is decided (R421). -/
def State.decideAdmits : Nat → State → State
  | 0, s => s
  | n + 1, s =>
    match (portsFrom s.admitRot).findSome? fun p => s.admits.find? fun x => x.port == p with
    | none => s
    | some x =>
      State.decideAdmits n (({ s with
        admits := s.admits.eraseP fun y => y.port == x.port
        admitRot := (x.port.val + 1) % 2 } : State).admitRequest x.port x.tag x.payload)

/-! ## Delivery (R426, R427) -/

/-- A request whose result or last record has been sent is forgotten. -/
def State.forget (s : State) (n : Nat) : State := { s with requests := s.requests.eraseP fun r => r.number == n }

/-- A program's status: error when a header of it ended in error. -/
def Request.status (r : Request) : Nat := b2n r.error

/-- The after-notice record of a request whose program has completed (R426). -/
def State.afterNotice (s : State) (r : Request) (t : Nat) : State :=
  (s.decide r (deliveryBytes 4 r.cls r.status 0 r.id r.promised t r.arrival)).forget r.number

/-- PROGRAM_COMPLETION (R408, R426): the report of a completed program reaches Skovlaper: by P a result, unless the program met
a failed domain; after the notice, a record. -/
def State.programCompletion (s : State) (n : Nat) : State :=
  match s.requests.find? (fun r => r.number == n) with
  | none => s
  | some r =>
    match r.completed with
    | none => s
    | some t =>
      if !s.anySkov then s
      else if r.delivered then s.afterNotice r t
      else if s.tick ≤ r.promised && !r.failed then
        ((s.bump (plmbReg s.seqPort 0x68) 1).decide r
          (deliveryBytes 3 r.cls r.status 0 r.id r.promised s.tick r.arrival)).forget n
      else s

def execProgramCompletion (number : Nat) (s : State) : Host.Outcome State Fault Refusal := .next (s.programCompletion number)

/-- A late notice (R427). -/
def lateBytes (r : Request) : List Byte :=
  padTo 64 (leBytes 8 (2 + 2 ^ 8 * r.cls + 2 ^ 16 * r.cause) ++ leBytes 8 (r.id + 2 ^ 32 * (r.done % 2 ^ 32)) ++
    leBytes 8 r.promised ++ leBytes 8 r.promised ++ leBytes 8 r.arrival ++ leBytes 8 r.unit)

/-- The late notice of one request, with its record at once where the program has completed; a program that STOP cut short
never will (R426, R479). -/
def State.notice (s : State) (r : Request) : State :=
  let s := (s.bump (plmbReg s.seqPort 0x70) 1).decide r (lateBytes r)
  match r.completed with
  | some t => s.afterNotice r t
  | none =>
    if r.todo == 0 then s.forget r.number
    else { s with requests := replaceFirst (fun x => x.number == r.number) (fun x => { x with delivered := true }) s.requests }

/-- Whether the promised tick of an undelivered request has come. -/
def Request.due (r : Request) (tick : Nat) : Bool := !r.delivered && r.promised ≤ tick

/-- LATE_NOTICE (R408, R426): every completion report is taken first; then every undelivered request whose promised tick has come. -/
def State.lateNotices (s : State) : State :=
  if !s.anySkov then s
  else
    let s := (s.requests.filter (·.due s.tick)).foldl (fun (s : State) r => s.programCompletion r.number) s
    (s.requests.filter (·.due s.tick)).foldl (fun (s : State) r => s.notice r) s

def execLateNotice (s : State) : Host.Outcome State Fault Refusal := .next s.lateNotices

end Sys2Proof.Machine
end

