-- ==== Sys2Proof/Machine/Regs.lean ====
section
/-! DEFINITION. The register map (R547 to R558), the keystone window (R410, R411), the submission lines (R369) and memory as
hosts, mason cores and Skovlapers reach them (R33, R371, R372, R386). -/

namespace Sys2Proof.Machine

/-! ## Windows of a control block (R368) -/

inductive Window where
  | keys
  | lines
  | pier
  | quoin (q : QuoinId)
  | absent
  deriving DecidableEq, Repr

def windowOf (p : PierId) (off : Nat) : Window :=
  if off < 0x4_0000 then .keys
  else if 0x10_0000 ≤ off && off < 0x10_0100 then .lines
  else if 0x20_0000 ≤ off && off < 0x40_0000 then .pier
  else if 0x80_0000 ≤ off && off < 0x90_0000 then
    match cornerQuoin p with
    | some q => .quoin q
    | none => .absent
  else .absent

/-! ## Registers -/

/-- The longest cyclic run of slots that do not belong to a stream (R296). -/
def PierCfg.gap (c : PierCfg) (stream : Nat) : Nat :=
  let bits := (List.range 64).map fun n => c.slot n == stream
  let run := (bits ++ bits).foldl (fun (a : Nat × Nat) b => if b then (0, a.2) else (a.1 + 1, max a.2 (a.1 + 1))) (0, 0)
  min 64 run.2

/-- PIER_BOND_SUMMARY (R296). -/
def PierCfg.bondSummary (c : PierCfg) : Nat :=
  c.slots 0 + 2 ^ 8 * c.slots 1 + 2 ^ 16 * c.slots 2 + 2 ^ 24 * c.gap 0 + 2 ^ 32 * c.gap 1 + 2 ^ 40 * c.gap 2 +
  2 ^ 48 * c.slots 3

/-- PLMB_STATUS (R446). -/
def Port.word (p : Port) : Nat :=
  let up := p.trainState == 5
  b2n p.present + b2n up * 2 + b2n p.bound * 4 + b2n p.reversed * 8 + b2n p.spareUsed * 16 +
  (if up then 2 ^ 8 * p.width + 2 ^ 12 * p.rate else 0) + 2 ^ 16 * (p.hostId % 65536) + 2 ^ 32 * p.retired + 2 ^ 36 * p.trainState

/-- Sensor value 67 in watts (R511). -/
def State.inputWatts (s : State) : Nat :=
  let v := sx 32 (s.sensorValue.get 67)
  if v < 0 then 0 else min (v.toNat / 1000) 65535

/-- SKOV_POWER (R511). -/
def State.powerWord (s : State) : Nat :=
  s.powerState + b2n s.power.heldDown * 4 + b2n s.power.tripped * 8 + 2 ^ 8 * s.power.tripSensor + 2 ^ 32 * s.inputWatts

/-- SKOV_FUNC_STATE (R467). -/
def State.funcWord (s : State) : Nat :=
  let f := s.func
  f.state + f.slot * 8 + 2 ^ 8 * f.checkA + 2 ^ 12 * f.checkB + 2 ^ 32 * (f.generation % 2 ^ 32)

/-- SKOV_ROLE (R502) and SKOV_WDOG (R505). -/
def Skov.role (k : Skov) : Nat :=
  b2n k.active + b2n k.peerReady * 2 + b2n k.peerRecovery * 4 + b2n k.recovery * 8 + 2 ^ 8 * k.fwCopy +
  2 ^ 16 * (k.takeovers % 2 ^ 32)
def Skov.wdog (k : Skov) : Nat := k.wdogMs % 65536 + 2 ^ 32 * (k.expiries % 2 ^ 32)

/-- SKOV_SENSOR_n (R508). -/
def State.sensorWord (s : State) (n : Nat) : Nat :=
  s.sensorValue.get n + 2 ^ 32 * s.sensorLevel.get n + 2 ^ 34 * s.sensorValid.get n

/-- PIER_CKPT_STATUS (R363), PIER_STEP (R342), PIER_BOND_POS (R296). -/
def Pier.ckptWord (p : Pier) : Nat := p.ckptPhase + b2n p.ckptDrainOk * 4 + 2 ^ 32 * (p.ckptLastEpoch % 2 ^ 32)
def Pier.stepWord (p : Pier) : Nat := p.epoch % 2 ^ 32 + 2 ^ 32 * (p.policy % 2 ^ 32)
def Pier.bondWord (p : Pier) : Nat := p.bondPos % 2 ^ 14 + 2 ^ 14 * b2n p.awake

/-- PIER_IDENT_BIND, _GEOM and _RATE (R549). -/
def identWord (p : PierId) (w : Nat) : Nat :=
  if w == 0 then Config.binding + 2 ^ 32 + 2 ^ 48 * p.val
  else if w == 8 then
    Config.walls + 2 ^ 4 * Config.courses + 2 ^ 8 * Config.cores + 64 * 2 ^ 16 + 8 * 2 ^ 24 + 4096 * 2 ^ 32 + 2 ^ 48 * Config.topkMax
  else 1300 + 1600 * 2 ^ 16 + 12 * 2 ^ 32 + 64 * 2 ^ 40 + 64 * 2 ^ 48

/-- Image-set registers at 0x100 to 0x1B8 (R548). -/
def PierCfg.word (c : PierCfg) (w : Nat) : Nat :=
  let all := [c.fpMode, c.spill, c.predAudit, c.bondLo, c.bondHi, c.linkShare, c.gStanding, c.sleep, c.routine, c.seedG,
    c.seedF, c.seedB, c.seedU, c.statsBase, c.statsCount, c.sparseBase, c.tableBase, c.paramBase, c.paramRange, c.progBase,
    c.normBase, c.fprintBase, c.ckptBase, c.ckptCxl]
  (all.getD ((w - 0x100) / 8) 0).toNat

/-- Whether an offset of a pier's register window is a counter (R551, R553, R554). -/
def pierCounter (w : Nat) : Bool :=
  if w < 0x1000 then 0x400 ≤ w && w < 0x400 + 8 * 50
  else if w < 0x2_0000 then 0x1_0000 ≤ w && w < 0x1_7000 && w % 0x1000 < 0x10
  else if w < 0x10_0000 then false
  else
    let o := (w - 0x10_0000) % 0x4000
    (w - 0x10_0000) / 0x4000 < 48 &&
      ((o < 0x2000 && o % 0x200 ≤ 0x100) || o == 0x2008 || o == 0x2010)

/-- Whether an offset of a quoin's register window is a counter (R551, R554). -/
def quoinCounter (q : QuoinId) (w : Nat) : Bool :=
  w == 8 || w == 0x108 || w == 0x218 || w == 0x220 ||
  ((q == 0 || q == 2) && 0x408 ≤ w && w ≤ 0x470) ||
  ((q == 1 || q == 3) && 0x1020 ≤ w && w ≤ 0x1040)

/-- A register of a pier that is no counter (R548, R553): 0 where nothing is listed (R14). -/
def State.pierWord (s : State) (p : PierId) (w : Nat) : Nat :=
  let pr := s.pier p
  if w < 0x18 then identWord p w
  else if w == 0x40 then pr.stepWord
  else if w == 0x48 then pr.bondWord
  else if w == 0x50 then pr.cfg.bondSummary
  else if w == 0x58 then pr.chanMap.toNat
  else if w == 0x60 then pr.spareStatus.toNat
  else if w == 0x68 then pr.ckptWord
  else if w == 0x80 then pr.fpFlushed.toNat
  else if w == 0x88 then pr.nonfinite.toNat
  else if 0x100 ≤ w && w ≤ 0x1B8 then pr.cfg.word w
  else if w == 0x2_0000 then pr.cfg.keyStep.toNat
  else if 0x10_0000 ≤ w && w < 0x1C_0000 && (w - 0x10_0000) % 0x4000 == 0x2000 then pr.cfg.bedSplit.toNat
  else 0

/-- A register of a quoin that is no counter (R554). -/
def State.quoinWord (s : State) (q : QuoinId) (w : Nat) : Nat :=
  if w == 0 then (s.cxlPort (cxlOf (2 * q.val))).word
  else if w == 0x100 then (s.cxlPort (cxlOf (2 * q.val + 1))).word
  else if w == 0x200 then (s.quoin q).deferBase.toNat
  else if w == 0x208 then (s.quoin q).queue.length
  else if w == 0x210 then (s.quoin q).spare.toNat
  else if q == 0 || q == 2 then (if w == 0x400 then (s.port (if q == 0 then 0 else 1)).word else 0)
  else
    let k := s.skov (q == 3)
    if w == 0x1000 then k.role
    else if w == 0x1008 then k.wdog
    else if w == 0x1010 then s.funcWord
    else if w == 0x1018 then s.powerWord
    else if 0x2000 ≤ w && w < 0x2400 then s.sensorWord ((w - 0x2000) / 8)
    else 0

/-- A register read at a control-block offset: the value, and the state with a counter cleared (R13, R558). -/
def State.regRead (s : State) (p : PierId) (off : Nat) : Nat × State :=
  let counter := (s.counters.get (controlBase p + off), { s with counters := s.counters.set (controlBase p + off) 0 })
  match windowOf p off with
  | .pier => if pierCounter (off - 0x20_0000) then counter else (s.pierWord p (off - 0x20_0000), s)
  | .quoin q => if quoinCounter q (off - 0x80_0000) then counter else (s.quoinWord q (off - 0x80_0000), s)
  | _ => (0, s)

/-- A register write at a control-block offset: the W1C flags of a pier and the RWS count of SKOV_ROLE take one (R13, R166,
R206, R502, R548); SKOV_WDOG takes its own firmware's alone (R505). -/
def State.regWrite (s : State) (p : PierId) (off v : Nat) : State :=
  let m := ~~~(BitVec.ofNat 64 v)
  match windowOf p off with
  | .pier =>
    if off == 0x20_0080 then s.updPier p fun pr => { pr with fpFlushed := pr.fpFlushed &&& m }
    else if off == 0x20_0088 then s.updPier p fun pr => { pr with nonfinite := pr.nonfinite &&& m }
    else s
  | .quoin q =>
    if off == 0x80_1000 && (q == 1 || q == 3) then s.updSkov (q == 3) fun k => { k with takeovers := fld v 47 16 } else s
  | _ => s

/-! ## Who may reach a control block -/

/-- What an access of a source to a control block comes to before its window acts: in order, or refused with a status (a
mason core's access fault, R32, R371). A Skovlaper reaches registers alone (R502). The keystone window judges an access itself (R411). -/
def mayReach (src : Source) (p : PierId) (w : Window) (off n : Nat) (write : Bool) : Bool :=
  match src with
  | .host _ _ | .gone _ => true
  | .mason mp _ => mp == p && (w == .keys || (n == 8 && off % 8 == 0) || (write && w == .lines && n == 64 && off % 64 == 0))
  | .skov _ => match w with
    | .pier | .quoin _ => true
    | _ => false

/-- The packets of a host's access to a control block and of its answer (R21, R22, R33). -/
def State.hostTrip (s : State) (src : Source) (p : PierId) : State :=
  match src with
  | .host t _ | .gone t => (s.sendPackets (quoinEdges (portQuoin t) p) 1).backTo src p
  | _ => s

/-! ## The keystone window (R410, R411) -/

/-- An operation sent to a keystone by a source (R412): a host's over the links, to be told once it is visible (R455); a mason core's at
port 6, whose store is complete. -/
def State.keyStore (s : State) (src : Source) (p : PierId) (key kind v : Nat) : State :=
  match src with
  | .host t _ | .gone t => s.sendKey (.quoin (portQuoin t)) key kind v (.ack src)
  | _ => (s.sendKey (.pier p 6) key kind v .none).answerWrite src 0

def State.keyWrite (s : State) (src : Source) (p : PierId) (off : Nat) (data : List Byte) : State :=
  if data.length != 8 || off % 8 != 0 then ((s.hostTrip src p).bumpPier p kKeyBad 1).answerWrite src 1
  else
    let key := 4096 * p.val + off / 64
    let v := leAt data 0 4
    match off % 64 / 8 with
    | 0 => s.keyStore src p key 1 v
    | 1 => s.keyStore src p key 0 v
    | 2 => s.keyStore src p key 2 v
    | _ => (s.hostTrip src p).answerWrite src 0

def State.keyRead (s : State) (src : Source) (p : PierId) (off n : Nat) : State :=
  if n != 8 || off % 8 != 0 then ((s.hostTrip src p).bumpPier p kKeyBad 1).answerRead src 1 n 0
  else
    let key := 4096 * p.val + off / 64
    match off % 64 / 8 with
    | 0 => (s.hostTrip src p).answerRead src 0 8 (s.keyValue key)
    | 2 => match src with
      | .host t _ | .gone t => s.sendKey (.quoin (portQuoin t)) key 2 1 (.access src)
      | _ => s.sendKey (.pier p 6) key 2 1 (.access src)
    | 3 => (s.hostTrip src p).answerRead src 0 8 (min (s.keyWaiters key) 65535)
    | _ => (s.hostTrip src p).answerRead src 0 8 0

/-! ## Submission lines (R369) -/

/-- Where the headers of a source come from (R47, R452, R465). -/
def originOf : Source → Origin
  | .host p tag => .host p tag
  | .gone p => .departed p
  | _ => .image

def State.lineWrite (s : State) (src : Source) (p : PierId) (off : Nat) (data : List Byte) : State :=
  let line := off % 256 / 64
  if data.length != 64 || off % 64 != 0 then
    ((s.bumpPier p kSubmitBad 1).updPier p fun pr =>
      { pr with submitBad := pr.submitBad.set line (pr.submitBad.get line + 1) }).answerWrite src 0
  else
    let h := headerOf data
    let host := match src with | .host _ _ | .gone _ => true | _ => false
    if host && s.func.state != 3 then s.answerWrite src 5
    else
      let (s, done) := s.submitHeader h (originOf src) (.inl p) (some src)
      if done then s.answerWrite src 0 else s

/-- The 64 bytes of a submission line (R369). -/
def State.lineBytes (s : State) (p : PierId) (line : Nat) : List Byte :=
  let q : QKey := ⟨BitVec.ofNat 16 (pierUnit p), streamOf line⟩
  padTo 64 (leBytes 8 (min (q.depth - (s.queue q).length) 65535 + 2 ^ 32 * min ((s.pier p).submitBad.get line) 65535))

/-- n bytes of a pier's submission lines, and the discarded counts that the read clears. -/
def State.lineTake (s : State) (p : PierId) (off n : Nat) : Nat × State :=
  let o := off % 256
  let all := (List.range 4).flatMap fun l => s.lineBytes p l
  let touched := (List.range 4).filter fun l => o < 64 * l + 64 && 64 * l < o + n
  (leAt all o n, s.updPier p fun pr => { pr with submitBad := touched.foldl (fun (t : Table) l => t.set l 0) pr.submitBad })

def State.lineRead (s : State) (src : Source) (p : PierId) (off n : Nat) : State :=
  let r := s.lineTake p off n
  r.2.answerRead src 0 n r.1

/-! ## A control block as a whole -/

/-- A write to a control block. The keystones and submission lines of a sleeping pier wake it (R435), those of a failed one refuse the
access (R438); a register does neither (R557). -/
def State.controlWrite (s : State) (src : Source) (p : PierId) (off : Nat) (data : List Byte) : State :=
  let w := windowOf p off
  if !mayReach src p w off data.length true then s.answerWrite src 1
  else match w with
    | .keys => if s.deadPier p then s.answerWrite src 1 else (s.wakePier p).keyWrite src p off data
    | .lines => if s.deadPier p then s.answerWrite src 1 else ((s.hostTrip src p).wakePier p).lineWrite src p off data
    | .absent => s.answerWrite src 2
    | _ => if data.length != 8 || off % 8 != 0 then s.answerWrite src 1
      else ((s.hostTrip src p).regWrite p off (leAt data 0 8)).answerWrite src 0

/-- A read of a control block, likewise. -/
def State.controlRead (s : State) (src : Source) (p : PierId) (off n : Nat) : State :=
  let w := windowOf p off
  if !mayReach src p w off n false then s.answerRead src 1 n 0
  else match w with
    | .keys => if s.deadPier p then s.answerRead src 1 n 0 else (s.wakePier p).keyRead src p off n
    | .lines => if s.deadPier p then s.answerRead src 1 n 0 else ((s.hostTrip src p).wakePier p).lineRead src p off n
    | .absent => s.answerRead src 2 n 0
    | _ => if n != 8 || off % 8 != 0 then s.answerRead src 1 n 0
      else
        let (v, s) := (s.hostTrip src p).regRead p off
        s.answerRead src 0 8 v

/-! ## Memory by the host path (R33, R36, R372, R386) -/

/-- The bytes a host's read by a port returns with its status: zeros of an absent address, through a crossing that refuses the read
(R438), or of a poisoned line; the home pier woken, the lines demanded through its mortar, one packet there and one back for each
(R22, log 89). -/
def State.hostRead (s : State) (port : PortId) (a n : Nat) : Nat × List Byte × State :=
  match s.memHome a with
  | none => (2, List.replicate n 0, s)
  | some h =>
    let ls := linesOf a n
    let q := portQuoin port
    let s := ((s.wakePier h).sendPackets (quoinEdges q h) ls.length).sendPackets (backEdges q h) ls.length
    if ls.any fun l => s.dead h l then (1, List.replicate n 0, s)
    else
      let s := s.demandLines h ls
      let bad := ls.filter fun l => s.poison.contains l
      if bad.isEmpty then (0, s.rawBytes a n, s)
      else (3, List.replicate n 0, s.bumpPier h kPoisonRead bad.length)

def State.hostWrite (s : State) (port : PortId) (a : Nat) (data : List Byte) : Nat × State :=
  match s.memHome a with
  | none => (2, s)
  | some h =>
    let s := (s.wakePier h).sendPackets (quoinEdges (portQuoin port) h) (linesOf a data.length).length
    if s.deadPier h then (1, s) else (0, s.writeBytes .mortar a data)

/-- The port whose quoin an access enters by. -/
def entryPort : Source → PortId
  | .host p _ | .gone p => p
  | _ => 0

/-- Whether an access stays within 256 aligned bytes (R456). -/
def within256 (a n : Nat) : Bool := a % 256 + n ≤ 256

/-- A read or a write of any window, with its answer. -/
def State.accessRead (s : State) (src : Source) (a n : Nat) : State :=
  match s.place a with
  | .control p off => s.controlRead src p off n
  | _ =>
    let (st, bs, s) := s.hostRead (entryPort src) a n
    s.answerRead src st n (ofBytes bs)

def State.accessWrite (s : State) (src : Source) (a : Nat) (data : List Byte) : State :=
  match s.place a with
  | .control p off => s.controlWrite src p off data
  | _ =>
    let (st, s) := s.hostWrite (entryPort src) a data
    s.answerWrite src st

/-! ## The accesses that the table names -/

/-- The window, pier and offset of an address, if it is a control block's. -/
def State.windowAt (s : State) (a : Nat) : Option (Window × PierId × Nat) :=
  match s.place a with
  | .control p off => some (windowOf p off, p, off)
  | _ => none

/-- Whether an offset lies in word i of a keystone line. -/
def keyWordIs (i : Nat) (w : Window) (off : Nat) : Bool := w == .keys && off % 64 / 8 == i
def isLines (w : Window) (_ : Nat) : Bool := w == .lines
def isRegs (w : Window) (_ : Nat) : Bool := match w with | .pier | .quoin _ => true | _ => false

/-- A host's access counts only from a port that may make it (R463, R468), and within 256 bytes (R456); others always. -/
def State.hostGate (s : State) (src : Source) (a n : Nat) : Option Nat :=
  match src with
  | .host p _ =>
    if !(s.port p).bound then some 4 else if s.func.state ≤ 2 then some 5 else if !within256 a n then some 7 else none
  | .gone _ => if s.func.state ≤ 2 then some 5 else if !within256 a n then some 7 else none
  | _ => none

/-- The bytes of a message from a host (R452); `n`: rlen. -/
def msgBytes (mtype tag a n : Nat) (data : List Byte) : List Byte :=
  leBytes 8 (mtype + 2 ^ 8 * data.length + 2 ^ 32 * tag) ++ leBytes 8 (a % 2 ^ 52 + 2 ^ 52 * (n % 256)) ++ data

/-- Whether an operation that answers a port's host is on its way to a keystone: a test-and-set read, or any. -/
def State.keyOwes (s : State) (p : PortId) (write : Bool) : Bool :=
  let mine : TasAnswer → Bool := fun a => match a with
    | .ack (.host r _) => r == p
    | .access (.host r _) => r == p && !write
    | _ => false
  s.linkHeld.any (fun x => mine x.op.answer) ||
  s.piers.toList.any fun pr => (pr.keyDeferred ++ pr.keyArriving).any fun o => mine o.answer

/-- Whether a message of queues 0 to 2 must wait (R369, R455): for an earlier message of its queue that waits, or, of queues 1
and 2, for an earlier MEM_WRITE that does. A submission held at a full queue waits with its message, and a keystone access until its
keystone has taken it. -/
def State.blocked (s : State) (p : PortId) (mtype : Nat) : Bool :=
  let has := fun ts => (s.port p).inbox.any fun m => ts.contains (byteAt m.2 0).toNat
  let line := s.waitingSubs.any fun w => match w.ack with
    | some (.host r _) => r == p
    | _ => false
  let sub := s.waitingSubs.any fun w => w.ack.isNone && (match w.origin with
    | .host r _ => r == p
    | _ => false)
  if mtype ≤ 2 then line || s.keyOwes p false || has [1, 2]
  else if mtype ≤ 4 then line || s.keyOwes p true || sub || has [2, 3, 4] else line || s.keyOwes p true || has [2, 5]

/-- A message put behind those that wait. -/
def State.hold (s : State) (p : PortId) (m : List Byte) : State :=
  s.updPort p fun pt => { pt with inbox := pt.inbox ++ [(false, m)] }

end Sys2Proof.Machine
end

