-- ==== Sys2Proof/Machine/Messages.lean ====
section
/-! DEFINITION. The messages of queues 0 to 2 from a host (R453, R455, R456, R459, R460, R463, R468), whether their command
comes by itself or out of flits. -/

namespace Sys2Proof.Machine

/-! ## Refusals -/

/-- The status that turns a message away before its type acts (R463, R468): not bound, not running. -/
def State.refusal (s : State) (p : PortId) (needsRun : Bool) : Option Nat :=
  if !(s.port p).bound then some 4
  else if s.func.state ≤ 2 then some 5
  else if needsRun && s.func.state != 3 then some 5
  else none

/-! ## Queue 0 (R456) -/

def State.takeRead (s : State) (src : Source) (a n : Nat) : State :=
  match s.hostGate src a n with
  | some st => s.answerRead src st 0 0
  | none => s.accessRead src a n

def State.takeWrite (s : State) (src : Source) (a : Nat) (data : List Byte) : State :=
  match s.hostGate src a data.length with
  | some st => s.answerWrite src st
  | none => s.accessWrite src a data

/-! ## SUBMIT (R456) -/

def State.takeSubmit (s : State) (p : PortId) (tag : U32) (h : Header) : State :=
  match s.refusal p true with
  | some st => s.send p ⟨0x13, tag.toNat, 0, State.badUnit.completion h st s.tick⟩
  | none => (s.submitHeader h (.host p tag) (.inr p) none).1

/-! ## WATCH (R460) -/

/-- A kind 0x06 record. -/
def watchRecord (status watchTag tick value : Nat) : List Byte :=
  padTo 64 (leBytes 8 (6 + 2 ^ 16 * status + 2 ^ 32 * watchTag) ++ leBytes 8 tick ++ leBytes 8 value)

/-- A watch payload's defects: any bit outside its fields, a condition of 3 or more, a push length above 4,096. -/
def watchBad (w0 w1 w2 w3 : Nat) : Bool :=
  fld w0 31 18 != 0 || fld w0 17 15 ≥ 3 || fld w1 63 52 != 0 || fld w2 63 13 != 0 || fld w2 12 0 > 4096 || fld w3 63 32 != 0

def State.takeWatch (s : State) (p : PortId) (tag : U32) (payload : List Byte) : State :=
  let w0 := leAt payload 0 8
  let w1 := leAt payload 8 8
  let w2 := leAt payload 16 8
  let w3 := leAt payload 24 8
  let wtag := fld w3 31 0
  let answer := fun st => s.send p ⟨0x13, tag.toNat, 0, watchRecord st wtag s.tick 0⟩
  match s.refusal p true with
  | some st => answer st
  | none =>
    if watchBad w0 w1 w2 w3 then answer 7
    else if (s.port p).watches.length ≥ Config.watchCap then answer 6
    else
      let key := fld w0 14 0
      let cond := fld w0 17 15
      let value := fld w0 63 32
      let met := waitMet cond (s.keyValue key) value
      s.updPort p fun pt => { pt with watches := pt.watches ++ [⟨key, cond, value, w1, fld w2 12 0, wtag, tag.toNat, met⟩] }

/-- What a push reads of one piece: its status and bytes. Of a control block it reads as a host's read does (R12, R369, R410, R411);
a test-and-set that it makes takes a mortar cycle of its own, at once (DESIGN CHOICE; log 99). -/
def State.pushPiece (s : State) (port : PortId) (a n : Nat) : Nat × List Byte × State :=
  match s.place a with
  | .control p off =>
    let zeros := List.replicate n 0
    let key := 4096 * p.val + off / 64
    let whole := n == 8 && off % 8 == 0
    let t := s.hostTrip (.host port 0) p
    match windowOf p off with
    | .pier | .quoin _ => if !whole then (1, zeros, s) else let (v, s) := t.regRead p off; (0, leBytes 8 v, s)
    | .keys =>
      if s.deadPier p then (1, zeros, s)
      else if !whole then (1, zeros, (t.wakePier p).bumpPier p kKeyBad 1)
      else
        let w := off % 64 / 8
        let v := if w == 0 || w == 2 then s.keyValue key else if w == 3 then min (s.keyWaiters key) 65535 else 0
        (0, leBytes 8 v, if w == 2 then (t.wakePier p).keyTas key else t.wakePier p)
    | .lines => if s.deadPier p then (1, zeros, s) else let r := (t.wakePier p).lineTake p off n; (0, leBytes n r.1, r.2)
    | .absent => (2, zeros, s)
  | _ => s.hostRead port a n

/-- Messages that a push of 4,096 bytes takes at most (R460). -/
def pushPieces : Nat := 18

/-- The push range sent in MEM_DATA messages that stay within 256 bytes, and the worst status met. -/
def State.push (p : PortId) (wtag : Nat) : Nat → State → Nat → Nat → Nat → Nat × State
  | 0, s, _, _, worst => (worst, s)
  | k + 1, s, a, left, worst =>
    if left == 0 then (worst, s)
    else
      let n := min left (256 - a % 256)
      let (st, bs, s) := s.pushPiece p a n
      let s := s.send p ⟨0x11, wtag, st, bs⟩
      State.push p wtag k s (wrap52 (a + n)) (left - n) (if worst == 0 then st else worst)

/-- WATCH_MET: the push, the record with the keystone's value, and the watch removed. -/
def State.watchMet (s : State) (p : PortId) (wtag : Nat) : State :=
  match (s.port p).watches.find? (fun w => w.tag == wtag && w.met) with
  | none => s
  | some w =>
    let s := s.updPort p fun pt => { pt with watches := pt.watches.eraseP fun x => x.tag == wtag && x.met }
    let r := State.push p wtag pushPieces s w.push w.pushLen 0
    r.2.send p ⟨0x13, w.mtag, 0, watchRecord r.1 wtag r.2.tick (r.2.keyValue w.key)⟩

def execWatchMet (port : PortId) (watchTag : U32) (s : State) : Host.Outcome State Fault Refusal :=
  .next (s.watchMet port watchTag.toNat)

/-! ## ADMIT (R421, R459, R463, R468) -/

/-- ADMIT: turned away, or among the requests that are decided as its tick ends (R421; log 51). -/
def State.takeAdmit (s : State) (p : PortId) (tag : U32) (payload : List Byte) : State :=
  match s.refusal p false with
  | some st =>
    let w := leAt payload 0 8
    s.send p ⟨0x14, tag.toNat, 0, deliveryBytes 5 (fld w 5 0) st 0 (fld w 63 32) 0 s.tick s.tick⟩
  | none => { s with admits := s.admits ++ [⟨p, tag.toNat, payload⟩] }

/-! ## Arrival in order (R369, R455, R465) -/

/-- A message of queues 0 to 2 takes effect; the credit it used is owed back (R454). -/
def State.take (s : State) (p : PortId) (m : List Byte) : State :=
  let w0 := leAt m 0 8
  let w1 := leAt m 8 8
  let tag : U32 := BitVec.ofNat 32 (fld w0 63 32)
  let data := m.drop 16
  let a := fld w1 51 0
  match fld w0 7 0 with
  | 1 => (s.takeRead (.host p tag) a (fld w1 59 52 + 1)).giveCredit p 0
  | 2 => (s.takeWrite (.host p tag) a data).giveCredit p 0
  | 3 => (s.takeSubmit p tag (headerOf data)).giveCredit p 1
  | 4 => (s.takeWatch p tag data).giveCredit p 1
  | 5 => (s.takeAdmit p tag data).giveCredit p 2
  | _ => s

/-- A message of a host that has departed (R465): memory requests and submissions are carried out with their answers
discarded; of a watch or request nothing is left but the count of its answer. -/
def State.takeDeparted (s : State) (p : PortId) (m : List Byte) : State :=
  let w1 := leAt m 8 8
  let data := m.drop 16
  let a := fld w1 51 0
  match fld (leAt m 0 8) 7 0 with
  | 1 => s.takeRead (.gone p) a (fld w1 59 52 + 1)
  | 2 => s.takeWrite (.gone p) a data
  | 3 => if s.func.state == 3 then (s.submitHeader (headerOf data) (.departed p) (.inr p) none).1 else s.bump (plmbReg p 0x10) 1
  | 4 | 5 => s.bump (plmbReg p 0x10) 1
  | _ => s

/-- A message that arrives: taken, or put behind those that wait. -/
def State.arrive (s : State) (p : PortId) (m : List Byte) : State :=
  if s.blocked p (byteAt m 0).toNat then s.hold p m else s.take p m

/-- Messages that waited taken in order, as far as nothing holds them any more. -/
def State.drainInbox (s : State) (p : PortId) : State :=
  let ms := (s.port p).inbox
  if ms.isEmpty then s
  else ms.foldl (fun (s : State) m =>
    if s.blocked p (byteAt m.2 0).toNat then s.updPort p fun pt => { pt with inbox := pt.inbox ++ [m] }
    else if m.1 then s.takeDeparted p m.2
    else s.take p m.2) (s.updPort p fun pt => { pt with inbox := [] })

/-- Messages that waited at either port go on (R455), in the ports' rotation, which then stands behind the last one served (R409). -/
def State.drainInboxes (s : State) : State :=
  (portsFrom s.portRot).foldl (fun (s : State) p =>
    let t := s.drainInbox p
    if (t.port p).inbox.length == (s.port p).inbox.length then t else { t with portRot := (p.val + 1) % 2 }) s

/-- KEYSTONE_UPDATE_CYCLE and KEYSTONE_DEFERRED_TAS (R412), and the messages behind an access that they complete. -/
def execKeystoneUpdateCycle (key : KeyId) (s : State) : Host.Outcome State Fault Refusal :=
  .next (s.keyUpdate key.val).drainInboxes
def execKeystoneDeferredTas (key : KeyId) (s : State) : Host.Outcome State Fault Refusal :=
  .next (s.keyDeferredStep key.val).drainInboxes

/-- SUBMISSION_ENQUEUE (R369): the submission enters its queue, and the messages behind it go on. -/
def State.submissionEnqueue (s : State) (q : QKey) : State := (s.enqueueWaiting q).drainInboxes

def execSubmissionEnqueue (q : QKey) (s : State) : Host.Outcome State Fault Refusal := .next (s.submissionEnqueue q)

/-! ## The commands: one message each, over a link that is Active -/

/-- A protocol error (R453): counted, and the link taken down. -/
def State.protocolError (s : State) (p : PortId) : State := (s.bump (plmbReg p 0x08) 1).linkDown p

/-- A message comes only over an Active link (R443); a length that its type does not allow is a protocol error (R453). -/
def State.message (s : State) (p : PortId) (m : List Byte) : State :=
  if (s.port p).trainState != 5 then s
  else if lengthOk (byteAt m 0).toNat (m.length - 16) then s.arrive p m
  else s.protocolError p

/-- A header's 64 bytes. -/
def headerBytes (h : Header) : List Byte :=
  [h.w0, h.w1, h.w2, h.w3, h.w4, h.w5, h.w6, h.w7].flatMap fun w => leBytes 8 w.toNat

def execMemRead (port : PortId) (tag : U32) (addr : Nat) (rlen : Fin 256) (s : State) : Host.Outcome State Fault Refusal :=
  .next (s.message port (msgBytes 1 tag.toNat addr rlen.val []))
def execMemWrite (port : PortId) (tag : U32) (addr : Nat) (data : List Byte) (s : State) : Host.Outcome State Fault Refusal :=
  .next (s.message port (msgBytes 2 tag.toNat addr 0 data))
def execSubmit (port : PortId) (tag : U32) (hdr : Header) (s : State) : Host.Outcome State Fault Refusal :=
  .next (s.message port (msgBytes 3 tag.toNat 0 0 (headerBytes hdr)))
def execWatch (port : PortId) (tag : U32) (payload : List Byte) (s : State) : Host.Outcome State Fault Refusal :=
  .next (s.message port (msgBytes 4 tag.toNat 0 0 (padTo 32 payload)))
def execAdmitMsg (port : PortId) (tag : U32) (payload : List Byte) (s : State) : Host.Outcome State Fault Refusal :=
  .next (s.message port (msgBytes 5 tag.toNat 0 0 (padTo 16 payload)))

/-! ## Accesses that name a window -/

/-- A write of SKOV_WDOG by its own instance's firmware (R505): window and expiries set, a kick starts a new window; one of another
width is an access error (R12). -/
def State.ownWdog (s : State) (d : Bool) (data : List Byte) : State :=
  let v := leAt data 0 8
  if !(s.skov d).up then s
  else if data.length != 8 then s.answerWrite (.skov d) 1
  else (s.updSkov d fun k => { k with
      wdogMs := v % 65536, expiries := fld v 63 32, kickTick := if bitAt v 16 then s.tick else k.kickTick }).answerWrite (.skov d) 0

/-- A write or read of a window of one kind by any source, a host's as its message; elsewhere the event is none of that
window's and changes nothing (log 11). -/
def State.windowWrite (s : State) (src : Source) (a : Nat) (data : List Byte) (ok : Window → Nat → Bool) : State :=
  match s.windowAt a with
  | some (w, _, off) =>
    if !ok w off then s
    else match src with
    | .gone _ => s
    | .host p tag => s.message p (msgBytes 2 tag.toNat a 0 data)
    | .skov d => if a == skovReg d 8 then s.ownWdog d data else s.accessWrite src a data
    | .mason _ _ => s.accessWrite src a data
  | none => s

def State.windowRead (s : State) (src : Source) (a n : Nat) (ok : Window → Nat → Bool) : State :=
  match s.windowAt a with
  | some (w, _, off) =>
    if !ok w off then s
    else match src with
    | .gone _ => s
    | .host p tag => s.message p (msgBytes 1 tag.toNat a (n + 255) [])
    | _ => s.accessRead src a n
  | none => s

def execSubmissionLineWrite (src : Source) (addr : Nat) (data : List Byte) (s : State) : Host.Outcome State Fault Refusal :=
  .next (s.windowWrite src addr data isLines)
def execSubmissionLineRead (src : Source) (addr len : Nat) (s : State) : Host.Outcome State Fault Refusal :=
  .next (s.windowRead src addr len isLines)
def execKeystoneValueWrite (src : Source) (addr : Nat) (data : List Byte) (s : State) : Host.Outcome State Fault Refusal :=
  .next (s.windowWrite src addr data (keyWordIs 0))
def execKeystoneAddWrite (src : Source) (addr : Nat) (data : List Byte) (s : State) : Host.Outcome State Fault Refusal :=
  .next (s.windowWrite src addr data (keyWordIs 1))
def execKeystoneTasRead (src : Source) (addr len : Nat) (s : State) : Host.Outcome State Fault Refusal :=
  .next (s.windowRead src addr len (keyWordIs 2))
def execKeystoneTasWrite (src : Source) (addr : Nat) (data : List Byte) (s : State) : Host.Outcome State Fault Refusal :=
  .next (s.windowWrite src addr data (keyWordIs 2))
def execCounterRead (src : Source) (addr len : Nat) (s : State) : Host.Outcome State Fault Refusal :=
  .next (s.windowRead src addr len isRegs)
def execRegisterWrite (src : Source) (addr : Nat) (data : List Byte) (s : State) : Host.Outcome State Fault Refusal :=
  .next (s.windowWrite src addr data isRegs)

/-- WATCHDOG_KICK (R505): a write of SKOV_WDOG; by any other source than the instance's own firmware it changes nothing. -/
def State.watchdogKick (s : State) (src : Source) (addr : Nat) (data : List Byte) : State :=
  if addr == skovReg false 8 || addr == skovReg true 8 then s.windowWrite src addr data isRegs else s

def execWatchdogKick (src : Source) (addr : Nat) (data : List Byte) (s : State) : Host.Outcome State Fault Refusal :=
  .next (s.watchdogKick src addr data)

end Sys2Proof.Machine
end

