-- ==== Sys2Proof/Machine/Failures.lean ====
section
/-! DEFINITION. Domains declared failed (R437, R438), mason exchanges that run out of time (R491) and the accesses of mason
cores (R32, R371, R379, R386). -/

namespace Sys2Proof.Machine

/-! ## A domain declared failed -/

/-- The headers of a request's class program (R425). -/
def State.programOf (s : State) (r : Request) : List Header :=
  (List.range (s.classCount r.cls)).map fun i => headerOf (s.rawBytes (s.classProgram r.cls + 64 * i) 64)

/-- Whether a request's program touches a domain (R438): a course or mortar by a header of it; a mason core, a channel, a link end, a CXL
port's or another quoin's by the piers of its class; a Plumbline port that it came by; the quoin whose sequencer runs it. An idle spare
runs nothing. -/
def State.touches (s : State) (d : Domain) (r : Request) : Bool :=
  match d with
  | .course _ | .mortar _ => (s.programOf r).any fun h => needsDomain d h
  | .mason p _ | .gddr p _ => s.classHas r.cls p
  | .linkEnd l dir => s.classHas r.cls (linkPier l.val dir)
  | .cxl q => s.classHas r.cls (cornerPier (cxlQuoin q))
  | .plumbline p => r.port == p
  | .quoin q => s.classHas r.cls (cornerPier q) || q == portQuoin s.seqPort || q == portQuoin r.port
  | .spareCourse _ | .spareMason _ => false

/-- The domain in a record: unit_kind, unit, die, physical index (R497); a course's and a mason core's by the logical number that it
bears and its own physical index, an idle spare's by its pier (R34; log 95). -/
def State.domainWho (s : State) : Domain → Who
  | .course c => ⟨1, courseUnit c, c.pier.val, (s.pier c.pier).physCourse c.course.val⟩
  | .mortar p => ⟨3, pierUnit p, p.val, 0⟩
  | .mason p k => ⟨8, pierUnit p, p.val, (s.pier p).physMason k.val⟩
  | .spareCourse p => ⟨1, pierUnit p, p.val, ((s.pier p).idleCourse).getD 48⟩
  | .spareMason p => ⟨8, pierUnit p, p.val, ((s.pier p).idleMason).getD 8⟩
  | .gddr p ch => ⟨4, pierUnit p, p.val, ch.val⟩
  | .linkEnd l d => ⟨7, pierUnit (linkPier l.val d), (linkPier l.val d).val, l.val⟩
  | .cxl q => ⟨10, 0xFFFF, 8 + (cxlQuoin q).val, q.val⟩
  | .plumbline p => ⟨11, 0xFFFF, 8 + (portQuoin p).val, p.val⟩
  | .quoin q => ⟨12, 0xFFFF, 8 + q.val, q.val⟩

/-- The domain held stopped, and sounded where its unit has a class (R438, R487, R488); an idle spare is out of its pool (R489). -/
def State.stopDomain (s : State) (d : Domain) : State :=
  match d with
  | .course c => (s.updPier c.pier fun pr =>
      { pr with coursesAwake := pr.coursesAwake.filter (· != c.course.val) }).startSounding (.course c) false
  | .mortar p => s.runChange ((s.refuseKeys p).updPier p fun pr => { pr with awake := false, coursesAwake := [] })
  | .mason p k => s.startSounding (.mason p k) false
  | .spareCourse p => s.dropSpare (.course ⟨p, 0⟩)
  | .spareMason p => s.dropSpare (.mason p 0)
  | .gddr p ch => s.startSounding (.gddrInterface p ch) false
  | .linkEnd l _ => s.retireLink l
  | .cxl q => s.cxlSurprise q
  | .plumbline p => s.linkDown p
  | .quoin q =>
    let s := s.degradeQuoin q
    if q == portQuoin s.seqPort then s.startSounding .moduleSequencer false else s

/-- A declaration (R437, R438): counted and recorded, what waited at its crossing completed with error, running shares ended,
the domain stopped, the requests that touched it marked for a late notice with cause 2. -/
def State.declareFailed (s : State) (d : Domain) (crossing : Nat) : State :=
  let w := s.domainWho d
  let s := (s.bump (skovReg s.activeD 0x20) 1).log { errorRecord 0x08 3 w.kind 12 w.unit s.tick with
    die := w.die, physical := w.physical, detail0 := s.tick - 4096, detail1 := crossing }
  let reqs := s.requests.map fun (r : Request) =>
    if r.delivered || !s.touches d r then r else { r with failed := true, cause := 2, unit := w.unit }
  let s := { s with crossHeld := clearCross s.crossHeld (domainNo d), requests := reqs }
  let s := match domainPier d with
    | some p => (s.updPier p fun pr => { pr with failed := pr.failed ++ [domainNo d] }).endHeaders (needsDomain d) p
    | none => s
  s.stopDomain d

/-- Whether a domain counts as failed; an idle spare's, where none is left, is no domain. -/
def State.isFailed (s : State) (d : Domain) : Bool :=
  (match d with
    | .spareCourse p => (s.pier p).idleCourse.isNone
    | .spareMason p => (s.pier p).idleMason.isNone
    | _ => false) ||
  match domainPier d with
  | some p => (s.pier p).failed.contains (domainNo d)
  | none => false

/-- Whether the entries that the model holds before a domain have waited for less than the monitor's window of 4,096 ticks (R437). -/
def State.crossingYoung (s : State) (d : Domain) : Bool :=
  s.crossHeld.get (domainNo d) != 0 && s.tick + 1 < s.crossHeld.get (1000 + domainNo d) + 4096

/-- DOMAIN_DECLARED_FAILED (R437): by the active Skovlaper's monitor, of a crossing that has made no progress for its window. What waits
at other crossings than those of headers, and the clock fault behind it, stand in the event alone (log 17). -/
def State.domainFailed (s : State) (d : Domain) (crossing : Nat) : State :=
  if !s.activeUp || s.isFailed d || s.crossingYoung d then s else s.declareFailed d crossing

def execDomainDeclaredFailed (d : Domain) (crossing : Nat) (s : State) : Host.Outcome State Fault Refusal :=
  .next (s.domainFailed d crossing)

/-- MASON_SAVE_TIMEOUT (R491): 1 ms after an exchange began its save, the core's domain is declared failed; the spare stands in,
and the logical core restarts at its mason start entry or waits for an interrupt. -/
def State.saveTimeout (s : State) (p : PierId) (k : Fin 8) : State :=
  match s.savingAt p k with
  | none => s
  | some t =>
    if s.tick < t + 50000 then s
    else
      let s := if s.isFailed (.mason p k) then s else s.declareFailed (.mason p k) 0
      (s.exchange (.mason p k)).updPier p fun pr => { pr with masons := pr.masons.modify k.val (·.restart) }

def execMasonSaveTimeout (p : PierId) (core : Fin 8) (s : State) : Host.Outcome State Fault Refusal :=
  .next (s.saveTimeout p core)

/-! ## Mason cores (R32, R371) -/

/-- What an access leaves in its core: the value a load returned and the access fault raised (0 none, 1 load, 2 store, 3
fetch). -/
def State.masonDone (s : State) (p : PierId) (k : Fin 8) (loaded : Option Nat) (fault : Nat) : State :=
  s.updPier p fun pr => { pr with masons := pr.masons.modify k.val fun m =>
    { m with loaded := loaded.getD m.loaded, faulted := fault } }

/-- Main memory of its own pier at every byte of an access. -/
def State.masonMem (s : State) (p : PierId) (a n : Nat) : Bool :=
  (List.range n).all fun i => s.memHome (a + i) == some p

/-- A line that a core's L2 cache takes a copy of (R379). -/
def State.share (s : State) (p : PierId) (line core : Nat) : State :=
  s.updPier p fun pr => { pr with mortar := pr.mortar.map fun l =>
    if l.line == line then { l with sharers := l.sharers ||| 2 ^ core } else l }

/-- Whether a core's L2 cache holds a line (R379). -/
def State.inL2 (s : State) (p : PierId) (k : Fin 8) (line : Nat) : Bool :=
  (s.pier p).mortar.any fun l => l.line == line && bitAt l.sharers ((s.pier p).physMason k.val)

/-- The value that n bytes of main memory give a core: from its L2, or by a read through the mortar that leaves its L2 a copy (R552); none, with the fault
raised, of a poisoned line, which is counted (R386, R405), or where a failed domain refuses the read (R438; log 94). -/
def State.masonRead (s : State) (p : PierId) (k : Fin 8) (a n fault : Nat) : Option Nat × State :=
  let ls := linesOf a n
  if ls.any fun l => s.dead p l then (none, s.masonDone p k none fault)
  else
    let s := s.demandLines p (ls.filter fun l => !s.inL2 p k l)
    let bad := ls.filter fun l => s.poison.contains l
    if !bad.isEmpty then (none, (s.bumpPier p kPoisonRead bad.length).masonDone p k none fault)
    else (some (s.rawWord a n), ls.foldl (fun (s : State) l => s.share p l ((s.pier p).physMason k.val)) s)

/-- A core's reservation set. -/
def State.reserve (s : State) (p : PierId) (k : Fin 8) (r : Option Nat) : State :=
  s.updPier p fun pr => { pr with masons := pr.masons.modify k.val fun m => { m with reserve := r } }

/-- Whether a core's reservation of a line stands: the line is the one reserved, and the core's L2 has kept its copy, which any write
and its eviction from the mortar take away (R371, R379). -/
def State.reservation (s : State) (p : PierId) (k : Fin 8) (line : Nat) : Bool :=
  ((s.pier p).masons[k.val]?).bind (·.reserve) == some line &&
  (s.pier p).mortar.any fun l => l.line == line && bitAt l.sharers ((s.pier p).physMason k.val)

/-- What an atomic memory operation writes over a value of n bytes, the operand given (R371, by the A extension). -/
def atomicResult (op : Atomic) (n old v : Nat) : Nat :=
  let m := 2 ^ (8 * n)
  let o := old % m
  let x := v % m
  let less := (o + m / 2) % m < (x + m / 2) % m
  match op with
  | .loadReserved => o
  | .storeConditional | .swap => x
  | .add => (o + x) % m
  | .xor => o ^^^ x
  | .and => o &&& x
  | .or => o ||| x
  | .min => if less then o else x
  | .max => if less then x else o
  | .minu => min o x
  | .maxu => max o x

/-- An atomic operation on main memory (R371): a load-reserved takes the reservation; a store-conditional writes and answers 0 where it
stands, else answers 1; the others read, and write what they compute. -/
def State.masonAtomic (s : State) (p : PierId) (k : Fin 8) (op : Atomic) (a n : Nat) (data : List Byte) : State :=
  let line := lineOf a
  let v := ofBytes data
  match op with
  | .loadReserved =>
    match s.masonRead p k a n 1 with
    | (some old, s) => (s.masonDone p k (some old) 0).reserve p k (some line)
    | (none, s) => s
  | .storeConditional =>
    let held := s.reservation p k line && !s.deadPier p
    let s := s.reserve p k none
    if held then (s.writeBytes .mortar a (leBytes n v)).masonDone p k (some 0) 0 else s.masonDone p k (some 1) 0
  | _ =>
    match s.masonRead p k a n 2 with
    | (some old, s) => (s.writeBytes .mortar a (leBytes n (atomicResult op n old v))).masonDone p k (some old) 0
    | (none, s) => s

/-- Whether a core runs and has nothing outstanding: it does not wait for an interrupt (R34), its domain has not failed (R438), and none
of its stores is held at a submission line (R369). -/
def State.masonRuns (s : State) (p : PierId) (k : Fin 8) : Bool :=
  (match (s.pier p).masons[k.val]? with
    | some m => !m.waits
    | none => false) &&
  !s.isFailed (.mason p k) && !s.waitingSubs.any fun w => w.ack == some (.mason p k)

/-- The access fault of a kind of access (R32): 1 load, 2 store or atomic, 3 fetch; a load-reserved takes a load's. -/
def faultOf : MasonOp → Nat
  | .load | .atomic .loadReserved => 1
  | .store | .atomic _ => 2
  | .fetch => 3

/-- Bytes that an access covers. -/
def accessBytes (op : MasonOp) (n : Nat) (data : List Byte) : Nat :=
  match op with
  | .store => data.length
  | _ => n

/-- MASON_LOAD_STORE by a core that runs. A control block of its own pier takes aligned 64-bit loads and stores and whole submission
lines (R371); of instruction fetches from it, which R371 does not name, and of atomics, which it gives main memory alone, the model
raises the access fault (DESIGN CHOICE; log 94). What lies in no memory or block of the pier raises the access fault of its kind (R32,
R371). A store that is complete answers no fault; one held at a full queue answers when its header has entered (R369). -/
def State.masonAccess (s : State) (p : PierId) (k : Fin 8) (op : MasonOp) (a n : Nat) (data : List Byte) : State :=
  let src := Source.mason p k
  if !s.masonRuns p k then s
  else if s.deadPier p then s.masonDone p k none (faultOf op)
  else if !(s.pier p).awake then s
  else match s.place a, op with
    | .control q off, .load => if q == p then s.controlRead src p off n else s.masonDone p k none 1
    | .control q off, .store => if q == p then s.controlWrite src p off data else s.masonDone p k none 2
    | .control _ _, op => s.masonDone p k none (faultOf op)
    | _, op =>
      if !s.masonMem p a (accessBytes op n data) then s.masonDone p k none (faultOf op)
      else match op with
        | .load => match s.masonRead p k a n 1 with
          | (some v, s) => s.masonDone p k (some v) 0
          | (none, s) => s
        | .store => (s.writeBytes .mortar a data).masonDone p k none 0
        | .fetch => match s.masonRead p k a n 3 with
          | (some _, s) => s.masonDone p k none 0
          | (none, s) => s
        | .atomic x => s.masonAtomic p k x a n data

def execMasonLoadStore (p : PierId) (core : Fin 8) (op : MasonOp) (addr len : Nat) (data : List Byte) (s : State) :
    Host.Outcome State Fault Refusal := .next (s.masonAccess p core op addr len data)

end Sys2Proof.Machine
end

