-- ==== Sys2Proof/Machine/Crypto.lean ====
section
/-! DEFINITION. The algorithms that R513 to R516 name: SHA-512 (FIPS 180-4), HMAC over it, and the verification of RSASSA-PSS
(RFC 8017) with SHA-512, MGF1 over SHA-512 and a 64-byte salt. Their constants are those of the standards (log 13). -/

namespace Sys2Proof.Machine

/-! ## SHA-512 -/

def two64 : Nat := 0x1_0000_0000_0000_0000

/-- A 64-bit word rotated right. -/
def rotr (x n : Nat) : Nat := (x >>> n ||| x <<< (64 - n)) % two64

/-- The four sums of the schedule and of a round. -/
def smallSig0 (x : Nat) : Nat := rotr x 1 ^^^ rotr x 8 ^^^ x >>> 7
def smallSig1 (x : Nat) : Nat := rotr x 19 ^^^ rotr x 61 ^^^ x >>> 6
def bigSig0 (x : Nat) : Nat := rotr x 28 ^^^ rotr x 34 ^^^ rotr x 39
def bigSig1 (x : Nat) : Nat := rotr x 14 ^^^ rotr x 18 ^^^ rotr x 41

/-- The constants of the 80 rounds. -/
def shaK1 : List Nat := [
  0x428A2F98D728AE22, 0x7137449123EF65CD, 0xB5C0FBCFEC4D3B2F, 0xE9B5DBA58189DBBC,
  0x3956C25BF348B538, 0x59F111F1B605D019, 0x923F82A4AF194F9B, 0xAB1C5ED5DA6D8118,
  0xD807AA98A3030242, 0x12835B0145706FBE, 0x243185BE4EE4B28C, 0x550C7DC3D5FFB4E2,
  0x72BE5D74F27B896F, 0x80DEB1FE3B1696B1, 0x9BDC06A725C71235, 0xC19BF174CF692694,
  0xE49B69C19EF14AD2, 0xEFBE4786384F25E3, 0x0FC19DC68B8CD5B5, 0x240CA1CC77AC9C65,
  0x2DE92C6F592B0275, 0x4A7484AA6EA6E483, 0x5CB0A9DCBD41FBD4, 0x76F988DA831153B5,
  0x983E5152EE66DFAB, 0xA831C66D2DB43210, 0xB00327C898FB213F, 0xBF597FC7BEEF0EE4,
  0xC6E00BF33DA88FC2, 0xD5A79147930AA725, 0x06CA6351E003826F, 0x142929670A0E6E70,
  0x27B70A8546D22FFC, 0x2E1B21385C26C926, 0x4D2C6DFC5AC42AED, 0x53380D139D95B3DF,
  0x650A73548BAF63DE, 0x766A0ABB3C77B2A8, 0x81C2C92E47EDAEE6, 0x92722C851482353B]
def shaK2 : List Nat := [
  0xA2BFE8A14CF10364, 0xA81A664BBC423001, 0xC24B8B70D0F89791, 0xC76C51A30654BE30,
  0xD192E819D6EF5218, 0xD69906245565A910, 0xF40E35855771202A, 0x106AA07032BBD1B8,
  0x19A4C116B8D2D0C8, 0x1E376C085141AB53, 0x2748774CDF8EEB99, 0x34B0BCB5E19B48A8,
  0x391C0CB3C5C95A63, 0x4ED8AA4AE3418ACB, 0x5B9CCA4F7763E373, 0x682E6FF3D6B2B8A3,
  0x748F82EE5DEFB2FC, 0x78A5636F43172F60, 0x84C87814A1F0AB72, 0x8CC702081A6439EC,
  0x90BEFFFA23631E28, 0xA4506CEBDE82BDE9, 0xBEF9A3F7B2C67915, 0xC67178F2E372532B,
  0xCA273ECEEA26619C, 0xD186B8C721C0C207, 0xEADA7DD6CDE0EB1E, 0xF57D4F7FEE6ED178,
  0x06F067AA72176FBA, 0x0A637DC5A2C898A6, 0x113F9804BEF90DAE, 0x1B710B35131C471B,
  0x28DB77F523047D84, 0x32CAAB7B40C72493, 0x3C9EBE0A15C9BEBC, 0x431D67C49C100D4C,
  0x4CC5D4BECB3E42B6, 0x597F299CFC657E2A, 0x5FCB6FAB3AD6FAEC, 0x6C44198C4A475817]

/-- The eight words of a hash value. -/
structure Hash where
  a : Nat
  b : Nat
  c : Nat
  d : Nat
  e : Nat
  f : Nat
  g : Nat
  h : Nat
  deriving DecidableEq, Repr

def shaInit : Hash :=
  ⟨0x6A09E667F3BCC908, 0xBB67AE8584CAA73B, 0x3C6EF372FE94F82B, 0xA54FF53A5F1D36F1,
    0x510E527FADE682D1, 0x9B05688C2B3E6C1F, 0x1F83D9ABFB41BD6B, 0x5BE0CD19137E2179⟩

/-- One round with its constant and its word of the schedule. -/
def Hash.round (s : Hash) (k w : Nat) : Hash :=
  let t1 := s.h + bigSig1 s.e + (s.e &&& s.f ^^^ (two64 - 1 - s.e) &&& s.g) + k + w
  let t2 := bigSig0 s.a + (s.a &&& s.b ^^^ s.a &&& s.c ^^^ s.b &&& s.c)
  ⟨(t1 + t2) % two64, s.a, s.b, s.c, (s.d + t1) % two64, s.e, s.f, s.g⟩

/-- The next word of the schedule, from the last sixteen, newest first. -/
def nextWord (ws : List Nat) : Nat :=
  (smallSig1 (ws.getD 1 0) + ws.getD 6 0 + smallSig0 (ws.getD 14 0) + ws.getD 15 0) % two64

/-- The rounds of a block: `ws` holds the words still to be used, the next last. -/
def shaRounds : List Nat → List Nat → Hash → Hash
  | [], _, s => s
  | k :: ks, ws, s => shaRounds ks (nextWord ws :: ws.take 15) (s.round k (ws.getD 15 0))

/-- A hash value with another's words added. -/
def Hash.add (x y : Hash) : Hash :=
  ⟨(x.a + y.a) % two64, (x.b + y.b) % two64, (x.c + y.c) % two64, (x.d + y.d) % two64,
    (x.e + y.e) % two64, (x.f + y.f) % two64, (x.g + y.g) % two64, (x.h + y.h) % two64⟩

/-- n bytes of a number, most significant first; and back. -/
def beBytes (n x : Nat) : List Byte := (leBytes n x).reverse
def ofBe (bs : List Byte) : Nat := ofBytes bs.reverse

/-- The sixteen words of a block, the first last. -/
def blockWords (bs : List Byte) : List Nat := ((List.range 16).map fun i => ofBe ((bs.drop (8 * i)).take 8)).reverse

/-- A message with its padding. -/
def shaPad (m : List Byte) : List Byte :=
  m ++ [0x80] ++ List.replicate ((239 - m.length % 128) % 128) 0 ++ beBytes 16 (8 * m.length)

/-- n blocks taken into a hash value. -/
def shaBlocks : Nat → List Byte → Hash → Hash
  | 0, _, s => s
  | n + 1, bs, s => shaBlocks n (bs.drop 128) (s.add (shaRounds (shaK1 ++ shaK2) (blockWords bs) s))

/-- SHA-512: 64 bytes (R473, R514). -/
def sha512 (m : List Byte) : List Byte :=
  let bs := shaPad m
  let s := shaBlocks (bs.length / 128) bs shaInit
  [s.a, s.b, s.c, s.d, s.e, s.f, s.g, s.h].flatMap (beBytes 8)

/-! ## HMAC-SHA-512 -/

/-- A key of at most 128 bytes with every byte masked. -/
def hmacKey (key : List Byte) (mask : Byte) : List Byte :=
  (padTo 128 (if key.length ≤ 128 then key else sha512 key)).map (· ^^^ mask)

def hmac512 (key m : List Byte) : List Byte := sha512 (hmacKey key 0x5C ++ sha512 (hmacKey key 0x36 ++ m))

/-! ## RSASSA-PSS -/

/-- x^e mod n, by the bits of e from the lowest. -/
def powMod : Nat → Nat → Nat → Nat → Nat → Nat
  | 0, _, _, _, acc => acc
  | k + 1, x, e, n, acc => powMod k (x * x % n) (e / 2) n (if e % 2 == 1 then acc * x % n else acc)

/-- MGF1: n bytes from a seed. -/
def mgf1 (seed : List Byte) (n : Nat) : List Byte :=
  ((List.range (cdiv n 64)).flatMap fun i => sha512 (seed ++ beBytes 4 i)).take n

/-- The bytes of two lists combined. -/
def xorBytes (a b : List Byte) : List Byte := List.zipWith (· ^^^ ·) a b

/-- The encoded message of a signature checked against a message's bytes: `bits` is one less than the modulus has. -/
def pssOk (em m : List Byte) (bits : Nat) : Bool :=
  let len := em.length
  let masked := em.take (len - 65)
  let h := (em.drop (len - 65)).take 64
  let keep : Byte := BitVec.ofNat 8 (2 ^ (8 - (8 * len - bits)) - 1)
  let db := xorBytes masked (mgf1 h (len - 65))
  let db := (byteAt db 0 &&& keep) :: db.drop 1
  130 ≤ len && byteAt em (len - 1) == 0xBC && byteAt masked 0 &&& keep == byteAt masked 0 &&
  (db.take (len - 130)).all (· == 0) && byteAt db (len - 130) == 1 &&
  h == sha512 (List.replicate 8 0 ++ sha512 m ++ db.drop (len - 129))

/-- The verification of a signature under a modulus, both little-endian (R9, R513). -/
def pssVerify (modulus : List Byte) (e : Nat) (m sig : List Byte) : Bool :=
  let n := ofBytes modulus
  let s := ofBytes sig
  let bits := Nat.log2 n
  let len := cdiv bits 8
  let x := powMod 32 s e n 1
  n != 0 && s < n && x < 2 ^ (8 * len) && pssOk (beBytes len x) m bits

end Sys2Proof.Machine
end

