-- ==== Sys2Proof/Machine/Security.lean ====
section
/-! DEFINITION. The flash devices (R471, R512, R546), keys, revocation and floors (R513 to R518), firmware copies (R520,
R521) and the check of an image slot (R467, R472, R473, R522). -/

namespace Sys2Proof.Machine

/-! ## Flash -/

def flashBlock : Nat := 65536
/-- Where the management region begins, and its areas (R471, R512). -/
def mgmtBase : Nat := 0x3F00_0000
def revokeBase : Nat := 0x3F01_0000
def floorBase (copy : Nat) : Nat := 0x3F02_0000 + 0x1_0000 * copy
def fwBase (copy : Nat) : Nat := 0x3F10_0000 + 0x40_0000 * copy

/-- The first 64 bytes of the floor copies as shipped (R516, R546). -/
def shippedFloor : List Byte := padTo 64 (leBytes 8 0x524F_4C46 ++ leBytes 8 1)

/-- The MAC of a floor copy under a Skovlaper's floor key (R516). -/
def floorMac (d : Bool) (body : List Byte) : List Byte := hmac512 (Config.floorKey d) body

/-- n bytes of a function of the offset. -/
def bytesFrom (f : Nat → Byte) (off n : Nat) : List Byte := (List.range n).map fun i => f (off + i)

/-- A byte of the key store as shipped, the same on both devices: the entry of a slot bears its number and the exponent 65,537, its modulus
and the rest are the part's (R514, R546). -/
def shippedKey (i : Nat) : Byte :=
  let o := i % 1024
  if i ≥ 4096 then Config.factoryByte 0 (mgmtBase + i)
  else if o == 0 then BitVec.ofNat 8 (i / 1024)
  else if 8 ≤ o && o < 12 then byteAt (leBytes 4 65537) (o - 8)
  else Config.factoryByte 0 (mgmtBase + i)

/-- The 576 hashed bytes of a slot's entry as shipped, and mask ROM's digest of it (R514). -/
def shippedEntry (slot : Nat) : List Byte := bytesFrom shippedKey (1024 * slot) 576
def romDigest (slot : Nat) : List Byte := sha512 (shippedEntry slot)

/-- The length of the body of the shipped firmware, and a byte of the body (R520, R546). -/
def shippedLength : Nat := leAt (bytesFrom (Config.factoryByte 0) (fwBase 0 + 12) 4) 0 4 % 4190209
def shippedBody (i : Nat) : Byte := Config.factoryByte 0 (fwBase 0 + 4096 + i)

/-- The 4,096 header bytes of the shipped firmware, which both copies on both devices hold: its magic, length, key slot 0 and body digest;
version, security version, signature and the rest are the part's (R520, R546). -/
def shippedHeader : List Byte :=
  let raw := bytesFrom (Config.factoryByte 0) (fwBase 0) 4096
  leBytes 4 0x4656_4B53 ++ (raw.drop 4).take 8 ++ leBytes 4 shippedLength ++ [0] ++ (raw.drop 17).take 47 ++
    sha512 (bytesFrom shippedBody 0 shippedLength) ++ raw.drop 128

/-- A byte as shipped (R546; log 4): image slots and the revocation block blank, the floor copies with count 1, the firmware copies the
same. -/
def shippedByte (dev : Bool) (off : Nat) : Byte :=
  if off < mgmtBase then 0xFF
  else if off < revokeBase then shippedKey (off - mgmtBase)
  else if off < 0x3F02_0000 then 0xFF
  else if off < 0x3F04_0000 then
    let i := off % flashBlock
    if i < 64 then byteAt shippedFloor i
    else if i < 128 then byteAt (floorMac false shippedFloor) (i - 64)
    else if i < 192 then byteAt (floorMac true shippedFloor) (i - 128)
    else 0xFF
  else if fwBase 0 ≤ off && off < 0x3F90_0000 then
    let i := (off - fwBase 0) % 0x40_0000
    if i < 4096 then byteAt shippedHeader i else shippedBody (i - 4096)
  else Config.factoryByte (b2n dev) off

def State.flash (s : State) (dev : Bool) : List Host.Cell := if dev then s.flash1 else s.flash0
def State.erased (s : State) (dev : Bool) : List Nat := if dev then s.erased1 else s.erased0
def State.setFlash (s : State) (dev : Bool) (cells : List Host.Cell) (erased : List Nat) : State :=
  if dev then { s with flash1 := cells, erased1 := erased } else { s with flash0 := cells, erased0 := erased }

/-- The value that an offset of a device was written with, if it has been. -/
def cellAt : List Host.Cell → Nat → Option Byte
  | [], _ => none
  | (k, v) :: t, a => if k == a then some v else cellAt t a

/-- A cell set, offsets rising. -/
def cellPut : List Host.Cell → Nat → Byte → List Host.Cell
  | [], a, b => [(a, b)]
  | (k, v) :: t, a, b => if a < k then (a, b) :: (k, v) :: t else if a == k then (a, b) :: t else (k, v) :: cellPut t a b

def State.flashAt (s : State) (dev : Bool) (off : Nat) : Byte :=
  match cellAt (s.flash dev) off with
  | some b => b
  | none => if (s.erased dev).contains (off / flashBlock) then 0xFF else shippedByte dev off

def State.flashRead (s : State) (dev : Bool) (off : Nat) : Nat → List Byte
  | 0 => []
  | n + 1 => s.flashAt dev off :: s.flashRead dev (off + 1) n

/-- A little-endian word of n bytes of a device. -/
def State.flashWord (s : State) (dev : Bool) (off n : Nat) : Nat := ofBytes (s.flashRead dev off n)

/-- A block erased. -/
def State.flashErase (s : State) (dev : Bool) (block : Nat) : State :=
  s.setFlash dev ((s.flash dev).filter fun c => c.1 / flashBlock != block)
    (if block * flashBlock < mgmtBase || (s.erased dev).contains block then s.erased dev else s.erased dev ++ [block])

def State.flashWrite (s : State) (dev : Bool) (off : Nat) (bs : List Byte) : State :=
  s.setFlash dev ((List.range bs.length).foldl (fun (c : List Host.Cell) i => cellPut c (off + i) (byteAt bs i)) (s.flash dev))
    (s.erased dev)

/-! ## Keys and signatures (R513 to R515) -/

/-- Whether key bytes (576 of them) match the ROM digest of a slot (R514). -/
def keyMatches (bs : List Byte) (slot : Nat) : Bool := sha512 bs == romDigest slot

/-- Verification under a slot without the revocation test. -/
def State.verifyRaw (s : State) (dev : Bool) (slot : Nat) (msg sig : List Byte) : Bool :=
  let k := s.flashRead dev (mgmtBase + 1024 * slot) 576
  slot ≤ 3 && keyMatches k slot && leAt k 8 4 == 65537 && pssVerify ((k.drop 64).take 512) 65537 msg sig

/-- A revocation record's slot, if the record is valid (R515). -/
def State.revocation (s : State) (dev : Bool) (bs : List Byte) : Option Nat :=
  let slot := (byteAt bs 4).toNat
  let signer := (byteAt bs 5).toNat
  if leAt bs 0 4 == 0x4B56_4552 && slot ≤ 3 && signer ≤ 3 && s.verifyRaw dev signer (bs.take 512) ((bs.drop 512).take 512) then
    some slot
  else none

/-- The slots that a device's revocation block revokes, one bit each, records taken in block order; the last unrevoked slot
cannot be (R515). -/
def State.revoked (s : State) (dev : Bool) : Nat :=
  (List.range 64).foldl (fun (m : Nat) i =>
    match s.revocation dev (s.flashRead dev (revokeBase + 1024 * i) 1024) with
    | some slot => if m ||| 2 ^ slot == 15 then m else m ||| 2 ^ slot
    | none => m) 0

/-- Verification under a slot (R513). -/
def State.verify (s : State) (dev : Bool) (slot : Nat) (msg sig : List Byte) : Bool :=
  !bitAt (s.revoked dev) slot && s.verifyRaw dev slot msg sig

/-! ## Floors (R516 to R518) -/

/-- A floor copy: authenticated for a Skovlaper that has its keys, its count and floors; an unwritten one reads 0. -/
structure FloorCopy where
  passes : Bool
  count : Nat
  fw : Nat
  image : Nat
  deriving DecidableEq, Repr

/-- Whether a Skovlaper derives its keys: in one of three tries at a boot (R528); of one that has yet to boot, at that boot. -/
def State.pufTries (s : State) (d : Bool) : Bool :=
  let n := (s.skov d).boots
  Config.pufOk d (3 * n) || Config.pufOk d (3 * n + 1) || Config.pufOk d (3 * n + 2)
def State.derives (s : State) (d : Bool) : Bool :=
  if (s.skov d).up || (s.skov d).recovery then (s.skov d).keys else s.pufTries d

def State.floorCopy (s : State) (dev : Bool) (copy : Nat) : FloorCopy :=
  let bs := s.flashRead dev (floorBase copy) 192
  let body := bs.take 64
  if leAt bs 0 4 != 0x524F_4C46 then ⟨false, 0, 0, 0⟩
  else
    ⟨(s.derives false && (bs.drop 64).take 64 == floorMac false body) ||
      (s.derives true && (bs.drop 128).take 64 == floorMac true body),
      leAt bs 8 8, leAt bs 16 4, leAt bs 20 4⟩

/-- Floors in force on a device: firmware and image floor, count, the copy they come from, authenticated. -/
structure Floors where
  fw : Nat
  image : Nat
  count : Nat
  copy : Nat
  good : Bool
  deriving DecidableEq, Repr

def State.floors (s : State) (dev : Bool) : Floors :=
  let a := s.floorCopy dev 0
  let b := s.floorCopy dev 1
  if a.passes && (!b.passes || b.count ≤ a.count) then ⟨a.fw, a.image, a.count, 0, true⟩
  else if b.passes then ⟨b.fw, b.image, b.count, 1, true⟩
  else ⟨max a.fw b.fw, max a.image b.image, max a.count b.count, if a.count < b.count then 1 else 0, false⟩

/-- The copy that a floor write replaces (R516): the one with the lower count; of equal ones the one that is not in force. -/
def State.floorTarget (s : State) (dev : Bool) : Nat :=
  let a := (s.floorCopy dev 0).count
  let b := (s.floorCopy dev 1).count
  if a < b then 0 else if b < a then 1 else 1 - (s.floors dev).copy

/-- A floor copy's bytes with the MACs of both Skovlapers (R516). -/
def floorBytes (count fw image : Nat) : List Byte :=
  let body := padTo 64 (leBytes 8 0x524F_4C46 ++ leBytes 8 count ++ leBytes 4 fw ++ leBytes 4 image)
  body ++ floorMac false body ++ floorMac true body

/-! ## Firmware copies (R520, R521) -/

/-- Whether a firmware header's signature verifies (R513): that of the shipped header does, under slot 0, wherever its entry stands and is
not revoked (R546). -/
def State.fwSigned (s : State) (dev : Bool) (h : List Byte) : Bool :=
  s.verify dev (byteAt h 16).toNat (h.take 3584) ((h.drop 3584).take 512) ||
  (h == shippedHeader && keyMatches (s.flashRead dev mgmtBase 576) 0 && !bitAt (s.revoked dev) 0)

/-- The slot check code of a firmware copy, in the terms of R467; its body is of the length its header gives. -/
def State.fwCheck (s : State) (dev : Bool) (copy : Nat) : Nat :=
  let h := s.flashRead dev (fwBase copy) 4096
  if leAt h 0 4 != 0x4656_4B53 then 2
  else if leAt h 12 4 > 4190208 then 3
  else if !s.fwSigned dev h then 4
  else if leAt h 8 4 < (s.skov dev).fwFloor then 5
  else if sha512 (s.flashRead dev (fwBase copy + 4096) (leAt h 12 4)) != (h.drop 64).take 64 then 6
  else 1

def State.fwVersion (s : State) (dev : Bool) (copy : Nat) : Nat := s.flashWord dev (fwBase copy + 4) 4

/-- The copy that a Skovlaper boots: of two valid ones the higher version, copy 0 when they are equal (R521). -/
def State.fwChoice (s : State) (dev : Bool) : Option Nat :=
  let a := s.fwCheck dev 0 == 1
  let b := s.fwCheck dev 1 == 1
  if a && (!b || s.fwVersion dev 1 ≤ s.fwVersion dev 0) then some 0 else if b then some 1 else none

/-! ## Image slots (R472, R473) -/

/-- A word of the image header of a slot: device 0 holds slot A, device 1 slot B. -/
def State.imageWord (s : State) (dev : Bool) (off n : Nat) : Nat := s.flashWord dev off n

/-- A directory entry. -/
structure Section where
  kind : Nat
  optional : Bool
  piers : Nat
  offset : Nat
  size : Nat
  target : Nat
  digest : List Byte
  deriving DecidableEq, Repr

def State.sectionAt (s : State) (dev : Bool) (i : Nat) : Section :=
  let bs := s.flashRead dev (4096 + 128 * i) 128
  ⟨leAt bs 0 1, bitAt (leAt bs 1 1) 0, leAt bs 2 1, leAt bs 8 4, leAt bs 12 4, leAt bs 16 8 % 2 ^ 52, (bs.drop 64).take 64⟩

def State.sectionCount (s : State) (dev : Bool) : Nat := s.imageWord dev 6 2
def State.sections (s : State) (dev : Bool) : List Section :=
  (List.range (s.sectionCount dev)).map fun i => s.sectionAt dev i

/-- The check code of a slot (R467) against an image floor: its read; magic; format, binding, section count and length; signature and key
slot; security version; the directory's digest; its section types (log 37). -/
def State.slotCheck (s : State) (dev : Bool) (floor : Nat) : Nat :=
  let n := s.sectionCount dev
  if Config.flashFails s.free dev 0 then 7
  else if s.imageWord dev 0 4 != 0x384D_4B52 then 2
  else if s.imageWord dev 4 2 != 1 || s.imageWord dev 36 4 != Config.binding || n == 0 || n > 1024 ||
      s.imageWord dev 32 4 > 805306368 then 3
  else if !s.verify dev (s.imageWord dev 28 1) (s.flashRead dev 0 3584) (s.flashRead dev 3584 512) then 4
  else if s.imageWord dev 12 4 < floor then 5
  else if sha512 (s.flashRead dev 4096 (128 * n)) != s.flashRead dev 64 64 then 4
  else if (s.sections dev).any fun x => (x.kind == 0 || x.kind > 6) && !x.optional then 3
  else 1

/-- The bytes of a section, or none where it lies outside the image or its digest fails (R473). A zero fill has none. -/
def State.sectionBytes (s : State) (dev : Bool) (x : Section) : Option (List Byte) :=
  if x.kind == 4 then some []
  else if x.offset % 64 != 0 || x.offset + x.size > s.imageWord dev 32 4 then none
  else
    let bs := s.flashRead dev x.offset x.size
    if sha512 bs == x.digest then some bs else none

end Sys2Proof.Machine
end

