-- ==== Sys2Proof/Machine/Image.lean ====
section
/-! DEFINITION. Power states and supplies (R509 to R511, R534, R535, R540), start-up from an image (R467 to R476), STOP and
START (R478 to R480). -/

namespace Sys2Proof.Machine

/-! ## Function and power states -/

/-- The function state changed, with its event (R467, R530). -/
def State.setFunc (s : State) (n : Nat) : State :=
  if s.func.state == n then s else ({ s with func := { s.func with state := n } } : State).event 0x01 n

/-- Undelivered requests take their late notices with a cause (R479, R509). -/
def State.noteStopping (s : State) : State :=
  { s with requests := s.requests.map fun r => if r.delivered then r else { r with cause := 4 } }

/-- Programs that no header is left to complete (R478, R509); one whose notice went out is forgotten. -/
def State.cutPrograms (s : State) (lost : Request → Bool) : State :=
  let open_ := fun (r : Request) => lost r && r.completed.isNone
  let kept := s.requests.filter fun r => !(open_ r && r.delivered)
  let cut_ := kept.map fun r => if open_ r then { r with todo := 0 } else r
  { s with requests := cut_ }

/-! ## Loss of the main supply (R509, R511) -/

/-- A pier that has lost power: what Skovlaper restores stays (R492), its contents are gone. -/
def Pier.unpowered (p : Pier) : Pier :=
  { Pier.reset with
    chanMap := BitVec.ofNat 64 (setFld p.chanMap.toNat 25 21 0)
    spareStatus := p.spareStatus
    coreMap := p.coreMap, coreSpare := p.coreSpare, courseMap := p.courseMap, courseSpare := p.courseSpare,
    masonSpare := p.masonSpare, keySpare := p.keySpare, repair := p.repair, routineAt := p.routineAt,
    waysOut := p.waysOut.foldl (fun (t : Table) x => t.set x.1 (x.2 % 65536)) []
    chiselOut := fld p.spareStatus.toNat 23 20, hardErrors := p.hardErrors, soundings := p.soundings, failed := p.failed
    masons := (List.range 8).map fun n =>
      { Mason.reset n with phys := ((p.masons[n]?).map (·.phys)).getD n } }

/-- A pier without power; the end of an evacuation in progress changes its map, which is recorded (R382). -/
def State.pierUnpowered (s : State) (p : PierId) : State :=
  let t := s.updPier p (·.unpowered)
  if (t.pier p).chanMap == (s.pier p).chanMap then t else t.mapEvent p

/-- A port that has lost power: deliveries wait for a link. -/
def State.portUnpowered (s : State) (p : PortId) : State :=
  let waiting := (s.port p).held.filter fun m => m.mtype == 0x14
  let reqs := s.requests
  let s := (s.updPort p fun pt => { pt with held := pt.held.filter fun m => m.mtype != 0x14 }).linkDown p
  { s.updPort p fun pt => { pt with held := waiting, inbox := [], waits := true } with requests := reqs }

/-- Whether a memory address is a CXL window's; those bytes are the devices'. -/
def isCxlAddr (a : Nat) : Bool := 0x1000_0000_0000 ≤ a

/-- Whether a register address is a Skovlaper block's, which the standby supply keeps. -/
def isSkovReg (a : Nat) : Bool :=
  (skovReg false 0 ≤ a && a < skovReg false 0x2000) || (skovReg true 0 ≤ a && a < skovReg true 0x2000)

/-- Every pier, quoin link and port without power or contents (R509); the CXL links with them (R392). -/
def State.mainLost (s : State) : State :=
  let s := ([0, 1, 2, 3, 4, 5, 6, 7] : List (Fin 8)).foldl (fun (s : State) q => s.cxlSurprise q) s
  let s := allPorts.foldl (fun (s : State) p => s.portUnpowered p) s
  let s := allPiers.foldl (fun (s : State) p => s.pierUnpowered p) s
  let s := ([0, 1, 2, 3] : List QuoinId).foldl (fun (s : State) q =>
    s.updQuoin q fun w => { Quoin.reset with spare := w.spare }) s
  let s := s.cutPrograms fun _ => true
  { s with
    mem := s.mem.filter fun c => isCxlAddr c.1
    poison := s.poison.filter isCxlAddr
    cxl := Vector.replicate 8 .reset
    counters := s.counters.filter fun c => isSkovReg c.1
    queues := [], waitingSubs := [], stepBase := 0, stepDone := none, uRan := [],
    linkFails := [], groupFails := [], linkCycles := [], testing := [], edgeRot := [], linkKept := [], linkHeld := [], crossHeld := [],
    crossPtr := [], sounding := [], promises := [], accepts := [], admits := [], admitRot := 0, portRot := 0,
    func := { s.func with
      slot := 0, generation := 0, loaded := false, imageSv := 0, keySlot := 0, imageMeas := [], cxlWait := 0, stopStep := 0,
      stopAbort := false, downAfter := false }
    power := { s.power with regulators := false } }

/-- The main regulators off and held off until POWER_UP; a trip goes through the state stopping (R509, R511). -/
def State.powerOff (s : State) (trip : Option Nat) (cause : Nat) : State :=
  let s := match trip with
    | some _ => (s.setFunc 4).noteStopping
    | none => s
  let s := s.mainLost
  let s := { s with power := { s.power with
    heldDown := true, tripped := trip.isSome,
    tripSensor := match trip with | some n => n | none => s.power.tripSensor } }
  (s.setFunc 1).powerEvent 1 cause

/-! ## Image registers (R475, R548) -/

/-- The bits that the image sets, by register from 0x100 on; reserved bits read zero. -/
def cfgMasks : List Nat :=
  let base := 0x000F_FFFF_FFFF_F000
  let all := 0xFFFF_FFFF_FFFF_FFFF
  [0x3FF, 0x1F, 0x1F, all, all, 0x3F3F_3F3F, 0x00FF_FFFF_FFFF_FF7F, 0x0000_FFFF_FFFF_FFFF, 0xFF, all, all, all, all, base,
    0x1_FFFF, base, base, base, 0x1FF_FFFF_FFFF, 0x000F_FFFF_FFFF_0000, 0xFFFF_FFFF_FFFF_F000, base,
    0xFFFF_FFFF_FFFF_F000, base]

/-- Register k from 0x100 set. -/
def PierCfg.put (c : PierCfg) (k : Nat) (v : U64) : PierCfg :=
  match k with
  | 0 => { c with fpMode := v }
  | 1 => { c with spill := v }
  | 2 => { c with predAudit := v }
  | 3 => { c with bondLo := v }
  | 4 => { c with bondHi := v }
  | 5 => { c with linkShare := v }
  | 6 => { c with gStanding := v }
  | 7 => { c with sleep := v }
  | 8 => { c with routine := v }
  | 9 => { c with seedG := v }
  | 10 => { c with seedF := v }
  | 11 => { c with seedB := v }
  | 12 => { c with seedU := v }
  | 13 => { c with statsBase := v }
  | 14 => { c with statsCount := v }
  | 15 => { c with sparseBase := v }
  | 16 => { c with tableBase := v }
  | 17 => { c with paramBase := v }
  | 18 => { c with paramRange := v }
  | 19 => { c with progBase := v }
  | 20 => { c with normBase := v }
  | 21 => { c with fprintBase := v }
  | 22 => { c with ckptBase := v }
  | 23 => { c with ckptCxl := v }
  | _ => c

/-- An entry's register of the pier window written; none where the image sets no such register (R475). -/
def PierCfg.load (c : PierCfg) (off v : Nat) : Option PierCfg :=
  if 0x100 ≤ off && off ≤ 0x1B8 && off % 8 == 0 then
    let k := (off - 0x100) / 8
    some (c.put k (BitVec.ofNat 64 (v &&& cfgMasks.getD k 0)))
  else if off == 0x2_0000 then some { c with keyStep := BitVec.ofNat 64 (v &&& 0xFFFF_FFFF_0000_FFFF) }
  else if 0x10_0000 ≤ off && off < 0x1C_0000 && (off - 0x10_0000) % 0x4000 == 0x2000 then
    some { c with bedSplit := BitVec.ofNat 64 (v % 64) }
  else none

/-- One 16-byte entry of a register section applied to a pier, or to the quoin beside a corner pier (R474). -/
def State.loadEntry (s : State) (p : PierId) (w v : Nat) : Option State :=
  let off := w % 2 ^ 32
  if bitAt w 32 then
    match cornerQuoin p with
    | none => some s
    | some q =>
      if off == 0x200 then
        some (s.updQuoin q fun k => { k with deferBase := BitVec.ofNat 64 (v &&& 0x000F_FFFF_FFFF_F000) })
      else none
  else ((s.pier p).cfg.load off v).map fun c => s.updPier p fun pr => { pr with cfg := c }

/-- Whether an entry names a register that the image sets, whichever piers its section selects (R475). -/
def entryOk (w : Nat) : Bool :=
  if bitAt w 32 then w % 2 ^ 32 == 0x200 else (PierCfg.reset.load (w % 2 ^ 32) 0).isSome

/-- A register section on its piers; none where it fails. -/
def State.loadRegs (s : State) (piers : Nat) (bs : List Byte) : Option State :=
  if bs.length % 16 != 0 || (List.range (bs.length / 16)).any fun i => !entryOk (leAt bs (16 * i) 8) then none
  else (List.range (bs.length / 16)).foldl (fun (s : Option State) i =>
    (allPiers.filter fun p => bitAt piers p.val).foldl (fun (s : Option State) p =>
      s.bind fun s => s.loadEntry p (leAt bs (16 * i) 8) (leAt bs (16 * i + 8) 8)) s) (some s)

/-! ## Loading a slot (R469, R470, R474, R476) -/

/-- Whether a target range lies inside one GDDR 7 window (R476). -/
def inOneWindow (a n : Nat) : Bool := a + n ≤ 0x20_0000_0000 && (n == 0 || a / 0x4_0000_0000 == (a + n - 1) / 0x4_0000_0000)

/-- Sections taken in order up to the first that fails; and the check code: 1 where none does, 6 for its digest or its rules, 7 for its
flash read (R467, R470). What the sections before it loaded stays (log 69). -/
def State.eachLoaded (s : State) (dev : Bool) (xs : List Section) (f : State → Section → Option State) : Nat × State :=
  xs.foldl (fun (r : Nat × State) x =>
    if r.1 != 1 then r
    else if x.kind != 4 && Config.flashFails s.free dev x.offset then (7, r.2)
    else match f r.2 x with
      | some t => (1, t)
      | none => (6, r.2)) (1, s)

/-- Step 6: register sections, then the promise table. -/
def State.loadStep6 (s : State) (dev : Bool) : Nat × State :=
  let s := allPiers.foldl (fun (s : State) p => s.updPier p fun pr => { pr with cfg := .reset }) s
  let s := ([0, 1, 2, 3] : List QuoinId).foldl (fun (s : State) q => s.updQuoin q fun w => { w with deferBase := 0 }) s
  let s : State := { s with promises := [] }
  s.eachLoaded dev (s.sections dev) fun s x =>
    if x.kind == 1 then (s.sectionBytes dev x).bind fun bs => s.loadRegs x.piers bs
    else if x.kind == 2 then (s.sectionBytes dev x).bind fun bs =>
      if bs.length != 4096 then none
      else some { s with promises := (List.range 512).foldl (fun (t : Table) i => t.set i (leAt bs (8 * i) 8)) [] }
    else some s

/-- The check bytes of a pier's data lines in a range, where its check buffer or devices hold them, made to fit memory (R384). -/
def Pier.fitChecks (pr : Pier) (p : PierId) (mem : List Host.Cell) (a n : Nat) : Pier :=
  let fit := fun (num : Nat) (bytes : List Byte) => (List.range 8).flatMap fun i =>
    let l := gddrBase p + 512 * num + 64 * i
    if l < a + n && a < l + 64 then checkBytes (memRead mem l 64) else (bytes.drop (8 * i)).take 8
  { pr with
    checks := pr.checks.map fun c => { c with bytes := fit c.num c.bytes }
    checkCells := pr.checkCells.map fun c => (c.1, fit c.1 c.2) }

/-- Zeroes written over a memory range. -/
def State.zeroFill (s : State) (a n : Nat) : State :=
  let new := s.mem.filter fun c => !(a ≤ c.1 && c.1 < a + n)
  allPiers.foldl (fun (s : State) p => s.updPier p (·.fitChecks p new a n)) { s with
    mem := new
    poison := s.poison.filter fun l => !(a ≤ l && l + 64 ≤ a + n) }

/-- Bytes written by start-up through the channels, with no cache to keep. -/
def State.rawWrite (s : State) (a : Nat) (bs : List Byte) : State :=
  let new := memWrite s.mem a bs
  (linesOf a bs.length).foldl (fun (s : State) l => match s.place l with
    | .gddr p _ => s.updPier p (·.channelWrite l (memRead new l 64))
    | _ => s) { s with
    mem := new
    poison := s.poison.filter fun l => !(a ≤ l && l + 64 ≤ a + bs.length) }

/-- Step 8: memory-load and zero-fill sections in directory order; the sections of step 10 checked. -/
def State.loadStep8 (s : State) (dev : Bool) : Nat × State :=
  s.eachLoaded dev (s.sections dev) fun s x =>
    if x.kind == 3 then (s.sectionBytes dev x).bind fun bs =>
      if inOneWindow x.target x.size then some (s.rawWrite x.target bs) else none
    else if x.kind == 4 then (if inOneWindow x.target x.size then some (s.zeroFill x.target x.size) else none)
    else if x.kind == 5 then (s.sectionBytes dev x).bind fun bs => if bs.length % 64 == 0 then some s else none
    else if x.kind == 6 then (s.sectionBytes dev x).bind fun bs => if bs.length % 16 == 0 then some s else none
    else some s

/-- What the header of the loaded slot gives; bindings whose context does not match go (R462, R480). -/
def State.loadHeader (s : State) (dev : Bool) : State :=
  let word := fun off n => s.imageWord dev off n
  let ctx := word 16 8
  let s := { s with func := { s.func with
    slot := if dev then 2 else 1, generation := word 8 4, context := ctx, loaded := true, ever := true,
    imageSv := word 12 4, keySlot := word 28 1, policyBase := word 24 4,
    imageMeas := sha512 (s.flashRead dev 0 4096), cxlWait := word 29 1, cxlTimeout := min 256 (word 30 2),
    waitSince := s.tick } }
  allPorts.foldl (fun (s : State) p => s.updPort p fun pt =>
    if ctx == 0 || pt.context == ctx then pt else { pt with bound := false, hostId := 0 }) s

/-- A slot's check code put in SKOV_FUNC_STATE. -/
def State.setCheck (s : State) (dev : Bool) (n : Nat) : State :=
  { s with func := if dev then { s.func with checkB := n } else { s.func with checkA := n } }

/-- Steps 6 to 8 from one slot, and the check code that they leave it with (R470). -/
def State.loadSlot (s : State) (dev : Bool) : Nat × State :=
  let r := s.loadStep6 dev
  if r.1 != 1 then r
  else
    let r := r.2.loadStep8 dev
    (r.1, if r.1 == 1 then r.2.loadHeader dev else r.2)

/-- No image (R470). -/
def State.noImage (s : State) : State :=
  ({ s with func := { s.func with slot := 0, generation := 0, loaded := false } } : State).setFunc 6

/-- The slots in the order in which start-up tries them: the valid slot with the higher generation, A when they are equal,
then the other if it is valid; a slot that START names comes alone first (R470, R477). -/
def State.slotOrder (s : State) (sel : Nat) : List Bool :=
  let a := s.func.checkA == 1
  let b := s.func.checkB == 1
  let newer := s.imageWord false 8 4 < s.imageWord true 8 4
  let first := if sel == 1 then false else if sel == 2 then true else b && (!a || newer)
  let ok := fun d => if d then b else a
  if ok first then [first] ++ (if ok (!first) then [!first] else []) else []

/-! ## Step 10 -/

/-- A pier as step 10 leaves it (R342, R474, R480); the table stores loaded since step 5 stay (R305, R314). -/
def Pier.started (p : Pier) (mem : List Host.Cell) (policy : Nat) : Pier :=
  { p.flushMortar mem with
    epoch := 0, policy := policy, draws := [], trowelDraws := [], keys := [], keys1 := [], keys2 := [], keyRot := [], keyDeferred := [],
    keyArriving := [], tiles := [], walks := [], lines := [], bed := [], runs := [], jobs := [], applies := [],
    ckpt := none, ckptPhase := 0, known := [], repairing := []
    masons := p.masons.map fun m => { m with waits := true, entry := none, saving := none, reserve := none } }

/-- Mason cores started at the entries of the image's mason start sections (R474). -/
def State.startMasons (s : State) (bs : List Byte) : State :=
  (List.range (bs.length / 16)).foldl (fun (s : State) i =>
    let n := (byteAt bs (16 * i)).toNat % 64
    s.updPier (pierOf (n / 8)) fun pr => { pr with masons := pr.masons.modify (n % 8) fun m =>
      { m with waits := false, entry := some (leAt bs (16 * i + 8) 8) } }) s

/-- Initial headers submitted in order (R469). -/
def State.submitInitial (s : State) (bs : List Byte) : State :=
  (List.range (bs.length / 64)).foldl (fun (s : State) i =>
    (s.submitHeader (headerOf (bs.drop (64 * i))) .image (.inr s.seqPort) none).1) s

/-- A section type's bytes in directory order, each handed on. -/
def State.eachSection (s : State) (dev : Bool) (kind : Nat) (f : State → List Byte → State) : State :=
  (s.sections dev).foldl (fun (s : State) x => if x.kind == kind then f s ((s.sectionBytes dev x).getD []) else s) s

/-- Step 10 (R469): keystones 0, PIER_STEP, program slots checked (R335), masons started, running, initial headers. -/
def State.finishStart (s : State) : State :=
  let dev := s.func.slot == 2
  let s := allPiers.foldl (fun (s : State) p => s.updPier p (·.started s.mem s.func.policyBase)) s
  let s := allPiers.foldl (fun (s : State) p => s.updPier p fun pr => { pr with progOk := s.progMask p }) s
  let s := ([0, 1, 2, 3] : List QuoinId).foldl (fun (s : State) q => s.updQuoin q fun w =>
    { w with queue := [], placing := [], placed := 0, draws := [], discard := false, fresh := false, sums := [] }) s
  let s := (s.cutPrograms fun _ => true)
  let s : State := { s with
    queues := [], waitingSubs := [], stepBase := 0, stepDone := none, uRan := [], linkHeld := [], crossHeld := [],
    accepts := [] }
  let s := s.eachSection dev 6 State.startMasons
  (s.setFunc 3).eachSection dev 5 State.submitInitial

/-- The ports of step 9 that have not registered. -/
def State.cxlMissing (s : State) : List (Fin 8) :=
  ([0, 1, 2, 3, 4, 5, 6, 7] : List (Fin 8)).filter fun q => bitAt s.func.cxlWait q.val && !(s.cxlPort q).registered

/-- Whether start-up waits in step 9. -/
def State.inStep9 (s : State) : Bool := s.func.state == 2 && s.func.loaded && s.power.regulators

/-- Step 9 over once every port waited for has registered (R469). -/
def State.tryFinish (s : State) : State := if s.inStep9 && s.cxlMissing.isEmpty then s.finishStart else s

/-- CXL_WAIT_TIMEOUT (R469): the missing ports named, and start-up goes on. -/
def State.cxlTimeout (s : State) : State :=
  if !s.inStep9 || s.tick < s.func.waitSince + 50000000 * s.func.cxlTimeout then s
  else (s.cxlMissing.foldl (fun (s : State) q => s.event 0x11 q.val) s).finishStart

def execCxlWaitTimeout (s : State) : Host.Outcome State Fault Refusal := .next s.cxlTimeout

/-- Slots tried in order; a failed one takes check code 6 or 7 (R470). -/
def State.trySlots (s : State) : List Bool → State
  | [] => s.noImage
  | d :: ds =>
    let r := s.loadSlot d
    if r.1 == 1 then r.2.tryFinish else (r.2.setCheck d r.1).trySlots ds

/-- Piers with power: awake, at the first slot of their pattern (R293, R469 step 5), no table store available (R314). -/
def State.powerPiers (s : State) : State :=
  s.runChange (allPiers.foldl (fun (s : State) p => s.updPier p fun pr => { pr.stir s.tick with awake := true, bondPos := 0, stores := [] }) s)

/-- Steps 4 to 10 of start-up (R469), with the slot that START selects (0: by R470). -/
def State.startUp (s : State) (sel : Nat) : State :=
  let s := ({ s with free := s.free + 1 } : State).setFunc 2
  let s := s.setCheck false (s.slotCheck false (s.skov s.activeD).imageFloor)
  let s := s.setCheck true (s.slotCheck true (s.skov s.activeD).imageFloor)
  let s := s.powerPiers
  s.trySlots (s.slotOrder sel)

/-! ## Entering Idle (R511, R534, R535) -/

/-- Standby to Idle, at the first moment at which everything permits it (R535): of the 54 V supply, its presence and its last sample's
level (R507). -/
def State.tryIdle (s : State) (cause : Nat) : State :=
  if s.power.standby && s.func.state == 1 && s.power.main && s.power.shortPin && !s.power.pwrDis && !s.power.heldDown &&
      s.sensorLevel.get 64 != 3 && !s.power.regulators then
    (({ s with power := { s.power with regulators := true } } : State).powerEvent 2 cause).startUp 0
  else s

/-- MAIN_SUPPLY_UP (R511): the 54 V supply within its limits, with pins 7 and 8 joined (R534). -/
def State.mainUp (s : State) : State :=
  ({ s with power := { s.power with main := true, shortPin := true } } : State).tryIdle 1

def execMainSupplyUp (s : State) : Host.Outcome State Fault Refusal := .next s.mainUp

/-- The main supply no longer permitted: a 54 V trip in Idle or Run (R509, R534, R535). -/
def State.supplyBad (s : State) : State := if s.power.regulators then s.powerOff (some 64) 1 else s

/-- MAIN_SUPPLY_LOSS (R534): outside its limits, or the short pin broken. -/
def State.mainDown (s : State) (shortPin : Bool) : State :=
  ({ s with power :=
      if shortPin then { s.power with shortPin := false } else { s.power with main := false } } : State).supplyBad

def execMainSupplyLoss (shortPin : Bool) (s : State) : Host.Outcome State Fault Refusal := .next (s.mainDown shortPin)

/-- PWR_DIS_CHANGE (R535). -/
def State.pwrDis (s : State) (high : Bool) : State :=
  let s : State := { s with power := { s.power with pwrDis := high } }
  if high then s.supplyBad else s.tryIdle 1

def execPwrDisChange (high : Bool) (s : State) : Host.Outcome State Fault Refusal := .next (s.pwrDis high)

/-! ## The standby supply (R511, R540) -/

/-- The channel map that the logs last recorded for a pier, the reset map where they hold none (R382); of an evacuation that it shows in
progress nothing is left. -/
def State.loggedMap (s : State) (p : PierId) : U64 :=
  let mine := fun (r : List Byte) => recordOk r && byteAt r 0 == 0x41 && byteAt r 1 == 0x0D && leAt r 32 8 == 5 &&
    leAt r 40 4 == p.val
  let last := (s.log0 ++ s.log1).foldl (fun (a : Option (List Byte)) r =>
    if !mine r then a else match a with
      | some b => if recordNo b ≤ recordNo r then some r else a
      | none => some r) none
  match last with
  | some r => BitVec.ofNat 64 (setFld (leAt r 44 4) 25 21 0)
  | none => 0x001A_C688

/-- STANDBY_SUPPLY_UP (R7, R469 step 1): the pilot domain starts at tick 0, in Standby. -/
def State.standbyUp (s : State) : State :=
  if s.power.standby then s
  else ({ s with tick := 0, power := { s.power with standby := true } } : State).powerEvent 1 1

def execStandbySupplyUp (s : State) : Host.Outcome State Fault Refusal := .next s.standbyUp

/-- STANDBY_SUPPLY_LOSS (R511, R540): Off. Flash and what Skovlaper restores from its log stay (R492); the pins and the other
supply stand as they are. -/
def State.standbyLost (s : State) : State :=
  if !s.power.standby then s
  else
    let s := s.mainLost
    { State.reset with
      pending := s.pending, free := s.free, mem := s.mem, poison := s.poison,
      power := { Power.reset with main := s.power.main, shortPin := s.power.shortPin, pwrDis := s.power.pwrDis }
      piers := Vector.ofFn fun p =>
        { s.pier p with hardErrors := [], soundings := [], failed := [], routineAt := [], chanMap := s.loggedMap p }
      quoins := s.quoins
      skovs := #v[{ Skov.reset false with boots := (s.skov false).boots }, { Skov.reset true with boots := (s.skov true).boots }]
      ports := s.ports.map fun p =>
        { Port.reset with present := p.present, spareUsed := p.spareUsed, retired := p.retired, badLanes := p.badLanes, sent := p.sent }
      laneSpares := s.laneSpares, retired := s.retired, degraded := s.degraded, seqOnC := s.seqOnC,
      log0 := s.log0, log1 := s.log1, recordCount := s.recordCount, requestCount := s.requestCount,
      flash0 := s.flash0, flash1 := s.flash1, erased0 := s.erased0, erased1 := s.erased1 }

def execStandbySupplyLoss (s : State) : Host.Outcome State Fault Refusal := .next s.standbyLost

/-! ## STOP (R478, R479) -/

/-- Abort, step 2: queued headers that have not started are gone, and signal nothing. -/
def State.discardQueued (s : State) : State :=
  let kept := s.queues.map fun q => { q with entries := q.entries.filter (·.busy) }
  let lost := (s.queues.flatMap fun q => q.entries.filter fun x => !x.busy).map (·.origin) ++ s.waitingSubs.map (·.origin)
  let acks := s.waitingSubs.filterMap (·.ack)
  let s := acks.foldl (fun (s : State) a => s.answerWrite a 5) s
  let s := s.queues.foldl (fun (s : State) q => if !inPierQueue q.key then s
    else (q.entries.filter fun x => !x.busy).foldl (fun (s : State) _ =>
      s.updPier (s.queuePier q.key) (·.leaveLines [queueSeq q.key] q.key.stream.val q.key)) s) s
  let s := s.cutPrograms fun r => lost.contains (.request r.number)
  { s with queues := kept.filter fun q => !q.entries.isEmpty, waitingSubs := [] }

/-- Whether any header runs. -/
def State.anyBusy (s : State) : Bool := s.queues.any fun q => q.entries.any (·.busy)

/-- Step 4: a header still running ends with error, applies its signal and is recorded; passes it owed are not made. One whose signal is
on its way has ended already. -/
def State.endHead (s : State) (q : QKey) : State :=
  match s.head q with
  | none => s
  | some x =>
    if !x.busy then s
    else if x.phase == .closing then ((s.abandonShares q).reportHeader x).leave q
    else
      let p := s.queuePier q
      let s := s.log { hdrRecord s p x.hdr 0x0E 3 with detail0 := x.hdr.w0.toNat, detail1 := s.tick }
      let s := allPiers.foldl (fun (s : State) r => s.updPier r (·.dropCkpt q)) (s.abandonShares q)
      let y := { x with status := 1, malformed := x.malformed || x.phase != .ran }
      let s := s.closeHeader y
      let s := match y.signal with
        | some kind => s.sendKey (s.keyFrom y.hdr) y.hdr.sigKey kind y.hdr.sigOperand .none
        | none => s
      (s.reportHeader y).leave q

/-- Step 5: the deferral queues drained, and no checkpoint left. -/
def State.drained (s : State) : Bool :=
  (s.quoins.toList.all fun q => q.queue.isEmpty && q.placing.isEmpty) && s.piers.toList.all fun p => p.ckpt.isNone

/-- Step 6: caches written back and invalidated, courses asleep, stopped; then the regulators off if POWER_DOWN asked. -/
def State.stopped (s : State) : State :=
  let s := allPiers.foldl (fun (s : State) p => s.updPier p fun pr => { pr.flushMortar s.mem with
    bed := [], tiles := [], walks := [], lines := [], runs := [], coursesAwake := [] }) s
  let down := s.func.downAfter
  let s := ({ s with func := { s.func with stopStep := 0, downAfter := false } } : State).setFunc 5
  if down then s.powerOff none 0 else s

/-- Steps 5 and 6 as far as they can go: an abort abandons checkpoint drains (R365). -/
def State.stopDrain (s : State) : State :=
  let s := if s.func.stopAbort then
      allPiers.foldl (fun (s : State) p => if (s.pier p).ckpt.isSome then s.drainAbandon p else s) s
    else s
  if s.drained then s.stopped else { s with func := { s.func with stopStep := 5 } }

/-- STOP as far as it can go now. -/
def State.stopAdvance (s : State) : State :=
  if s.func.state != 4 || s.func.stopStep == 0 then s
  else
    let s := if s.func.stopStep == 2 && (s.func.stopAbort || s.requests.isEmpty) then
        { s with func := { s.func with stopStep := 3, stopSince := s.tick } }
      else s
    if s.func.stopStep == 2 then s
    else if s.func.stopStep == 3 && s.anyBusy then s
    else s.stopDrain

/-- STOP begun (R478 step 1). -/
def State.stopBegin (s : State) (abort : Bool) : State :=
  let s := (s.setFunc 4).noteStopping
  let s := if abort then s.discardQueued else s
  ({ s with func := { s.func with stopStep := 2, stopAbort := abort } } : State).stopAdvance

/-- A quiesce that becomes an abort from its current step (R481). -/
def State.toAbort (s : State) : State :=
  let s := if s.func.stopStep ≤ 2 then s.discardQueued else s
  ({ s with func := { s.func with stopAbort := true } } : State).stopAdvance

/-- STOP_HOLD_EXPIRY (R478): the wait of step 3 over, after 10 ms or 1 s. -/
def State.holdExpiry (s : State) : State :=
  let wait := if s.func.stopAbort then 500000 else 50000000
  if s.func.state != 4 || s.func.stopStep != 3 || s.tick < s.func.stopSince + wait then s
  else ((s.queues.map (·.key)).foldl (fun (s : State) q => s.endHead q) s).stopDrain

def execStopHoldExpiry (s : State) : Host.Outcome State Fault Refusal := .next s.holdExpiry

/-! ## START (R480) -/

/-- START performed: GDDR 7 zeroed unless it is kept, then steps 4 to 10. -/
def State.startImage (s : State) (sel : Nat) (keep : Bool) : State :=
  let s := s.setFunc 2
  let s := if keep then s else s.zeroFill 0 0x20_0000_0000
  s.startUp sel

end Sys2Proof.Machine
end

