-- ==== Sys2Proof/Machine/Skovlaper.lean ====
section
/-! DEFINITION. The two Skovlapers: boot, takeover, watchdog and rejoining (R501 to R506, R518, R521 to R523, R528), and the
sensors (R507 to R509). -/

namespace Sys2Proof.Machine

/-! ## Boot (R521, R528) -/

/-- Boot of one Skovlaper: its keys, its floors with their event when none is authentic (R518), the firmware copy it runs
with its measurement, or ROM recovery (R523). -/
def State.bootSkov (s : State) (d : Bool) : State :=
  let keys := s.pufTries d
  let fl := s.floors d
  let s := s.updSkov d fun k => { k with
    boots := k.boots + 1, keys := keys, fwFloor := fl.fw, imageFloor := fl.image, floorUnauth := !fl.good }
  let s := if fl.good then s else s.event 0x0F (b2n d)
  match s.fwChoice d with
  | some c => s.updSkov d fun k => { k with
      up := true, recovery := false, fwCopy := c, fwVersion := s.fwVersion d c,
      fwMeas := sha512 (s.flashRead d (fwBase c) 4096), wdogMs := 100, kickTick := s.tick }
  | none => s.updSkov d fun k => { k with recovery := true }

/-- What each Skovlaper knows of the other (R502). -/
def State.shareState (s : State) : State :=
  let b := s.skov false
  let d := s.skov true
  (s.updSkov false fun k => { k with peerReady := d.up, peerRecovery := d.recovery }).updSkov true
    fun k => { k with peerReady := b.up, peerRecovery := b.recovery }

/-- A Skovlaper becomes active (R503, R523): counted, with its event; the decisions that have not been sent go out, in order, with their
stamps (R504). -/
def State.takeOver (s : State) (d : Bool) (cause : Nat) : State :=
  let s := s.updSkov (!d) fun k => { k with active := false }
  let s := s.updSkov d fun k => { k with active := true, takeovers := min (2 ^ 32 - 1) (k.takeovers + 1) }
  let s := s.unsent.foldl (fun (s : State) x => s.deliverTo x.1 x.2) { s with unsent := [] }
  s.event 0x03 (b2n d + cause * 2 ^ 8)

/-- Whether a Skovlaper's boot is over: firmware or recovery. -/
def Skov.decided (k : Skov) : Bool := k.up || k.recovery

/-- Step 2 over once both have decided (R469, R523): one in recovery is never active; with both there, start-up stops. -/
def State.settleRoles (s : State) : State :=
  if s.func.state != 0 || !(s.skov false).decided || !(s.skov true).decided then s
  else
    let s := s.shareState
    if !(s.skov false).up && !(s.skov true).up then s
    else
      let s := if (s.skov s.activeD).up then s else s.takeOver (!s.activeD) 2
      (s.setFunc 1).tryIdle 1

/-- SKOVLAPER_BOOT (R521): at power-on, or after a reset with no other to rejoin. -/
def State.skovBoot (s : State) (d : Bool) : State :=
  if !s.power.standby || (s.skov d).decided || (s.func.state != 0 && (s.skov (!d)).up) then s
  else (s.bootSkov d).settleRoles

def execSkovlaperBoot (d : Bool) (s : State) : Host.Outcome State Fault Refusal := .next (s.skovBoot d)

/-! ## Takeover, watchdog, rejoining (R503 to R506) -/

/-- A Skovlaper reset: what survives is RWS (R13). With no other up, what their memories held is gone: the session, the delivery list,
sensor levels, records not yet written and answers not yet read (R506, R521; DESIGN CHOICE for the last two, log 38). -/
def State.resetSkov (s : State) (d : Bool) : State :=
  let s := s.updSkov d fun k => { k with up := false, peerReady := false, peerRecovery := false, wdogMs := 100 }
  let s := s.updSkov (!d) fun k => { k with peerReady := false }
  if (s.skov (!d)).up then s
  else { s with
    session := none, requests := [], unsent := [], held := [], smbus := [],
    sensorValue := [], sensorLevel := [], sensorValid := [], sensorSince := [] }

/-- HEARTBEAT_LOSS (R503): the standby becomes active and resets its peer; an update session was the old active's (log 38).
With the active's report of its watchdog expiry, the active has been reset already. -/
def State.heartbeatLoss (s : State) (watchdog : Bool) : State :=
  let old := s.activeD
  if !s.power.standby || !(s.skov (!old)).up || (watchdog && (s.skov old).up) then s
  else
    ({ s.resetSkov old with session := none } : State).takeOver (!old) (b2n watchdog)

def execHeartbeatLoss (watchdog : Bool) (s : State) : Host.Outcome State Fault Refusal := .next (s.heartbeatLoss watchdog)

/-- Ticks of a watchdog window (R505). -/
def Skov.window (k : Skov) : Nat := max 1 k.wdogMs * 50000

/-- WATCHDOG_EXPIRY (R505): the window passed without a kick; the Skovlaper resets itself. -/
def State.watchdogExpiry (s : State) (d : Bool) : State :=
  let k := s.skov d
  if !k.up || s.tick < k.kickTick + k.window then s
  else
    let s := s.updSkov d fun k => { k with expiries := min (2 ^ 32 - 1) (k.expiries + 1) }
    (s.resetSkov d).event 0x10 (b2n d)

def execWatchdogExpiry (d : Bool) (s : State) : Host.Outcome State Fault Refusal := .next (s.watchdogExpiry d)

/-- SKOVLAPER_REJOIN (R506): a Skovlaper that was reset boots and is standby beside the active. -/
def State.skovRejoin (s : State) (d : Bool) : State :=
  if !s.power.standby || (s.skov d).decided || (s.skov d).active || s.func.state == 0 || !(s.skov (!d)).up then s
  else
    let s := (s.bootSkov d).shareState
    if (s.skov d).up then s.event 0x12 (b2n d) else s

def execSkovlaperRejoin (d : Bool) (s : State) : Host.Outcome State Fault Refusal := .next (s.skovRejoin d)

/-! ## The pins of J1 that the module drives -/

/-- SMB_ALERT#: asserted while any sensor stands at warning or above, or SKOV_POWER tripped is 1. -/
def State.smbAlert (s : State) : Bool := s.power.tripped || (List.range 128).any fun i => s.sensorLevel.get i != 0
/-- PWR_GOOD: released high while the power state is Idle or Run. -/
def State.pwrGood (s : State) : Bool := 2 ≤ s.powerState
/-- TRIP#: asserted while tripped and held_down are both 1. -/
def State.tripPin (s : State) : Bool := s.power.tripped && s.power.heldDown

/-! ## Sensors (R507) -/

/-- The warning, critical or trip figure of a list. -/
def figure (l : List Int) (n : Nat) : Int := l.getD (n - 1) 0

/-- Above an upper or below a lower bound, both drawn in by a margin. -/
def outside (v lo hi margin : Int) : Bool := v > hi - margin || v < lo + margin

/-- Whether a sample lies beyond the threshold of a level, or has not returned inside it by the margin (`back`). -/
def beyond (sensor : Nat) (v sp : Int) (n : Nat) (back : Bool) : Bool :=
  let b : Int := if back then 1 else 0
  if sensor ≤ 35 then v > figure [95000, 105000, 110000] n - 2000 * b
  else if sensor ≤ 63 then
    let pct := figure [3, 5, 8] n
    outside (100 * v) ((100 - pct) * sp) ((100 + pct) * sp) (sp * b)
  else if sensor == 64 then outside v (figure [48000, 47000, 46000] n) (figure [58000, 59000, 60000] n) (540 * b)
  else if sensor == 65 then n ≤ 2 && outside (100 * v) ((100 - figure [3, 5] n) * 3300) ((100 + figure [3, 5] n) * 3300) (3300 * b)
  else if sensor == 66 then false
  else if sensor == 67 then v > figure [3200000, 3300000, 3400000] n
  else v > figure [110000, 120000, 125000] n - 2000 * b

/-- Ticks for which a trip condition must hold: of a wall or quoin diode, how long the critical level (log 39). -/
def tripHold (sensor : Nat) : Nat :=
  if sensor ≤ 35 then 50000000
  else if sensor ≤ 63 then 5000
  else if sensor == 64 then 500
  else if sensor == 67 then 5000000
  else 0

/-- The level after a sample, and since when (one more than the tick, 0 not) the condition that must last has held. -/
def State.sensorNext (s : State) (i : Nat) (v sp : Int) : Nat × Nat :=
  let old := s.sensorLevel.get i
  let met := fun (n : Nat) => beyond i v sp n false || (n ≤ old && beyond i v sp n true)
  let lasting := if i ≤ 35 then met 2 else beyond i v sp 3 false
  let since := if lasting then (if s.sensorSince.get i == 0 then s.tick + 1 else s.sensorSince.get i) else 0
  let held := since != 0 && s.tick + 1 ≥ since + tripHold i
  let trip := held || (i ≤ 35 && met 3) || (old == 3 && beyond i v sp 3 true)
  (if trip then 3 else if met 2 then 2 else if met 1 then 1 else 0, since)

/-- SENSOR_SAMPLE (R507 to R510): value and level; a change of level is an event, a change to trip a trip; in
Standby a trip holds the regulators off, but a 54 V supply out of limits only keeps them off until it returns (R535, R540); a standby supply
below 3.0 V is Off. Indices 84 up are reserved. -/
def State.sensorSample (s : State) (i : Nat) (v sp : Int) : State :=
  if !s.power.standby || i ≥ 84 || !((s.skov false).up || (s.skov true).up) then s
  else if i == 65 && v < 3000 then s.standbyLost
  else
    let (level, since) := s.sensorNext i v sp
    let old := s.sensorLevel.get i
    let s := { s with
      sensorValue := s.sensorValue.set i (v % 2 ^ 32).toNat
      sensorLevel := s.sensorLevel.set i level
      sensorValid := s.sensorValid.set i 1
      sensorSince := s.sensorSince.set i since }
    if level == old then s
    else
      let s := s.event 0x0E (i + level * 2 ^ 8)
      if level == 3 then
        if s.power.regulators then s.powerOff (some i) 2
        else if i == 64 then s
        else { s with power := { s.power with heldDown := true, tripped := true, tripSensor := i } }
      else if i == 64 then s.tryIdle 1
      else s

def execSensorSample (sensor : Fin 128) (value setPoint : Int) (s : State) : Host.Outcome State Fault Refusal :=
  .next (s.sensorSample sensor.val value setPoint)

end Sys2Proof.Machine
end

