-- ==== Sys2Proof/Machine/Manage.lean ====
section
/-! DEFINITION. Run control, updates, identity, attestation, logs, sensors and power by management commands (R462 to R464,
R477 to R481, R524 to R529), from a Plumbline port or the SMBus controller (R466, R527). -/

namespace Sys2Proof.Machine

/-! ## Who is served, and answers -/

/-- A message of the answer's first word: command, status, anything above, then its data (R477, R524). -/
def answerBytes (cmd status extra : Nat) (data : List Byte) : List Byte := leBytes 8 (cmd + 2 ^ 8 * status + extra) ++ data

/-- An answer to whoever sent the command; an SMBus controller reads it from +1 onward, by the command code at +0 (R527), at either address (R523). -/
def State.answerTo (s : State) (m : Manager) (cmd status extra : Nat) (data : List Byte) : State :=
  let bs := answerBytes cmd status extra data
  match m with
  | .port p tag => s.send p ⟨0x16, tag.toNat, 0, bs⟩
  | .smbus _ | .smbusRecovery _ => { s with smbus := s.smbus ++ [((byteAt bs 0).toNat, bs.drop 1)] }

/-- What a Block Read with a command code returns: the oldest answer to that command not yet read, from +1 onward, which is then read
(R527). The controller's reading is no command of this model. -/
def State.blockRead (s : State) (code : Nat) : Option (List Byte) × State :=
  ((s.smbus.find? fun x => x.1 == code).map (·.2), { s with smbus := s.smbus.eraseP fun x => x.1 == code })

/-- Whether a command reaches a Skovlaper that answers it: the active's firmware, over an Active link or an SMBus transfer whose check
passes (R527); with both
in ROM recovery, those alone that recovery answers; at address 0x4B the one in recovery beside an active peer (R466, R502, R523). -/
def State.serves (s : State) (m : Manager) (rom : Bool) : Bool :=
  s.power.standby &&
  (match m with
    | .port p _ => (s.port p).trainState == 5
    | .smbus pec | .smbusRecovery pec => pec) &&
  (match m with
    | .smbusRecovery _ => rom && s.activeUp && (s.skov (!s.activeD)).recovery
    | _ => s.activeUp || (rom && (s.skov false).recovery && (s.skov true).recovery))

/-- The credit that a management message used (R454). -/
def State.creditBack (s : State) (m : Manager) : State :=
  match m with
  | .port p _ => s.giveCredit p 3
  | .smbus _ | .smbusRecovery _ => s

/-- A command carried out where it is served; elsewhere nothing answers. -/
def State.manage (s : State) (m : Manager) (rom : Bool) (f : State → State) : State :=
  if s.serves m rom then (f s).creditBack m else s

/-- Whether a command comes from an unbound port (R463, R525), and whether from the SMBus (R527). -/
def State.unbound (s : State) (m : Manager) : Bool :=
  match m with
  | .port p _ => !(s.port p).bound
  | .smbus _ | .smbusRecovery _ => false
def onSmbus (m : Manager) : Bool :=
  match m with
  | .smbus _ | .smbusRecovery _ => true
  | .port _ _ => false

/-! ## Run control (R462, R477 to R481) -/

def execStatus (m : Manager) (s : State) : Host.Outcome State Fault Refusal :=
  .next (s.manage m true fun s => s.answerTo m 0x01 0 0 (leBytes 8 s.funcWord))

/-- BIND (R462). -/
def State.bind (s : State) (m : Manager) (host : U16) (context : U64) : State :=
  match m with
  | .smbus _ | .smbusRecovery _ => s.answerTo m 0x02 4 0 []
  | .port p _ =>
    if context.toNat == s.func.context || s.func.context == 0 || !s.func.ever then
      let s := s.updPort p fun pt => { pt with bound := true, hostId := host.toNat, context := context.toNat }
      (s.event 0x08 (p.val + 2 ^ 16 * host.toNat)).answerTo m 0x02 0 0 []
    else s.answerTo m 0x02 4 0 []

def execBind (m : Manager) (hostId : U16) (context : U64) (s : State) : Host.Outcome State Fault Refusal :=
  .next (s.manage m false fun s => s.bind m hostId context)

/-- UNBIND (R462): the binding is cleared. -/
def State.unbind (s : State) (m : Manager) : State :=
  match m with
  | .smbus _ | .smbusRecovery _ => s.answerTo m 0x05 4 0 []
  | .port p _ => (s.updPort p fun pt => { pt with bound := false, hostId := 0 }).answerTo m 0x05 0 0 []

def execUnbind (m : Manager) (s : State) : Host.Outcome State Fault Refusal := .next (s.manage m false fun s => s.unbind m)

/-- STOP (R478, R481). -/
def State.stopCommand (s : State) (m : Manager) (mode : Nat) : State :=
  let answer := fun (s : State) st => s.answerTo m 0x03 st 0 []
  if onSmbus m || s.unbound m then answer s 4
  else if mode > 1 then answer s 7
  else if s.func.state == 5 || s.func.state == 6 then answer s 0
  else if s.func.state == 4 then
    (if s.func.stopAbort then (if mode == 0 then answer s 6 else answer s 0)
    else if mode == 1 then (answer s 0).toAbort
    else answer s 0)
  else if s.func.state == 3 then (answer s 0).stopBegin (mode == 1)
  else answer s 5

def execStop (m : Manager) (mode : Byte) (s : State) : Host.Outcome State Fault Refusal :=
  .next (s.manage m false fun s => s.stopCommand m mode.toNat)

/-- START (R480, R481). -/
def State.startCommand (s : State) (m : Manager) (slot : Nat) (keep : Bool) : State :=
  let answer := fun st => s.answerTo m 0x04 st 0 []
  if onSmbus m || s.unbound m then answer 4
  else if slot == 3 then answer 7
  else if s.func.state != 5 && s.func.state != 6 then answer 6
  else (answer 0).startImage slot keep

def execStart (m : Manager) (slot : Fin 4) (keep : Bool) (s : State) : Host.Outcome State Fault Refusal :=
  .next (s.manage m false fun s => s.startCommand m slot.val keep)

/-- An event notice sent by a host (R464, R477). -/
def execEventNoticeFromHost (m : Manager) (s : State) : Host.Outcome State Fault Refusal :=
  .next (s.manage m false fun s => s.answerTo m 0x80 7 0 [])

/-- The codes that name a command (R477, R524). -/
def knownCommand (code : Nat) : Bool :=
  [0x01, 0x02, 0x03, 0x04, 0x05, 0x10, 0x11, 0x12, 0x13, 0x20, 0x21, 0x30, 0x31, 0x38, 0x3A, 0x3B, 0x80].contains code

/-- MGMT_UNKNOWN_COMMAND (R477, R524): any other code is malformed; a code that names a command is not this event's (log 11). -/
def State.unknownCommand (s : State) (m : Manager) (code : Nat) : State :=
  if knownCommand code then s else s.manage m false fun s => s.answerTo m code 7 0 []

def execMgmtUnknownCommand (m : Manager) (code : Byte) (s : State) : Host.Outcome State Fault Refusal :=
  .next (s.unknownCommand m code.toNat)

/-! ## Updates (R526) -/

/-- The devices that a target is written to, and the offset at which it begins. -/
def targetDevs (target : Nat) : List Bool := if target == 0 then [false] else if target == 1 then [true] else [false, true]
def targetBase (target : Nat) : Nat := if target < 2 then 0 else fwBase (target - 2)

/-- Whether a target is an image or firmware copy, streamed to flash. -/
def isBulk (target : Nat) : Bool := target ≤ 3

/-- Whether a length is allowed for a target. -/
def updateLengthOk (target length : Nat) : Bool :=
  if target ≤ 1 then length ≤ 805306368
  else if target ≤ 3 then length ≤ 4194304
  else if target ≤ 5 then length == 1024
  else target == 6 && length == 576

/-- Blocks of a target erased up to a count, on every device that it names. -/
def State.eraseTo (s : State) (target n : Nat) : State :=
  match s.session with
  | none => s
  | some u =>
    let s := (targetDevs target).foldl (fun (s : State) dev =>
      (List.range' u.erased (n - u.erased)).foldl (fun (s : State) b =>
        s.flashErase dev (targetBase target / flashBlock + b)) s) s
    { s with session := some { u with erased := max u.erased n } }

/-- Bytes of a target written on every device that it names. -/
def State.targetWrite (s : State) (target off : Nat) (bs : List Byte) : State :=
  (targetDevs target).foldl (fun (s : State) dev => s.flashWrite dev (targetBase target + off) bs) s

/-- The same owner, whatever its tag. -/
def sameOwner (a b : Manager) : Bool :=
  match a with
  | .smbus _ | .smbusRecovery _ => onSmbus b
  | .port p _ => ownedBy b p

/-- Whether start-up is reading a target's slot (R481). -/
def State.loadingTarget (s : State) (target : Nat) : Bool :=
  s.func.state == 2 && ((target == 0 && s.func.slot == 1) || (target == 1 && s.func.slot == 2))

/-- UPDATE_BEGIN (log 40 gives the order of its refusals). -/
def State.updateBegin (s : State) (m : Manager) (target length : Nat) : State :=
  let answer := fun (s : State) st => s.answerTo m 0x10 st 0 []
  if target > 6 || !updateLengthOk target length then answer s 7
  else if s.session.isSome || s.loadingTarget target then answer s 6
  else
    let u : Session := ⟨m, target, length, 0, 0, List.replicate (if isBulk target then 64 else length) 0xFF, s.tick⟩
    let s : State := { s with session := some u }
    answer (if isBulk target then s.eraseTo target 1 else s) 0

/-- ROM recovery answers the update commands for firmware targets alone (R523). -/
def isFirmware (target : Nat) : Bool := target == 2 || target == 3
def State.sessionFirmware (s : State) : Bool :=
  match s.session with
  | some u => isFirmware u.target
  | none => true

def execUpdateBegin (m : Manager) (target : Byte) (length : U32) (s : State) : Host.Outcome State Fault Refusal :=
  .next (s.manage m (isFirmware target.toNat) fun s => s.updateBegin m target.toNat length.toNat)

/-- A command of an open session by its owner; without a session it is malformed, with another's busy (log 40). -/
def State.inSession (s : State) (m : Manager) (cmd : Nat) (f : State → Session → State) : State :=
  match s.session with
  | none => s.answerTo m cmd 7 0 []
  | some u =>
    if sameOwner m u.owner then
      let u : Session := { u with lastTick := s.tick }
      f ({ s with session := some u } : State) u
    else s.answerTo m cmd 6 0 []

/-- Bytes laid over a list at an offset. -/
def overlay (bs : List Byte) (off : Nat) (new : List Byte) : List Byte :=
  (List.range bs.length).map fun i => if off ≤ i && i < off + new.length then byteAt new (i - off) else byteAt bs i

/-- Data of a session: the first 64 bytes, and the whole of a record or key entry, stay in Skovlaper memory. -/
def State.putData (s : State) (u : Session) (off : Nat) (data : List Byte) : State :=
  let stop := off + data.length
  let u := { u with head := overlay u.head off data, next := stop }
  let s : State := { s with session := some u }
  if !isBulk u.target || stop ≤ 64 then s
  else (s.eraseTo u.target (cdiv stop flashBlock)).targetWrite u.target (max off 64) (data.drop (64 - off))

/-- UPDATE_DATA (R526 step 2). -/
def State.updateData (s : State) (m : Manager) (off : Nat) (data : List Byte) : State :=
  s.inSession m 0x11 fun s u =>
    if data.isEmpty || data.length > 248 || off < u.next || off + data.length > u.length then s.answerTo m 0x11 7 0 []
    else (s.putData u off data).answerTo m 0x11 0 0 []

def execUpdateData (m : Manager) (offset : U32) (data : List Byte) (s : State) : Host.Outcome State Fault Refusal :=
  .next (s.manage m s.sessionFirmware fun s => s.updateData m offset.toNat data)

/-- What a commit comes to: good with the state it leaves and the event's version, a check code, or busy. -/
inductive Commit where
  | good (s : State) (version : Nat)
  | bad (code : Nat)
  | busy
  deriving DecidableEq, Repr

/-- The target as it stands with its first 64 bytes written; blocks up to its length are erased (gaps read erased). -/
def State.headWritten (s : State) (u : Session) : State :=
  (s.eraseTo u.target (cdiv u.length flashBlock)).targetWrite u.target 0 u.head

/-- Commit of an image: the slot checks of R467 and every section's digest. -/
def State.commitImage (s : State) (u : Session) : Commit :=
  let s := s.headWritten u
  let dev := u.target == 1
  let code := s.slotCheck dev (s.skov s.activeD).imageFloor
  if code != 1 then .bad code
  else if (s.sections dev).any fun x => (s.sectionBytes dev x).isNone then .bad 6
  else .good s (s.imageWord dev 8 4)

/-- Commit of a firmware copy, checked on both devices. -/
def State.commitFirmware (s : State) (u : Session) : Commit :=
  let s := s.headWritten u
  let c := u.target - 2
  let b := s.fwCheck false c
  let d := s.fwCheck true c
  if b != 1 then .bad b else if d != 1 then .bad d else .good s (s.fwVersion false c)

/-- The first free record of a revocation block. -/
def State.freeRecord (s : State) (dev : Bool) : Option Nat :=
  findUp (fun i => s.flashWord dev (revokeBase + 1024 * i) 4 == 0xFFFF_FFFF) 0 64

/-- Commit of a revocation record (R515, R526). -/
def State.commitRevocation (s : State) (u : Session) : Commit :=
  if leAt u.head 0 4 != 0x4B56_4552 then .bad 2
  else match s.revocation s.activeD u.head with
    | none => .bad 4
    | some slot => match s.freeRecord false, s.freeRecord true with
      | some i, some j =>
        let s := (s.flashWrite false (revokeBase + 1024 * i) u.head).flashWrite true (revokeBase + 1024 * j) u.head
        .good (if bitAt (s.revoked s.activeD) slot then s.event 0x0D slot else s) 0
      | _, _ => .busy

/-- A floor write on one device (R516, R517): the copy with the lower count replaced, with the count after the one in force. -/
def State.writeFloor (s : State) (dev : Bool) (fw image : Nat) : State :=
  let fl := s.floors dev
  let k := s.skov dev
  let base := floorBase (s.floorTarget dev)
  let s := (s.flashErase dev (base / flashBlock)).flashWrite dev base
    (floorBytes (fl.count + 1) (max k.fwFloor fw) (max k.imageFloor image))
  s.updSkov dev fun k => { k with fwFloor := max k.fwFloor fw, imageFloor := max k.imageFloor image, floorUnauth := false }

/-- Whether a Skovlaper can write its MAC (log 41). -/
def Skov.canMac (k : Skov) : Bool := k.up && k.keys

/-- Commit of a floor record (R516, R517, R526). -/
def State.commitFloor (s : State) (u : Session) : Commit :=
  let fw := leAt u.head 8 4
  let image := leAt u.head 12 4
  let raises := fun d => (s.skov d).fwFloor < fw || (s.skov d).imageFloor < image
  if leAt u.head 0 4 != 0x4452_4C46 then .bad 2
  else if !s.verify s.activeD (byteAt u.head 4).toNat (u.head.take 512) ((u.head.drop 512).take 512) then .bad 4
  else if !raises false && !raises true then .good s 0
  else if !(s.skov false).canMac || !(s.skov true).canMac then .busy
  else
    let s := (s.writeFloor false fw image).writeFloor true fw image
    let k := s.skov s.activeD
    .good (s.event 0x0C (k.fwFloor + 2 ^ 32 * k.imageFloor)) 0

/-- Commit of a key entry (R514, R526). -/
def State.commitKey (s : State) (u : Session) : Commit :=
  let slot := (byteAt u.head 0).toNat
  if slot > 3 || !keyMatches u.head slot then .bad 4
  else .good ((s.flashWrite false (mgmtBase + 1024 * slot) u.head).flashWrite true (mgmtBase + 1024 * slot) u.head) 0

def State.commitOf (s : State) (u : Session) : Commit :=
  match u.target with
  | 0 | 1 => s.commitImage u
  | 2 | 3 => s.commitFirmware u
  | 4 => s.commitRevocation u
  | 5 => s.commitFloor u
  | _ => s.commitKey u

/-- UPDATE_COMMIT (R526 step 3): the check code at +8; the session ends. -/
def State.updateCommit (s : State) (m : Manager) : State :=
  s.inSession m 0x12 fun s u =>
    let s : State := { s with free := s.free + 1 }
    match s.commitOf u with
    | .good s v =>
      let s := ({ s with session := none } : State).event 0x0A (u.target + 2 ^ 32 * (v % 2 ^ 32))
      s.answerTo m 0x12 0 0 (leBytes 8 1)
    | .bad code =>
      let s := ({ s with session := none } : State).event 0x0B (u.target + 2 ^ 8 * code)
      s.answerTo m 0x12 1 0 (leBytes 8 code)
    | .busy => ({ s with session := none } : State).answerTo m 0x12 6 0 (leBytes 8 0)

def execUpdateCommit (m : Manager) (s : State) : Host.Outcome State Fault Refusal :=
  .next (s.manage m s.sessionFirmware fun s => s.updateCommit m)

/-- UPDATE_ABORT (R526 step 4): a bulk target stays blank, its first bytes never written. -/
def State.updateAbort (s : State) (m : Manager) : State :=
  s.inSession m 0x13 fun s _ => ({ s with session := none } : State).answerTo m 0x13 0 0 []

def execUpdateAbort (m : Manager) (s : State) : Host.Outcome State Fault Refusal :=
  .next (s.manage m s.sessionFirmware fun s => s.updateAbort m)

/-- UPDATE_SESSION_TIMEOUT (R526 step 4): 10 s without a message. -/
def State.sessionTimeout (s : State) : State :=
  match s.session with
  | some u => if s.tick < u.lastTick + 500000000 then s else { s with session := none }
  | none => s

def execUpdateSessionTimeout (s : State) : Host.Outcome State Fault Refusal := .next s.sessionTimeout

/-! ## Identity and attestation (R528, R529) -/

/-- The identity key is at hand: quoin B's firmware runs, with its keys. -/
def State.identityReady (s : State) : Bool := (s.skov false).up && (s.skov false).keys

/-- IDENTITY (R524): a chunk of the certificate, and how many there are. -/
def State.identity (s : State) (m : Manager) (chunk : Nat) : State :=
  let n := cdiv Config.certificate.length 248
  if !s.identityReady then s.answerTo m 0x20 1 0 []
  else if chunk ≥ n then s.answerTo m 0x20 7 (2 ^ 16 * (n % 65536)) []
  else s.answerTo m 0x20 0 (2 ^ 16 * (n % 65536)) ((Config.certificate.drop (248 * chunk)).take 248)

def execIdentity (m : Manager) (chunk : U16) (s : State) : Host.Outcome State Fault Refusal :=
  .next (s.manage m false fun s => s.identity m chunk.toNat)

/-- Bytes 0 to 511 of the attestation report (R529). -/
def State.reportBody (s : State) (nonce : List Byte) : List Byte :=
  let f := s.func
  let b := s.skov false
  let d := s.skov true
  let w0 := 1 + 2 ^ 16 * f.state + 2 ^ 19 * f.slot + 2 ^ 21 * s.powerState + 2 ^ 23 * b2n b.floorUnauth +
    2 ^ 24 * s.revoked false + 2 ^ 28 * (f.keySlot % 16) + 2 ^ 32 * (f.generation % 2 ^ 32)
  let words := leBytes 8 w0 ++ leBytes 8 (f.imageSv + 2 ^ 32 * b.fwVersion) ++ leBytes 8 (b.fwFloor + 2 ^ 32 * b.imageFloor) ++
    leBytes 8 s.tick ++ leBytes 8 f.context ++ leBytes 8 (b2n d.up)
  padTo 64 words ++ padTo 64 (padTo 32 nonce) ++ padTo 64 b.fwMeas ++ padTo 64 (if d.up then d.fwMeas else []) ++
    padTo 64 (if f.loaded then f.imageMeas else []) ++ padTo 64 (sha512 Config.certificate) ++
    padTo 128 (allPiers.flatMap fun p => leBytes 8 (s.pier p).spareStatus.toNat)

/-- ATTEST (R524, R529): five messages. -/
def State.attest (s : State) (m : Manager) (nonce : List Byte) : State :=
  if !s.identityReady then s.answerTo m 0x21 1 0 []
  else
    let body := s.reportBody nonce
    let report := body ++ padTo 512 (Config.identitySign body)
    (List.range 5).foldl (fun (s : State) i => s.answerTo m 0x21 0 (2 ^ 16 * i) ((report.drop (248 * i)).take 248)) s

def execAttest (m : Manager) (nonce : List Byte) (s : State) : Host.Outcome State Fault Refusal :=
  .next (s.manage m false fun s => s.attest m nonce)

/-! ## Log, sensors (R499, R508, R524) -/

/-- The log that the active Skovlaper reads: its own device's, but for records whose check fails (R499). -/
def State.ownLog (s : State) : List (List Byte) := (if s.activeD then s.log1 else s.log0).filter recordOk

def State.oldestRecord (s : State) : Nat :=
  match s.ownLog with
  | r :: _ => recordNo r
  | [] => s.recordCount

def execLogInfo (m : Manager) (s : State) : Host.Outcome State Fault Refusal :=
  .next (s.manage m false fun s => s.answerTo m 0x30 0 0 (leBytes 8 s.oldestRecord ++ leBytes 8 s.recordCount))

/-- LOG_READ (R524): of the records with the numbers asked for, those that the log holds. -/
def State.logRead (s : State) (m : Manager) (count first : Nat) : State :=
  if count == 0 || count > 3 then s.answerTo m 0x31 7 0 []
  else
    let rs := s.ownLog.filter fun r => first ≤ recordNo r && recordNo r < first + count
    s.answerTo m 0x31 0 (2 ^ 16 * rs.length) rs.flatten

def execLogRead (m : Manager) (count : Byte) (first : U64) (s : State) : Host.Outcome State Fault Refusal :=
  .next (s.manage m false fun s => s.logRead m count.toNat first.toNat)

/-- SENSOR_READ (R524). -/
def State.sensorRead (s : State) (m : Manager) (first count : Nat) : State :=
  if count == 0 || count > 30 || first + count > 128 then s.answerTo m 0x38 7 0 []
  else s.answerTo m 0x38 0 0 ((List.range' first count).flatMap fun i => leBytes 8 (s.sensorWord i))

def execSensorRead (m : Manager) (first : Fin 128) (count : Byte) (s : State) : Host.Outcome State Fault Refusal :=
  .next (s.manage m false fun s => s.sensorRead m first.val count.toNat)

/-! ## Power (R525) -/

/-- The main regulators held off, switched off first where they are on. -/
def State.holdDown (s : State) : State :=
  if s.power.regulators then s.powerOff none 0 else { s with power := { s.power with heldDown := true } }

/-- POWER_DOWN (R525): with force, a running or stopping module goes through an abort first. -/
def State.powerDown (s : State) (m : Manager) (force : Bool) : State :=
  let answer := fun st => s.answerTo m 0x3A st 0 []
  if s.unbound m then answer 4
  else if s.func.state == 5 || s.func.state == 6 then (answer 0).holdDown
  else if !force then answer 6
  else
    let s := answer 0
    let s : State := { s with func := { s.func with downAfter := s.func.state == 3 || s.func.state == 4 } }
    if s.func.state == 3 then s.stopBegin true
    else if s.func.state == 4 then (if s.func.stopAbort then s else s.toAbort)
    else s.holdDown

def execPowerDown (m : Manager) (force : Bool) (s : State) : Host.Outcome State Fault Refusal :=
  .next (s.manage m false fun s => s.powerDown m force)

/-- POWER_UP (R525, R535). -/
def State.powerUp (s : State) (m : Manager) : State :=
  if s.unbound m then s.answerTo m 0x3B 4 0 []
  else (({ s with power := { s.power with heldDown := false } } : State).answerTo m 0x3B 0 0 []).tryIdle 0

def execPowerUp (m : Manager) (s : State) : Host.Outcome State Fault Refusal := .next (s.manage m false fun s => s.powerUp m)

end Sys2Proof.Machine
end

