-- ==== Sys2Proof/Machine/Flits.lean ====
section
/-! DEFINITION. FLIT_RECEIVE (R447 to R453): a flit from the partner, and the messages that it completes. -/

namespace Sys2Proof.Machine

/-- The outcome's state, where every meaning of this model is one. -/
def outState (o : Host.Outcome State Fault Refusal) (s : State) : State :=
  match o with
  | .next t => t
  | _ => s

/-- A MGMT message's command (R477, R524, R525). -/
def State.mgmt (s : State) (p : PortId) (tag : U32) (b : List Byte) : State :=
  let m : Manager := .port p tag
  let w := leAt b 0 8
  let bits : Nat → Nat → Nat := fun hi lo => fld w hi lo
  let out := match bits 7 0 with
    | 0x01 => execStatus m s
    | 0x02 => execBind m (BitVec.ofNat 16 (leAt b 8 2)) (BitVec.ofNat 64 (leAt b 16 8)) s
    | 0x03 => execStop m (BitVec.ofNat 8 (bits 15 8)) s
    | 0x04 => execStart m ⟨bits 9 8 % 4, Nat.mod_lt _ (by decide)⟩ (bitAt w 16) s
    | 0x05 => execUnbind m s
    | 0x10 => execUpdateBegin m (BitVec.ofNat 8 (bits 23 16)) (BitVec.ofNat 32 (bits 63 32)) s
    | 0x11 => execUpdateData m (BitVec.ofNat 32 (bits 63 32)) (b.drop 8) s
    | 0x12 => execUpdateCommit m s
    | 0x13 => execUpdateAbort m s
    | 0x20 => execIdentity m (BitVec.ofNat 16 (bits 31 16)) s
    | 0x21 => execAttest m ((b.drop 8).take 32) s
    | 0x30 => execLogInfo m s
    | 0x31 => execLogRead m (BitVec.ofNat 8 (bits 23 16)) (BitVec.ofNat 64 (leAt b 8 8)) s
    | 0x38 => execSensorRead m ⟨bits 22 16 % 128, Nat.mod_lt _ (by decide)⟩ (BitVec.ofNat 8 (bits 31 24)) s
    | 0x3A => execPowerDown m (bitAt w 16) s
    | 0x3B => execPowerUp m s
    | 0x80 => execEventNoticeFromHost m s
    | n => execMgmtUnknownCommand m (BitVec.ofNat 8 n) s
  outState out s

/-- A whole message of the byte stream (R453), unless one before it took its link down. -/
def State.wholeMessage (s : State) (p : PortId) (m : List Byte) : State :=
  if (s.port p).trainState != 5 then s
  else match (byteAt m 0).toNat with
    | 6 => s.mgmt p (BitVec.ofNat 32 (leAt m 4 4)) (m.drop 16)
    | 7 => s.hostIdent p (m.drop 16)
    | 8 => s.hostCredit p (m.drop 16)
    | _ => s.arrive p m

/-- FLIT_RECEIVE: the link layer, then every message whose last byte has come; a retrain that the flit's nak asks for begins after them,
so that none is lost (R451). -/
def State.flitReceive (s : State) (p : PortId) (flit : List Byte) : State :=
  if (s.port p).trainState != 5 then s
  else
    let r := (s.port p).receive s.tick flit
    let s := s.updPort p fun _ => r.1
    if !r.2 then s
    else
      let c := cutMessages 256 (s.port p).rxBytes
      let s := s.updPort p fun pt => { pt with rxBytes := c.2.1, trainState := 5 }
      let s := c.1.foldl (fun (s : State) m => s.wholeMessage p m) s
      if c.2.2 then s.protocolError p
      else s.updPort p fun pt => if pt.trainState == 5 then { pt with trainState := r.1.trainState } else pt

def execFlitReceive (port : PortId) (flit : List Byte) (s : State) : Host.Outcome State Fault Refusal :=
  .next (s.flitReceive port flit)

end Sys2Proof.Machine
end

