-- ==== Sys2Proof/Machine/Dispatch.lean ====
section
/-! DEFINITION. The meaning of every command, by one direct call an arm. -/

namespace Sys2Proof.Machine

def exec (i : Instr) (s : State) : Host.Outcome State Fault Refusal :=
  match i with
  | .mmul q => Sys2Proof.Machine.execMmul q s
  | .spmm q => Sys2Proof.Machine.execSpmm q s
  | .spmmt q => Sys2Proof.Machine.execSpmmt q s
  | .sddmm q => Sys2Proof.Machine.execSddmm q s
  | .tcopy q => Sys2Proof.Machine.execTcopy q s
  | .rownorm q => Sys2Proof.Machine.execRownorm q s
  | .rowsoftmax q => Sys2Proof.Machine.execRowsoftmax q s
  | .act q => Sys2Proof.Machine.execAct q s
  | .reduce q => Sys2Proof.Machine.execReduce q s
  | .topk q => Sys2Proof.Machine.execTopk q s
  | .pack q => Sys2Proof.Machine.execPack q s
  | .prune q => Sys2Proof.Machine.execPrune q s
  | .regrow q => Sys2Proof.Machine.execRegrow q s
  | .update q => Sys2Proof.Machine.execUpdate q s
  | .dmask q => Sys2Proof.Machine.execDmask q s
  | .ckpt q => Sys2Proof.Machine.execCkpt q s
  | .exportShards q => Sys2Proof.Machine.execExport q s
  | .move q => Sys2Proof.Machine.execMove q s
  | .signal q => Sys2Proof.Machine.execSignal q s
  | .wait q => Sys2Proof.Machine.execWait q s
  | .headerDecode q => Sys2Proof.Machine.execHeaderDecode q s
  | .headerComplete q => Sys2Proof.Machine.execHeaderComplete q s
  | .submissionLineWrite src addr data => Sys2Proof.Machine.execSubmissionLineWrite src addr data s
  | .submissionEnqueue q => Sys2Proof.Machine.execSubmissionEnqueue q s
  | .submissionLineRead src addr len => Sys2Proof.Machine.execSubmissionLineRead src addr len s
  | .keystoneValueWrite src addr data => Sys2Proof.Machine.execKeystoneValueWrite src addr data s
  | .keystoneAddWrite src addr data => Sys2Proof.Machine.execKeystoneAddWrite src addr data s
  | .keystoneTasRead src addr len => Sys2Proof.Machine.execKeystoneTasRead src addr len s
  | .keystoneTasWrite src addr data => Sys2Proof.Machine.execKeystoneTasWrite src addr data s
  | .keystoneUpdateCycle key => Sys2Proof.Machine.execKeystoneUpdateCycle key s
  | .keystoneDeferredTas key => Sys2Proof.Machine.execKeystoneDeferredTas key s
  | .stepAdvance => Sys2Proof.Machine.execStepAdvance s
  | .slotChange p => Sys2Proof.Machine.execSlotChange p s
  | .stationaryTileLoaded c stream => Sys2Proof.Machine.execStationaryTileLoaded c stream s
  | .corbelStateArrival c stream row => Sys2Proof.Machine.execCorbelStateArrival c stream row s
  | .chiselJobStart p wall => Sys2Proof.Machine.execChiselJobStart p wall s
  | .finishPass p q => Sys2Proof.Machine.execFinishPass p q s
  | .maskRewrite p q => Sys2Proof.Machine.execMaskRewrite p q s
  | .listScanClose c stream => Sys2Proof.Machine.execListScanClose c stream s
  | .tableStoreAvailable q => Sys2Proof.Machine.execTableStoreAvailable q s
  | .tableStoreLoad c => Sys2Proof.Machine.execTableStoreLoad c s
  | .applyComplete p q => Sys2Proof.Machine.execApplyComplete p q s
  | .deferEntryPlace quoin => Sys2Proof.Machine.execDeferEntryPlace quoin s
  | .deferEntryDrain quoin => Sys2Proof.Machine.execDeferEntryDrain quoin s
  | .fingerprintRecheck p tensor entry => Sys2Proof.Machine.execFingerprintRecheck p tensor entry s
  | .ckptWriteDone p => Sys2Proof.Machine.execCkptWriteDone p s
  | .ckptDrainDone p => Sys2Proof.Machine.execCkptDrainDone p s
  | .runAheadFetch c addr codeError => Sys2Proof.Machine.execRunAheadFetch c addr codeError s
  | .repointLine u addr res => Sys2Proof.Machine.execRepointLine u addr res s
  | .gddr7Retrain p channel => Sys2Proof.Machine.execGddr7Retrain p channel s
  | .evacuationCopyDone p => Sys2Proof.Machine.execEvacuationCopyDone p s
  | .cxlDeviceArrival port dev => Sys2Proof.Machine.execCxlDeviceArrival port dev s
  | .cxlOrderlyDeparture port => Sys2Proof.Machine.execCxlOrderlyDeparture port s
  | .cxlSurpriseDeparture port => Sys2Proof.Machine.execCxlSurpriseDeparture port s
  | .courseSleep c => Sys2Proof.Machine.execCourseSleep c s
  | .courseWake c => Sys2Proof.Machine.execCourseWake c s
  | .pierSleep p => Sys2Proof.Machine.execPierSleep p s
  | .pierWake p => Sys2Proof.Machine.execPierWake p s
  | .repointingWake p course => Sys2Proof.Machine.execRepointingWake p course s
  | .inPierResetFlush d => Sys2Proof.Machine.execInPierResetFlush d s
  | .boundaryResync d => Sys2Proof.Machine.execBoundaryResync d s
  | .domainDeclaredFailed d crossing => Sys2Proof.Machine.execDomainDeclaredFailed d crossing s
  | .codewordError at_ res => Sys2Proof.Machine.execCodewordError at_ res s
  | .marginMonitorTrip u monitor code => Sys2Proof.Machine.execMarginMonitorTrip u monitor code s
  | .soundingResult u res => Sys2Proof.Machine.execSoundingResult u res s
  | .spareTakeover u => Sys2Proof.Machine.execSpareTakeover u s
  | .masonExchange p core => Sys2Proof.Machine.execMasonExchange p core s
  | .routineSpareSounding u failed => Sys2Proof.Machine.execRoutineSpareSounding u failed s
  | .linkCycleReceive link dir cycle sideBand => Sys2Proof.Machine.execLinkCycleReceive link dir cycle sideBand s
  | .laneGroupTest link dir group failedLanes => Sys2Proof.Machine.execLaneGroupTest link dir group failedLanes s
  | .logWrite => Sys2Proof.Machine.execLogWrite s
  | .plumblineTraining port out => Sys2Proof.Machine.execPlumblineTraining port out s
  | .quickRetrain port got => Sys2Proof.Machine.execQuickRetrain port got s
  | .flitReceive port flit => Sys2Proof.Machine.execFlitReceive port flit s
  | .replayTimeout port => Sys2Proof.Machine.execReplayTimeout port s
  | .ackTimer port => Sys2Proof.Machine.execAckTimer port s
  | .idleFlitSend port => Sys2Proof.Machine.execIdleFlitSend port s
  | .memRead port tag addr rlen => Sys2Proof.Machine.execMemRead port tag addr rlen s
  | .memWrite port tag addr data => Sys2Proof.Machine.execMemWrite port tag addr data s
  | .submit port tag hdr => Sys2Proof.Machine.execSubmit port tag hdr s
  | .watch port tag payload => Sys2Proof.Machine.execWatch port tag payload s
  | .watchMet port watchTag => Sys2Proof.Machine.execWatchMet port watchTag s
  | .admitMsg port tag payload => Sys2Proof.Machine.execAdmitMsg port tag payload s
  | .ident port payload => Sys2Proof.Machine.execIdent port payload s
  | .credit port payload => Sys2Proof.Machine.execCredit port payload s
  | .programCompletion number => Sys2Proof.Machine.execProgramCompletion number s
  | .lateNotice => Sys2Proof.Machine.execLateNotice s
  | .hostDeparture port => Sys2Proof.Machine.execHostDeparture port s
  | .status m => Sys2Proof.Machine.execStatus m s
  | .bind m hostId context => Sys2Proof.Machine.execBind m hostId context s
  | .unbind m => Sys2Proof.Machine.execUnbind m s
  | .stop m mode => Sys2Proof.Machine.execStop m mode s
  | .stopHoldExpiry => Sys2Proof.Machine.execStopHoldExpiry s
  | .start m slot keep => Sys2Proof.Machine.execStart m slot keep s
  | .eventNoticeFromHost m => Sys2Proof.Machine.execEventNoticeFromHost m s
  | .mgmtUnknownCommand m code => Sys2Proof.Machine.execMgmtUnknownCommand m code s
  | .updateBegin m target length => Sys2Proof.Machine.execUpdateBegin m target length s
  | .updateData m offset data => Sys2Proof.Machine.execUpdateData m offset data s
  | .updateCommit m => Sys2Proof.Machine.execUpdateCommit m s
  | .updateAbort m => Sys2Proof.Machine.execUpdateAbort m s
  | .updateSessionTimeout => Sys2Proof.Machine.execUpdateSessionTimeout s
  | .identity m chunk => Sys2Proof.Machine.execIdentity m chunk s
  | .attest m nonce => Sys2Proof.Machine.execAttest m nonce s
  | .logInfo m => Sys2Proof.Machine.execLogInfo m s
  | .logRead m count first => Sys2Proof.Machine.execLogRead m count first s
  | .sensorRead m first count => Sys2Proof.Machine.execSensorRead m first count s
  | .powerDown m force => Sys2Proof.Machine.execPowerDown m force s
  | .powerUp m => Sys2Proof.Machine.execPowerUp m s
  | .sensorSample sensor value setPoint => Sys2Proof.Machine.execSensorSample sensor value setPoint s
  | .standbySupplyUp => Sys2Proof.Machine.execStandbySupplyUp s
  | .skovlaperBoot d => Sys2Proof.Machine.execSkovlaperBoot d s
  | .mainSupplyUp => Sys2Proof.Machine.execMainSupplyUp s
  | .mainSupplyLoss shortPin => Sys2Proof.Machine.execMainSupplyLoss shortPin s
  | .pwrDisChange high => Sys2Proof.Machine.execPwrDisChange high s
  | .standbySupplyLoss => Sys2Proof.Machine.execStandbySupplyLoss s
  | .cxlWaitTimeout => Sys2Proof.Machine.execCxlWaitTimeout s
  | .heartbeatLoss watchdog => Sys2Proof.Machine.execHeartbeatLoss watchdog s
  | .watchdogExpiry d => Sys2Proof.Machine.execWatchdogExpiry d s
  | .watchdogKick src addr data => Sys2Proof.Machine.execWatchdogKick src addr data s
  | .skovlaperRejoin d => Sys2Proof.Machine.execSkovlaperRejoin d s
  | .counterRead src addr len => Sys2Proof.Machine.execCounterRead src addr len s
  | .registerWrite src addr data => Sys2Proof.Machine.execRegisterWrite src addr data s
  | .masonLoadStore p core op addr len data => Sys2Proof.Machine.execMasonLoadStore p core op addr len data s
  | .masonSaveTimeout p core => Sys2Proof.Machine.execMasonSaveTimeout p core s

end Sys2Proof.Machine
end

