-- ==== Sys2Proof/Machine/Tick.lean ====
section
/-! DEFINITION. What one pilot tick does of itself when no command waits (log 1): the requests that arrived in it decided (R421), the pilot
count (R7, R35), the idle windows (R432, R433), the bond position of awake piers (R293), the wait of deferral-queue placements (R349), and the waits of STOP and of step 9 that end
once nothing holds them (R469, R478). -/

namespace Sys2Proof.Machine

/-- Course cycles of one pilot tick: 1.3 GHz over 50 MHz (R34). -/
def cyclesPerTick : Nat := 26

/-- The bond position after one tick. -/
def Pier.tick (p : Pier) : Pier := if p.awake then { p with bondPos := (p.bondPos + cyclesPerTick) % 16384 } else p

/-- A pier's tick; where it brings another slot, the work held back for it goes on (R80, R294). -/
def State.pierTick (s : State) (p : PierId) : State :=
  let slot := fun (pr : Pier) => pr.bondPos / 256
  let pr := s.pier p
  let s := s.updPier p (·.tick)
  (if slot pr == slot pr.tick then s else s.advanceWalks p).stirTick p

/-- One pilot tick; the clock stands while the standby supply is absent (R34). -/
def State.pilotTick (s : State) : State :=
  if s.power.standby then
    let s := State.decideAdmits s.admits.length s
    let s := allPiers.foldl (fun (s : State) p => s.pierTick p) s
    let s := ([0, 1, 2, 3] : List QuoinId).foldl (fun (s : State) q =>
      if (s.quoin q).placing.isEmpty || (s.quoin q).queue.length < Config.deferCap then s else s.bump (trwReg q 0x18) 1) s
    ({ s with tick := wrap64 (s.tick + 1) } : State).stopAdvance.tryFinish
  else s

end Sys2Proof.Machine
end

