-- ==== Sys2Proof/Machine/Step.lean ====
section
/-! DEFINITION. One step: the command at the front of the queue; on an empty queue, one pilot tick (log 1). -/

namespace Sys2Proof.Machine

/-- The front command performed over the rest of the queue; an empty queue lets a pilot tick pass. -/
def step (s : State) : Host.Outcome State Fault Refusal :=
  match s.pending with
  | [] => .next s.pilotTick
  | c :: rest => exec c { s with pending := rest }

/-- The command that a table word spells, put in front of the queue; no change where it spells none. -/
def State.withFetchWord (s : State) (nbits w : Nat) : State :=
  match decodeTableWord nbits w with
  | some c => { s with pending := c :: s.pending }
  | none => s

end Sys2Proof.Machine
end

