-- ==== Sys2Proof/Safety.lean ====
section
/-! DEFINITION. What a sound state is: the canonical form of memory and the ranges of the plain data that every step keeps,
whatever commands come. -/

namespace Sys2Proof

open Machine

/-- A sound state: memory in its canonical form (R9, R367); at most 4,096 records held before they are written (R498);
exactly one Skovlaper active (R502); the function state one of the seven of R467 and its slot none, A or B (R472); the main
regulators on only with the standby supply (R511); the pilot count of 64 bits (R7). -/
def Sound (s : State) : Prop :=
  Memory.wf s.mem = true ∧ s.held.length ≤ Config.heldCap ∧ (s.skov false).active ≠ (s.skov true).active ∧
  s.func.state ≤ 6 ∧ s.func.slot ≤ 2 ∧ (s.power.regulators = true → s.power.standby = true) ∧ s.tick < 2 ^ 64

/-- The commands that can write the flash devices: the updates of R526, and the flits that carry them (R453). -/
def flashCommand : Instr → Bool
  | .updateBegin _ _ _ | .updateData _ _ _ | .updateCommit _ | .flitReceive _ _ => true
  | _ => false

/-- The number that an exact value is, if it is one (R150). -/
def Machine.Val.rat : Val → Option ℚ
  | .fin s m e => some ((if s then -1 else 1) * m * (2 : ℚ) ^ e)
  | _ => none

/-! ## What a host or manager is sent -/

/-- A message of a type goes out at once: its link is up, its queue has a credit and holds no earlier message (R454). -/
def Machine.Port.canSend (p : Port) (mtype : Nat) : Bool :=
  p.linked && !(p.held.any fun h => outQueue h.mtype == outQueue mtype) && p.credits.get (outQueue mtype) != 0

/-- From one state to the next a message goes to a port's host: sent after all that was sent before, or held, for want of
credit, behind all that was held (R454). Without a link it is discarded (R465), but for a delivery that waits (R509). -/
def Machine.State.Sends (s t : State) (p : PortId) (m : OutMsg) : Prop :=
  if (s.port p).canSend m.mtype then (s.port p).sent ++ [m] <+: (t.port p).sent
  else if (s.port p).linked || (m.mtype == 0x14 && (s.port p).waits) then (s.port p).held ++ [m] <+: (t.port p).held
  else (t.port p).sent = (s.port p).sent ∧ (t.port p).held = (s.port p).held

/-- A port without what sending to its host changes: the sender's fields, credits, and the messages held and sent (R447 to
R454). -/
def Machine.Port.kept (p : Port) : Port :=
  { p with
    txSeq := 0, replay := [], backlog := [], sinceIdle := 0, txHdr := 0, txScr := [], lineOut := [], rxSinceAck := 0,
    ackOwed := false, credits := [], owed := [], held := [], sent := [] }

/-- Two states of a port that differ by what was sent to its host alone. -/
def Machine.Port.Transmits (a b : Port) : Prop := b.kept = a.kept

/-- The link that a manager's command comes over is up; the SMBus needs none (R454, R527). -/
def Machine.State.linkUp (s : State) (m : Manager) : Bool :=
  match m with
  | .port p _ => (s.port p).linked
  | .smbus _ | .smbusRecovery _ => true

/-- A management answer (R477): a MGMT message to the port, or the bytes after the command code, under that code, for the SMBus
controller (R527). -/
def Machine.State.Answers (s t : State) (m : Manager) (bs : List Byte) : Prop :=
  match m with
  | .port p tag => s.Sends t p ⟨0x16, tag.toNat, 0, bs⟩
  | .smbus _ | .smbusRecovery _ => t.smbus = s.smbus ++ [((byteAt bs 0).toNat, bs.drop 1)]

/-- Nothing but that answer: every other part of the state, and of the ports, as before. -/
def Machine.State.OnlyAnswers (s t : State) (m : Manager) (bs : List Byte) : Prop :=
  s.Answers t m bs ∧ t = { s with ports := t.ports, smbus := t.smbus } ∧ ∀ p, (s.port p).Transmits (t.port p)

/-! ## Accesses of hosts, mason cores and Skovlapers -/

/-- A message of a type from a port's host takes effect at once: its link is Active, and no message before it waits (R369, R443,
R455). -/
def Machine.State.hears (s : State) (p : PortId) (mtype : Nat) : Prop :=
  (s.port p).trainState = 5 ∧ (s.port p).linked = true ∧ s.blocked p mtype = false

/-- A source reaches the keystones and submission lines of a pier: a bound host while an image runs (R463, R468), or one of the
pier's own mason cores (R371). -/
def Machine.State.reaches (s : State) (src : Source) (pier : PierId) (mtype : Nat) : Prop :=
  match src with
  | .host p _ => s.hears p mtype ∧ (s.port p).bound = true ∧ 3 ≤ s.func.state
  | .mason p _ => p = pier
  | .gone _ | .skov _ => False

/-- A source reaches the registers of a pier's control block: as above, or a Skovlaper (R502). -/
def Machine.State.reachesRegs (s : State) (src : Source) (pier : PierId) (mtype : Nat) : Prop :=
  s.reaches src pier mtype ∨ ∃ d, src = .skov d

/-- The answer to a host that has departed: discarded and counted (R465). -/
def Machine.State.Discards (s t : State) (p : PortId) : Prop :=
  t.ports = s.ports ∧ (∀ q, (t.pier q).masons = (s.pier q).masons) ∧ t.skovs = s.skovs ∧
  t.counters.get (plmbReg p 0x10) = min (s.counters.get (plmbReg p 0x10) + 1) 0xFFFF_FFFF_FFFF_FFFF

/-- A write answered with a status: a host's MEM_ACK (R453), a mason core's fault or none (R32, R371), a Skovlaper's status (R12).
Nothing else is sent or told. -/
def Machine.State.Acked (s t : State) (src : Source) (st : Nat) : Prop :=
  match src with
  | .host p tag => s.Sends t p ⟨0x12, tag.toNat, st, []⟩ ∧ (∀ r, (s.port r).Transmits (t.port r)) ∧
      (∀ q, (t.pier q).masons = (s.pier q).masons) ∧ t.skovs = s.skovs
  | .gone p => s.Discards t p
  | .mason p k => t.ports = s.ports ∧ t.skovs = s.skovs ∧ ∀ q, (t.pier q).masons =
      if q = p then (s.pier q).masons.modify k.val fun m => { m with faulted := if st = 0 then 0 else 2 } else (s.pier q).masons
  | .skov d => t.ports = s.ports ∧ (∀ q, (t.pier q).masons = (s.pier q).masons) ∧
      t.skovs = (s.updSkov d fun k => { k with status := st }).skovs

/-- A read answered with a status and n bytes of a value: a host's MEM_DATA (R453), a mason core's register (R32), or a
Skovlaper's value and status (R12). -/
def Machine.State.Told (s t : State) (src : Source) (st n v : Nat) : Prop :=
  match src with
  | .host p tag => s.Sends t p ⟨0x11, tag.toNat, st, leBytes n v⟩ ∧ (∀ r, (s.port r).Transmits (t.port r)) ∧
      (∀ q, (t.pier q).masons = (s.pier q).masons) ∧ t.skovs = s.skovs
  | .gone p => s.Discards t p
  | .mason p k => t.ports = s.ports ∧ t.skovs = s.skovs ∧ ∀ q, (t.pier q).masons =
      if q = p then (s.pier q).masons.modify k.val fun m => { m with loaded := v, faulted := if st = 0 then 0 else 1 }
      else (s.pier q).masons
  | .skov d => t.ports = s.ports ∧ (∀ q, (t.pier q).masons = (s.pier q).masons) ∧
      t.skovs = (s.updSkov d fun k => { k with answer := v, status := st }).skovs

/-- Nothing but an answer: of the piers only what a mason core has been told. -/
def Machine.State.AnswersAlone (s t : State) : Prop :=
  (∀ p, { t.pier p with masons := [] } = { s.pier p with masons := [] }) ∧
  t = { s with ports := t.ports, piers := t.piers, skovs := t.skovs }

/-! ## Wakes -/

/-- A pier without its caches, and without the check buffer and check lines behind them (R374 to R385). -/
def Machine.Pier.butCaches (p : Pier) : Pier := { p with bed := [], mortar := [], plru := [], checks := [], checkCells := [] }

/-- A pier without what a wake changes (R293, R433, R435). -/
def Machine.Pier.butWake (p : Pier) : Pier := { p with awake := true, bondPos := 0, stirred := 0 }

/-- An access or packet has reached a pier: it runs, and its idle windows begin again (R433, R435), with the event of the power state where
it was the first (R530); packets have passed on the way (R22). Nothing else changes. -/
def Machine.State.Woken (s t : State) (p : PierId) : Prop :=
  (t.pier p).awake = true ∧ (t.pier p).butWake = (s.pier p).butWake ∧ (∀ r, r ≠ p → t.pier r = s.pier r) ∧
  ((s.pier p).awake = true → t.crossHeld = s.crossHeld ∧ t.crossPtr = s.crossPtr) ∧
  (s.powerState = 3 → t.held = s.held ∧ t.counters = s.counters) ∧
  t = { s with
    piers := t.piers, edgeRot := t.edgeRot, crossHeld := t.crossHeld, crossPtr := t.crossPtr, held := t.held, counters := t.counters }

/-- The event record of a change between Idle (2) and Run (3), by the active Skovlaper (R497, R530). -/
def Machine.State.runRecord (s : State) (n : Nat) : Record :=
  { errorRecord 0x0D 0 13 0 0xFFFF s.tick with
    kind := 0x41, die := if s.activeD then 11 else 9, detail0 := 2, detail1 := n }

/-- No byte of a range lies in a control block (R367). -/
def Machine.State.controlFree (s : State) (a n : Nat) : Prop := ∀ i, i < n → ∀ q off, s.place (wrap52 (a + i)) ≠ .control q off

/-! ## Submissions -/

/-- A header has entered its queue, and its sequencer's (R38, R82, R108); for a stopped domain the crossing before it holds one entry
more (R434), which waits from this tick on where it is the first (R437). No other queue or crossing changes. -/
def Machine.State.Enqueued (s t : State) (q : QKey) (h : Header) (o : Origin) : Prop :=
  let d := s.asleepBefore h.unit h.stream
  t.queue q = s.queue q ++ [.fresh h o] ∧ (∀ k, k ≠ q → t.queue k = s.queue k) ∧
  (inPierQueue q = true → (t.pier (s.queuePier q)).line (queueSeq q) q.stream.val =
    (s.pier (s.queuePier q)).line (queueSeq q) q.stream.val ++ [q]) ∧
  (∀ n, n < 1000 → t.crossHeld.get n = if d.map domainNo = some n then s.crossHeld.get n + 1 else s.crossHeld.get n) ∧
  ∀ n, n < 1000 → t.crossHeld.get (1000 + n) =
    if d.map domainNo = some n ∧ s.crossHeld.get n = 0 then s.tick + 1 else s.crossHeld.get (1000 + n)

/-- A pier without what the entry of a header changes: its sequencers' queues, the start of its idle windows, and a mason core's answer. -/
def Machine.Pier.butQueued (p : Pier) : Pier := { p with masons := [], lines := [], stirred := 0, courseStir := [] }

/-! ## Keystone operations -/

/-- A keystone operation sent (R412, R435, R496): it has arrived at its keystone's pier, which is awake unless its domain has failed, on
one of its 20 requester ports; or it waits on a link of its route whose cycle is being replayed, behind what waits there. In Run no wake makes an
event of the power state (R530). -/
def Machine.State.KeySent (s t : State) (key kind operand : Nat) (answer : TasAnswer) : Prop :=
  let d := keyPier key
  let op := fun (port : Nat) => (⟨key % 32768, port, kind, operand % 2 ^ 32, answer⟩ : KeyOp);
  ((∃ port, port < 20 ∧ (t.pier d).keyArriving = (s.pier d).keyArriving ++ [op port]) ∧ t.linkHeld = s.linkHeld ∧
    (s.deadPier d = false → (t.pier d).awake = true) ∧ (∀ p, p ≠ d → t.pier p = s.pier p) ∧
    { t.pier d with awake := true, bondPos := 0, stirred := 0, keyArriving := [] } =
      { s.pier d with awake := true, bondPos := 0, stirred := 0, keyArriving := [] } ∨
  (∃ i rest port, (s.linkFails.get i ≠ 0 ∨ ∃ x ∈ s.linkHeld, x.link = i) ∧ t.linkHeld = s.linkHeld ++ [⟨i, rest, d, op port⟩]) ∧
    t.piers = s.piers ∧ t.crossHeld = s.crossHeld ∧ t.crossPtr = s.crossPtr) ∧
  (s.powerState = 3 → t.held = s.held ∧ t.counters = s.counters) ∧
  t = { s with
    piers := t.piers, edgeRot := t.edgeRot, linkHeld := t.linkHeld, crossHeld := t.crossHeld, crossPtr := t.crossPtr
    held := t.held, counters := t.counters }

/-! ## What performing a header writes -/

/-- The shares of a header still to run, in ascending pier order (R110). -/
def Machine.QEntry.left (x : QEntry) : List PierId := x.shares.filter fun p => !x.piers.contains p

/-- The head of a queue can be performed as an opcode: it has started, with every share of it (R51, R62, R82); nothing holds it (R284,
R295, R345, R357, R365); each share left has its turn on its courses (R108), a TOPK's once its jobs have been taken (R218), and none
must wait for a table store (R317). -/
def Machine.State.canRun (s : State) (q : QKey) (op : Nat) (x : QEntry) : Prop :=
  s.head q = some x ∧ x.phase = .ready ∧ x.hdr.opcode = op ∧ s.heldBack q x.hdr x.policy x.ops = false ∧ x.shares.Nodup ∧
  (∀ p ∈ x.shares, p ∈ x.begun) ∧
  ∀ p ∈ x.left, s.shareTurn q x.hdr p = true ∧ (s.outside q x.hdr p = true ∨ s.needsTable (s.envAt p q x) = false)

/-- The state and the entry after the first n of its shares. -/
def Machine.State.shares (s : State) (q : QKey) (x : QEntry) (share : State → Env → Out) (n : Nat) : State × QEntry :=
  (x.left.take n).foldl (fun (a : State × QEntry) p => State.runShare share q x a p) (s, x)

/-- The state and the entry after all of them. -/
def Machine.State.allShares (s : State) (q : QKey) (x : QEntry) (share : State → Env → Out) : State × QEntry :=
  s.shares q x share x.left.length

/-- An entry but for what a product right before it has drained for it (R315). -/
def Machine.QEntry.unfused (x : QEntry) : QEntry := { x with fused := [] }

/-- The header performed: memory, poison, records, counters and sequencers' quoins as its shares leave them; its entry has run and
holds what they add to it; every other entry of every queue as before, but that an ACT right behind a product may hold what the product
drained for it (R315); each share has left the sequencers that it stood at (R108). -/
def Machine.State.Performed (s t : State) (q : QKey) (x : QEntry) (share : State → Env → Out) : Prop :=
  let r := s.allShares q x share
  let rest := (s.queue q).tail
  t.mem = r.1.mem ∧ t.poison = r.1.poison ∧ t.counters = r.1.counters ∧ t.free = r.1.free ∧ t.held = r.1.held ∧
  t.quoins = r.1.quoins ∧ t.sounding = r.1.sounding ∧ t.edgeRot = r.1.edgeRot ∧
  t.head q = some { r.2 with phase := .ran } ∧ (t.queue q).tail.map QEntry.unfused = rest.map QEntry.unfused ∧
  (x.hdr.opcode ∉ [1, 2, 3, 4] ∨ (∀ n ∈ rest.head?, n.hdr.opcode ≠ 8) → (t.queue q).tail = rest) ∧
  (∀ k, k ≠ q → t.queue k = s.queue k) ∧
  ∀ p ∈ x.left, s.outside q x.hdr p = false → ∀ c ∈ sharePath q x.hdr,
    (t.pier p).line c x.hdr.stream = ((s.pier p).line c x.hdr.stream).tail

/-- A pier without what the work of a header on its cores and chisel engines changes: caches, runs, draws, flags, jobs, and what its
courses hold of a header that has run. -/
def Machine.Pier.butWork (p : Pier) : Pier :=
  { p.butCaches with
    runs := [], draws := [], fpFlushed := 0, nonfinite := 0, jobs := [], jobCount := 0, walks := [], tiles := [], lines := [] }

/-- A pier without what its trowels, chisel engines and checkpoint change when a U header runs, and where its share stood. -/
def Machine.Pier.butTrowel (p : Pier) : Pier :=
  { p.butCaches with
    fpFlushed := 0, jobs := [], jobCount := 0, trowelDraws := [], applies := [], ckpt := none, ckptPhase := 0, repairing := []
    known := [], lines := [] }

/-- The bytes of an element and of its error term (R119, R120). -/
def Machine.Loc.covers (l : Loc) (a : Nat) : Prop :=
  (∃ i, i < l.size ∧ a = wrap52 (l.addr + i)) ∨ ∃ c, l.comp = some c ∧ ∃ i, i < 2 ∧ a = wrap52 (c + i)

/-- The bytes of a tensor's elements as pier p finds them, by the layout's formula (R122, R140), or as a row operation does (R144). -/
def Machine.Tens.covers (t : Tens) (row : Bool) (p : PierId) (a : Nat) : Prop :=
  ∃ i0 i1 i2 i3 l, i0 < t.e0 ∧ i1 < t.e1 ∧ i2 < t.e2 ∧ i3 < t.e3 ∧
    (if row then t.locRow p i0 i1 i2 i3 else t.loc p i0 i1 i2 i3) = some l ∧ l.covers a

/-- The bytes of a tensor's elements taken as u32 (R208, R210, R214). -/
def Machine.Tens.coversWords (t : Tens) (p : PierId) (a : Nat) : Prop := ({ t with fmt := 9 } : Tens).covers false p a

/-- The bytes that a drain or PACK may write of d: dense elements, blocks at their dense slots and the presence map (R240),
groups with their codes (R243), or the elements that SDDMM's listed blocks and codes select (R237, R238). -/
def Machine.State.destBytes (s : State) (d : Tens) (dest : Dest) (e : Env) (a : Nat) : Prop :=
  match dest with
  | .dense => d.covers false e.p a
  | .packBlocks =>
    (∃ r c, r < d.rows ∧ c < d.cols ∧ (d.blockLoc (r / 16 * d.bc + c / 16) (16 * (r % 16) + c % 16)).covers a) ∨
    ∃ i, i < mapBytes d.br d.bc ∧ a = wrap52 (d.auxT + 64 + 12 * s.rawWord (d.auxT + 4) 4 + i)
  | .packGroups =>
    ∃ g v i1 i2 i3, g < cdiv d.e0 4 ∧ v < 2 ∧ i1 < d.e1 ∧ i2 < d.e2 ∧ i3 < d.e3 ∧
      ((d.slotLoc g v i1 i2 i3).covers a ∨ a = (d.codeAddr g i1 i2 i3).1)
  | .sampleBlocks => ∃ b ∈ (s.scan ⟨e.p, none, false⟩ d false d.br d.bc).blocks, ∃ w, w < 256 ∧ (d.blockLoc b.v w).covers a
  | .sampleGroups =>
    ∃ g v i1 i2 i3, g < cdiv d.e0 4 ∧ v < 2 ∧ i1 < d.e1 ∧ i2 < d.e2 ∧ i3 < d.e3 ∧ (d.slotLoc g v i1 i2 i3).covers a

/-- The bytes that a share of work on cores and chisel engines may write, by its opcode (R56): d, and c where it holds
positions (R208, R210, R214). -/
def Machine.State.shareBytes (s : State) (e : Env) (a : Nat) : Prop :=
  let h := e.h
  let c := e.tC
  let d0 := e.tD
  let d := if d0.sparse then d0.rowMajor else d0
  match h.opcode with
  | 0x05 => d.covers false e.p a
  | 0x12 => ({ d with fmt := e.tA.fmt } : Tens).covers false e.p a
  | 0x06 | 0x07 | 0x08 | 0x0F => d0.covers true e.p a
  | 0x09 => d0.covers true e.p a ∨ refOn h.refC = true ∧ c.coversWords e.p a
  | 0x0A => d.covers true e.p a ∨ c.coversWords e.p a
  | 0x0B =>
    let target := fld h.imm 1 0
    if target = 1 ∧ d0.layout = 4 then s.destBytes d0 .packBlocks e a
    else if target = 2 ∧ d0.layout = 5 then s.destBytes d0 .packGroups e a
    else d.covers false e.p a
  | 0x01 | 0x02 | 0x03 | 0x04 =>
    let pr := (s.product e true).1
    s.destBytes pr.d pr.dest e a ∨ refOn h.refC = true ∧ c.coversWords e.p a
  | _ => False

/-- The bytes of the element of a tensor that belongs to a parameter element, where its pier writes it (R142, R331). -/
def Machine.Tens.elCovers (t : Tens) (kind : Nat) (p : PierId) (x : PEl) (a : Nat) : Prop :=
  t.elIn kind x = true ∧ ∃ l, t.elLocW kind p x = some l ∧ l.covers a

/-- The runtime fields of a tensor's parameter entry (R329). -/
def Machine.State.runtimeBytes (s : State) (p : PierId) (tid a : Nat) : Prop :=
  ∃ x i, s.pentry p tid = some x ∧ i < 16 ∧ a = wrap52 (x.at_ + 48 + i)

/-- The bytes that an UPDATE on a pier's trowels may write (R337, R339, R340): the runtime fields; with apply the parameter and its states in
the buffer written and the gradient's error terms, else the accumulator. -/
def Machine.State.updateBytes (s : State) (e : Env) (a : Nat) : Prop :=
  let d := e.tD
  let u := (s.updStale e (s.pentry e.p d.tid)).1
  s.runtimeBytes e.p d.tid a ∨ ∃ x ∈ (u.paramEls e.p d).1,
    if bitAt e.h.imm 8 = true then
      (d.ver (e.policy + 1)).elCovers d.kind e.p x a ∨
      (∃ i t, i < 3 ∧ e.bind i (e.policy + 1) = some t ∧ t.elCovers d.kind e.p x a) ∨
      (e.tA.elIn d.kind x = true ∧ ∃ l c i, e.tA.elLocW d.kind e.p x = some l ∧ l.comp = some c ∧ i < 2 ∧ a = wrap52 (c + i))
    else ∃ t, e.bind 3 e.policy = some t ∧ t.elCovers d.kind e.p x a

/-- The bytes that R356 may write for a shard: its owner table entry, its elements at any pier, its stored fingerprints. -/
def Machine.State.repairBytes (s : State) (t : Tens) (shard v a : Nat) : Prop :=
  let t := s.reown t
  (∃ i, i < 2 ∧ a = wrap52 (t.ownerAt + 128 + 2 * shard + i)) ∨
  (∃ q x l, x ∈ t.shardEls shard ∧ t.elLoc 0 q x = some l ∧ l.covers a) ∨
  ∃ q x i, s.pentry q t.tid = some x ∧ i < 16 ∧ a = wrap52 (s.fpAt q t x.fpOff shard v + i)

/-- The bytes that R356 may write while the records of an EXPORT or CKPT are compared with the stored fingerprints, one after the other. -/
def Machine.Written.repairs (w : Written) (p : PierId) (v a : Nat) : Prop :=
  ∃ n r t, w.recs[n]? = some r ∧ r.tens = some t ∧ (w.s.checkRecords p v (w.recs.take n)).repairBytes t r.shard v a

/-- The bytes that a share of a U header may write: of PRUNE and REGROW the parameter's runtime fields (R283), of UPDATE what R337 and
R339 name, of EXPORT d's bytes (R358), of CKPT the region in the neighbour's memory (R362), and of the last two what R356 repairs. -/
def Machine.State.trowelBytes (s : State) (e : Env) (a : Nat) : Prop :=
  match e.h.opcode with
  | 0x0C | 0x0D => s.runtimeBytes e.p e.tD.tid a
  | 0x0E => s.updateBytes e a
  | 0x10 => (∃ i, i < (s.ckptRegion e.p).2 ∧ a = wrap52 ((s.ckptRegion e.p).1 + i)) ∨ (s.ckptWrite e).repairs e.p e.policy a
  | 0x11 => (∃ i, i < 64 * e.tD.e0 ∧ a = wrap52 (e.tD.base + e.tD.tw + i)) ∨ (s.exportWrite e).repairs e.p e.policy a
  | _ => False

/-- Performing a header by its command: one that can be performed is performed, and nothing but what its shares work on changes; of
each pier `but` says what stays. -/
def Performs (c : QKey → Instr) (op : Nat) (share : State → Env → Out) (but : Pier → Pier) : Prop :=
  ∀ (q : QKey) (s : State) (x : QEntry), s.canRun q op x →
    ∃ t, exec (c q) s = .next t ∧ s.Performed t q x share ∧ (∀ p, but (t.pier p) = but (s.pier p)) ∧
      t = { s with
        mem := t.mem, poison := t.poison, piers := t.piers, quoins := t.quoins, counters := t.counters, free := t.free
        held := t.held, queues := t.queues, sounding := t.sounding }

/-- The same of a header whose shares send packets to other piers, which wake for them (R22, R435). -/
def PerformsFar (c : QKey → Instr) (op : Nat) (share : State → Env → Out) (but : Pier → Pier) : Prop :=
  ∀ (q : QKey) (s : State) (x : QEntry), s.canRun q op x →
    ∃ t, exec (c q) s = .next t ∧ s.Performed t q x share ∧
      (∀ p, (but (t.pier p)).butWake = (but (s.pier p)).butWake ∧ ((t.pier p).awake = false → (s.pier p).awake = false)) ∧
      t = { s with
        mem := t.mem, poison := t.poison, piers := t.piers, quoins := t.quoins, counters := t.counters, free := t.free
        held := t.held, queues := t.queues, sounding := t.sounding, edgeRot := t.edgeRot, crossHeld := t.crossHeld
        crossPtr := t.crossPtr }

/-- A byte of memory that performing a header changes is one that some share may write. -/
def PerformsWithin (c : QKey → Instr) (op : Nat) (share : State → Env → Out) (bytes : State → Env → Nat → Prop) : Prop :=
  ∀ (q : QKey) (s t : State) (x : QEntry) (a : Nat), s.canRun q op x → exec (c q) s = .next t →
    memGet t.mem a ≠ memGet s.mem a →
    ∃ n p, x.left[n]? = some p ∧ bytes (s.shares q x share n).1 ((s.shares q x share n).1.envAt p q x) a

/-! ## The values that headers write -/

/-- A place in a tensor: its indices along the four dimensions. -/
abbrev Index4 := Nat × Nat × Nat × Nat

/-- Whether a tensor's extents hold a place (R133). -/
def Machine.Tens.has (t : Tens) (i : Index4) : Prop := i.1 < t.e0 ∧ i.2.1 < t.e1 ∧ i.2.2.1 < t.e2 ∧ i.2.2.2 < t.e3

/-- Where a pier finds the element at a place, as a row operation does or as others do (R122, R140, R144). -/
def Machine.Tens.at (t : Tens) (row : Bool) (p : PierId) (i : Index4) : Option Loc :=
  if row then t.locRow p i.1 i.2.1 i.2.2.1 i.2.2.2 else t.loc p i.1 i.2.1 i.2.2.1 i.2.2.2

/-- Whether a pier's share writes the element at a place (R141, R144). -/
def Machine.Tens.mine (t : Tens) (row : Bool) (p : PierId) (i : Index4) : Prop :=
  t.has i ∧ t.owns p (if row then 0 else i.1) i.2.1 i.2.2.1 i.2.2.2 = true

/-- A place by its logical row and column (R124), and the row and column of one. -/
def Machine.Tens.placeOf (t : Tens) (r c i2 i3 : Nat) : Index4 := ((t.idx r c).1, (t.idx r c).2, i2, i3)
def Machine.Tens.rowCol (t : Tens) (i : Index4) : Nat × Nat := if t.swapped then (i.1, i.2.1) else (i.2.1, i.1)

/-- The place that a wrapping read takes for another (R125, R126, R563). -/
def Machine.Tens.wrapped (t : Tens) (i : Index4) : Index4 := (i.1 % t.e0, i.2.1 % t.e1, i.2.2.1 % t.e2, i.2.2.2 % t.e3)

/-- An element's code and its error term's as memory holds them, of the pier's own memory or, for a MOVE, wherever they lie. -/
def Machine.State.codeAt (s : State) (any row : Bool) (p : PierId) (t : Tens) (i : Index4) : Nat × Nat :=
  s.code ⟨p, none, any⟩ t.form (t.at row p i)

/-- Bytes that a write reaches and a read finds: present, of the pier's own memory unless any may be, behind no failed domain, on no
poisoned line. -/
def Machine.State.open (s : State) (any : Bool) (p : PierId) (l : Loc) : Prop :=
  ∀ b, l.covers b → (∃ h, s.memHome b = some h ∧ (any = false → h = p) ∧ s.dead h (lineOf b) = false) ∧ lineOf b ∉ s.poison

/-- The share's elements of d lie in open memory, each at a place of its own, apart from every element of the sources; no bed cache holds
what a source was before (R376), and d is no gradient of an epoch gone by (R340). -/
def Machine.State.writable (s : State) (e : Env) (any row : Bool) (d : Tens) (srcs : List Tens) : Prop :=
  (∀ i, d.mine row e.p i → ∃ l, d.at row e.p i = some l ∧ s.open any e.p l ∧
    (∀ j m, d.mine row e.p j → j ≠ i → d.at row e.p j = some m → l.meets m = false) ∧
    ∀ t ∈ srcs, ∀ j m, t.has j → t.at row e.p j = some m → l.meets m = false) ∧
  (∀ b ∈ (s.pier e.p).bed, b.olds = []) ∧ ∀ h, s.staleGrad h e.epoch d.tid = false

/-- The element of d at a place holds what a conversion gave, and its error term where d has one (R120, R173). -/
def Machine.State.holds (t : State) (any row : Bool) (p : PierId) (d : Tens) (i : Index4) (o : Coded) : Prop :=
  (t.codeAt any row p d i).1 = o.code ∧ (d.dist ≠ none → (t.codeAt any row p d i).2 = o.err)

/-- The opcode's shares in turn: what `post` says of each that is run, from the state before it and the state after it; the command leaves
the memory that the last one leaves. -/
def PerformsValues (c : QKey → Instr) (op : Nat) (share : State → Env → Out) (post : State → State → Env → Prop) : Prop :=
  ∀ (q : QKey) (s : State) (x : QEntry), Sound s → s.canRun q op x → x.bad = none →
    ∃ t, exec (c q) s = .next t ∧ t.mem = (s.allShares q x share).1.mem ∧
      ∀ n p, x.left[n]? = some p → s.outside q x.hdr p = false →
        let u := (s.shares q x share n).1
        post u (s.shares q x share (n + 1)).1 (u.envAt p q x)

/-- A tensor of a copy as its opcode takes it: its elements by its formula (R148, R149). -/
def Machine.Tens.flat (t : Tens) : Tens := if t.sparse then t.rowMajor else t

/-- The place of a that a copy reads for a place of d (R125, R126). -/
def copySource (a d : Tens) (i : Index4) : Index4 :=
  a.placeOf ((d.rowCol i).1 % a.rows) ((d.rowCol i).2 % a.cols) (i.2.2.1 % a.e2) (i.2.2.2 % a.e3)

/-- MOVE (R157): every element of d holds the bits of a's element, and its error term where both have one. -/
def moved (u v : State) (e : Env) : Prop :=
  let a := e.tA.flat
  let d : Tens := { e.tD.flat with fmt := a.fmt }
  a.count ≠ 0 → a.fmt < 10 → u.writable e true false d [a] → ∀ i, d.mine false e.p i →
    v.holds true false e.p d i
      (let c := u.codeAt true false e.p a (copySource a d i); ⟨c.1, c.2, false, false⟩)

/-- TCOPY (R161, R171, R173): every element of d holds its element of a, decoded, times scale_a / scale_d, rounded once into d's format by
the mode that imm names; of two u32 tensors the bits. -/
def copied (u v : State) (e : Env) : Prop :=
  let a := e.tA.flat
  let d := e.tD.flat
  let flush := u.flushBit e.p e.h.stream
  let mode := fld e.h.imm 1 0
  a.count ≠ 0 → u.writable e false false d [a] → ∀ i, d.mine false e.p i →
    let c := u.codeAt false false e.p a (copySource a d i)
    (a.fmt = 9 → d.fmt = 9 → (v.codeAt false false e.p d i).1 = c.1) ∧
    (a.fmt < 9 → d.fmt < 10 → ∃ r : Rnd, (mode = 1 → r = .zero) ∧ (mode ≠ 1 → mode ≠ 2 ∨ d.form.spec = none → r = .even) ∧
      v.holds false false e.p d i (encodeOut d.form r flush false (u.codeAt false false e.p d i).2
        ((vecVal a.form flush c).v.mul (rne32 ((f32 a.scale).div (f32 d.scale))))))

/-- An element of a source as vector-unit work reads it (R160). -/
def Machine.State.vecAt (s : State) (w : Wp) (p : PierId) (t : Tens) (i : Index4) : FV := w.read t (s.codeAt false true p t (t.wrapped i))

/-- The element of a row operation's d at a place holds a result y × rd, rounded once to nearest-even (R160, R173). -/
def Machine.State.rowHolds (u v : State) (e : Env) (d : Tens) (i : Index4) (y : Val) : Prop :=
  v.holds false true e.p d i
    (encodeOut d.form .even (u.flushBit e.p e.h.stream) false (u.codeAt false true e.p d i).2 (y.mul (rne32 (Val.one.div (f32 d.scale)))))

/-- ACT by an elementwise table, not fused (R308, R315): d holds the table's output for a, or a times the derivative's output for b. -/
def activated (u v : State) (e : Env) : Prop :=
  let a := e.tA
  let b := e.tB
  let d := e.tD
  let id := fld e.h.imm 5 0
  let der := bitAt e.h.imm 6
  let w : Wp := ⟨false, u.flushBit e.p e.h.stream⟩
  let val := fun (t : Tens) (i : Index4) => toF32 w.flush (u.vecAt (t.wp w.flush) e.p t i)
  u.fusedFor e = [] → a.count ≠ 0 → a.fmt < 9 → d.fmt < 10 → (der = true → refOn e.h.refB = true ∧ b.count ≠ 0 ∧ b.fmt < 9) →
    u.writable e false true d ([a] ++ if der then [b] else []) → ∀ i, d.mine true e.p i →
    let core := e.rowCore d i.2.1 i.2.2.1 i.2.2.2
    let kind := (u.tabEntry e.p core id).kind
    kind ≠ 2 → kind ≠ 3 →
      u.rowHolds v e d i (if der then (w.mul (val a i) (u.lookup e.p core id w true (val b i)).v).v
        else (u.lookup e.p core id w false (val a i)).v.v)

/-- REDUCE (R210): along its axis a's elements in ascending index are summed, each addition rounded once, or their squares by fused
multiply-adds from +0, or the one that R184 ranks first is taken; d holds the result at index 0 of the axis, and for a maximum or
minimum c's u32 word there holds the winner's index. -/
def reduced (u v : State) (e : Env) : Prop :=
  let a := e.tA
  let c := e.tC
  let d := e.tD
  let kind := fld e.h.imm 1 0
  let axis := fld e.h.imm 3 2
  let w := a.wp (u.flushBit e.p e.h.stream)
  let ranked := kind = 1 ∨ kind = 2
  let withC := refOn e.h.refC = true ∧ ranked
  let wordAt := fun (i : Index4) => c.u32Loc e.p i.1 i.2.1 i.2.2.1 i.2.2.2
  a.count ≠ 0 → a.fmt < 9 → d.fmt < 10 → u.writable e false true d [a] →
    (withC → ∀ i l, c.has i → wordAt i = some l → u.open false e.p l ∧
      (∀ j m, c.has j → j ≠ i → wordAt j = some m → l.meets m = false) ∧ (∀ j m, d.has j → d.at true e.p j = some m → l.meets m = false) ∧
      ∀ j m, a.has j → a.at true e.p j = some m → l.meets m = false) →
    ∀ i, d.mine true e.p i →
      (axis = 0 → i.1 = 0) → (axis = 1 → i.2.1 = 0) → (axis = 2 → i.2.2.1 = 0) → (axis = 3 → i.2.2.2 = 0) →
      let along := fun (j : Nat) => ((if axis = 0 then j else i.1, if axis = 1 then j else i.2.1, if axis = 2 then j else i.2.2.1,
        if axis = 3 then j else i.2.2.2) : Index4)
      let xs := (List.range (if axis = 0 then a.valid else a.ext axis)).map fun j => u.vecAt w e.p a (along j)
      (kind = 0 → u.rowHolds v e d i ((xs.drop 1).foldl w.add (xs.getD 0 .zero)).v) ∧
      (kind = 3 → u.rowHolds v e d i (xs.foldl (fun t x => w.fma x x t) .zero).v) ∧
      (ranked → ∃ n, n < xs.length ∧ u.rowHolds v e d i (xs.getD n .zero).v ∧
        (∀ m, m < xs.length → m ≠ n → beats (decide (kind = 2)) (xs.getD (min m n) .zero).v (xs.getD (max m n) .zero).v = decide (m < n)) ∧
        (withC → c.has i → ∀ l, wordAt i = some l → (v.code ⟨e.p, none, false⟩ .u32 (some l)).1 = n))

/-- The operands of an MMUL as the matrix engine takes them at K position k (R92, R125, R126): of row r of a and of column c of b. -/
def Machine.State.matAt (s : State) (p : PierId) (t : Tens) (r c i2 i3 : Nat) : Val :=
  matVal t.fmt (s.codeAt false false p t (t.placeOf (r % t.rows) (c % t.cols) (i2 % t.e2) (i3 % t.e3))).1

/-- A dense MMUL of one K part (R101, R102, R159, R187 to R197): each element of d holds A × sab, with the prior value added for
accumulate, through the table where there is one, times rd, rounded once into d's format; A is the sum of the products of its row of a and
its column of b, group by group in ascending K. What the walk has handed to the drain was made of the operands that stand there. -/
def multiplied (u v : State) (e : Env) : Prop :=
  let a := e.tA
  let b := e.tB
  let d := e.tD
  let pr := (u.product e true).1
  let K := b.rows
  let G := groupSize (matClass a.fmt) (matClass b.fmt)
  let A := fun (i : Index4) => combined G (u.pier e.p).cfg.spillS K
    ((List.range K).map fun k => u.matAt e.p a (d.rowCol i).1 k i.2.2.1 i.2.2.2)
    ((List.range K).map fun k => some (u.matAt e.p b k (d.rowCol i).2 i.2.2.1 i.2.2.2))
  let accum := bitAt e.h.imm 0
  let act := fld e.h.imm 9 4
  let mode := (u.pier e.p).cfg.drainMode e.h.stream
  a.count ≠ 0 → b.count ≠ 0 → K ≠ 0 → a.sparse = false → b.sparse = false → d.sparse = false → a.fmt < 9 → b.fmt < 9 → d.fmt < 10 →
    bitAt e.h.imm 1 = false → fld e.h.imm 3 2 = 0 → (refOn e.h.refC = true → bitAt e.h.imm 10 = false) →
    (kParts K (matClass b.fmt) e.L).length = 1 → u.writable e false false d [a, b] →
    (∀ pl ∈ pr.plans e, ∀ t ∈ pl.ts, ∀ y st, y < t.rows → u.rowDone e pl t y = some st → ∀ x, x < t.cols →
      combine (stateVals (st.getD x (0, 0))) = A (d.placeOf (pl.g.m0 + t.row0 + y) (pl.g.n0 + t.col0 + x) pl.g.i2 pl.g.i3)) →
    ∀ i, d.mine false e.p i →
      let prior := ((f32 d.scale).mul (vecVal d.form true (u.codeAt false false e.p d i)).v).flush32
      let x := (A i).mul (rne32 ((f32 a.scale).mul (f32 b.scale)))
      let w := rneFlush .s32 (if accum then x.add prior else x)
      ∃ (r : Rnd) (core : Nat), (mode = 1 → r = .zero) ∧ (mode ≠ 1 → mode ≠ 2 ∨ d.form.spec = none → r = .even) ∧
        let y := if act = 0 then w else (u.lookup e.p core act ⟨false, true⟩ false ⟨w, false⟩).v.v
        v.holds false false e.p d i
          (encodeOut d.form r true accum (u.codeAt false false e.p d i).2 (y.mul (rne32 (Val.one.div (f32 d.scale)))))

/-! ## Walks -/

/-- A walk that has gone on as far as it may (R80, R87, R104, R105): tiles leave from its front, rows that have started stand behind those
there, or, of the last link, have gone to the drain; a row of a link that is not the first starts with its state, which has arrived and
is then no longer in the queue. -/
def Machine.Walk.GoesOn (a b : Walk) : Prop :=
  b = { a with items := b.items, next := b.next, arrived := b.arrived, rows := b.rows, done := b.done } ∧
  b.items <:+ a.items ∧ a.rows <+: b.rows ∧ a.done <+: b.done ∧ (∀ r ∈ b.arrived, r ∈ a.arrived) ∧
  (∀ r ∈ a.arrived, r ∈ b.arrived ∨ ∃ y ∈ b.rows ++ b.done, y.item = r.item ∧ y.row = r.row) ∧
  (∀ r ∈ b.rows, r ∈ a.rows ∨ r.item.last = false) ∧ (∀ r ∈ b.done, r ∈ a.done ∨ r.item.last = true) ∧
  ∀ r ∈ b.rows ++ b.done, r ∈ a.rows ++ a.done ∨ r.item.link = 0 ∨ ∃ y ∈ a.arrived, y.item = r.item ∧ y.row = r.row

/-- A course has one walk of a header on a stream. -/
def Machine.Pier.WalksDiffer (p : Pier) : Prop := (p.walks.map fun w => (w.course, w.stream, w.q)).Nodup

/-! ## Records, soundings and departures -/

/-- A record handed to Skovlaper (R498): it joins the first held record that it merges with, or goes behind those held, or is
dropped where 4,096 are held; without the standby supply nothing is held. -/
def Machine.State.Logs (s t : State) (r : Record) : Prop :=
  (s.power.standby = false → t.held = s.held) ∧
  (s.power.standby = true →
    (∃ a h b, s.held = a ++ h :: b ∧ (∀ y ∈ a, y.2.merges r = false) ∧ h.2.merges r = true ∧
      t.held = a ++ (h.1, { h.2 with count := h.2.count + 1 }) :: b) ∨
    ((∀ y ∈ s.held, y.2.merges r = false) ∧ s.held.length < 4096 ∧ t.held = s.held ++ [(s.tick, r)]) ∨
    (∀ y ∈ s.held, y.2.merges r = false) ∧ 4096 ≤ s.held.length ∧ t.held = s.held)

/-- One more in a counter, which stops at all ones (R550). -/
def Machine.State.Counts (s t : State) (reg : Nat) : Prop :=
  t.counters.get reg = min (s.counters.get reg + 1) 0xFFFF_FFFF_FFFF_FFFF

/-- A unit whose sounding starts leaves service at once, where its kind does (R488). -/
def Machine.State.TakenOut (s t : State) (u : SUnit) : Prop :=
  match u with
  | .mortarSet p bank set =>
    let ix := 4096 * bank.val + set.val
    (t.pier p).bypassed ix = true ∧ ∀ l ∈ (t.pier p).mortar, mortIx l.line ≠ ix
  | .chisel p w => bitAt (t.pier p).chiselOut w.val = true ∧ ∀ j ∈ (t.pier p).jobs, j.taken ≠ some w
  | .mason p k => (s.pier p).idleMason ≠ none → ∀ m, (t.pier p).masons[k.val]? = some m → m.saving = some s.tick
  | .gddrInterface p ch => (t.pier p).retrained.get ch.val = s.tick + 1
  | .quoinTrowel q i => bitAt (t.quoin q).out i.val = true
  | _ => True

/-- A unit's sounding starts, counted, and the unit leaves service; one under way notes a margin monitor's trip (R487, R500). A unit that a
spare has replaced is another. -/
def Machine.State.Sounds (s t : State) (u : SUnit) (margin : Bool) : Prop :=
  ((∃ x ∈ s.sounding, x.unit = u ∧ x.old = none) →
    ∃ a x b, s.sounding = a ++ x :: b ∧ x.unit = u ∧ x.old = none ∧ (∀ y ∈ a, y.unit = u → y.old ≠ none) ∧
    t.sounding = a ++ { x with margin := x.margin || margin } :: b) ∧
  ((∀ x ∈ s.sounding, x.unit = u → x.old ≠ none) → t.sounding = s.sounding ++ [⟨u, s.tick, margin, none⟩] ∧
    s.Counts t (skovReg s.activeD 0x28) ∧ s.TakenOut t u)

/-- A pier without what the start of a unit's sounding changes. -/
def Machine.Pier.butOut (u : SUnit) (p : Pier) : Pier :=
  match u with
  | .mortarSet _ _ _ => { p with mortar := [], waysOut := [], checks := [], checkCells := [] }
  | .chisel _ _ => { p with chiselOut := 0, jobs := [] }
  | .mason _ _ => { p with masons := [] }
  | .gddrInterface _ _ => { p with retrained := [] }
  | _ => p

/-- A pier without what the end of a header at it changes: its walks, jobs, its place with the sequencers, and where answers to it would go. -/
def Machine.Pier.butEnded (p : Pier) : Pier :=
  { p with walks := [], jobs := [], applies := [], keyArriving := [], keyDeferred := [], lines := [] }

/-- The counter of an error at a place (R405, R500). -/
def EccPlace.counter (x : EccPlace) (sp : Spot) (corrected : Bool) : Nat :=
  match x with
  | .gddr _ _ | .checkLine _ _ _ => chanReg sp.pier sp.physical (if corrected then 0 else 8)
  | _ => pierCtr sp.pier (if corrected then kSramCorrected else kSramUncorrected)

/-- The line that an uncorrectable error poisons: of a GDDR 7 read that no copy on the spare serves (R387), or a dirty line of the
mortar or a mason L2 (R485). -/
def Machine.State.poisonedBy (s : State) (x : EccPlace) : Option Nat :=
  match x with
  | .gddr p a => if (s.onSpare p (lineOf a)).1 then none else some (lineOf a)
  | .masonL2 _ _ a dirty => if dirty then some (lineOf a) else none
  | .mortar p a =>
    match (s.pier p).mortar.find? (fun l => l.line == lineOf a) with
    | some l => if l.dirty then some (lineOf a) else none
    | none => none
  | _ => none

/-- A port's host departs with its link (R465): the port without link, binding and watches, what was held for it discarded and
counted; its headers, requests and keystone operations run on without it, its update session ends (R526). Nothing else changes. -/
def Machine.State.Departed (s t : State) (p : PortId) : Prop :=
  let pt := t.port p
  let lost := (s.port p).held.length + (s.admits.filter fun x => x.port = p).length
  pt.trainState = 0 ∧ pt.linked = false ∧ pt.bound = false ∧ pt.hostId = 0 ∧ pt.watches = [] ∧ pt.held = [] ∧ pt.sent = (s.port p).sent ∧
  pt.replay = [] ∧ pt.backlog = [] ∧ (∀ r, r ≠ p → t.port r = s.port r) ∧
  (∀ q, t.queue q = (s.queue q).map fun x => { x with origin := x.origin.leave p }) ∧
  t.requests = s.requests.map (fun r => if r.port = p then { r with departed := true } else r) ∧
  t.waitingSubs = s.waitingSubs.map (fun w => w.leave p) ∧
  ((∃ u tag, s.session = some u ∧ u.owner = .port p tag) → t.session = none) ∧
  ((∀ u tag, s.session = some u → u.owner ≠ .port p tag) → t.session = s.session) ∧
  t.admits = s.admits.filter (fun x => x.port ≠ p) ∧ t.linkHeld = s.linkHeld.map (fun x => { x with op := x.op.leave p }) ∧
  (∀ q, t.pier q = { s.pier q with
    keyArriving := (s.pier q).keyArriving.map (·.leave p), keyDeferred := (s.pier q).keyDeferred.map (·.leave p) }) ∧
  t.counters.get (plmbReg p 0x10) = (if lost = 0 then s.counters.get (plmbReg p 0x10)
    else min (s.counters.get (plmbReg p 0x10) + lost) 0xFFFF_FFFF_FFFF_FFFF) ∧
  t = { s with
    ports := t.ports, queues := t.queues, waitingSubs := t.waitingSubs, requests := t.requests, session := t.session
    counters := t.counters, held := t.held, admits := t.admits, linkHeld := t.linkHeld, piers := t.piers }

/-! ## Power and start-up -/

/-- The main regulators off and held off (R509, R511): Standby, no image, nothing queued; GDDR 7, keystones and links gone; what
Skovlaper keeps, the flash devices, logs and sensors as before. -/
def Machine.State.MainOff (s t : State) : Prop :=
  t.power.regulators = false ∧ t.power.heldDown = true ∧ t.power.standby = s.power.standby ∧ t.func.state = 1 ∧
  t.func.loaded = false ∧ t.func.slot = 0 ∧ t.func.stopStep = 0 ∧ t.queues = [] ∧ t.waitingSubs = [] ∧ t.sounding = [] ∧
  (∀ a, a < 0x1000_0000_0000 → memGet t.mem a = 0) ∧ (∀ q, (t.cxlPort q).registered = false) ∧
  (∀ p, (t.pier p).awake = false ∧ (∀ k, (t.pier p).keyAt k = 0) ∧ (t.pier p).cfg = PierCfg.reset ∧ (t.pier p).coreMap = (s.pier p).coreMap ∧
    (t.pier p).courseMap = (s.pier p).courseMap ∧ (t.pier p).keySpare = (s.pier p).keySpare ∧ (t.pier p).failed = (s.pier p).failed) ∧
  (∀ p, (t.port p).linked = false ∧ (t.port p).bound = false ∧ (t.port p).trainState = 0 ∧ (t.port p).waits = true) ∧
  t = { s with
    mem := t.mem, poison := t.poison, piers := t.piers, quoins := t.quoins, cxl := t.cxl, ports := t.ports, counters := t.counters
    queues := [], waitingSubs := [], stepBase := 0, stepDone := none, uRan := [], linkFails := [], groupFails := []
    linkCycles := [], testing := [], edgeRot := [], linkKept := [], linkHeld := [], crossHeld := [], crossPtr := [], sounding := []
    promises := [], accepts := [], admits := [], admitRot := 0, portRot := 0, unsent := t.unsent, func := t.func
    power := t.power, requests := t.requests, session := t.session, held := t.held, smbus := t.smbus }

/-- An image of a slot whose check passed is loaded, waiting for CXL windows or running, or there is none (R469, R470): a running
image's piers are awake with epoch 0, its policy base and every keystone 0. -/
def Machine.State.Started (s t : State) : Prop :=
  (t.func.state = 6 ∧ t.func.loaded = false ∧ t.func.slot = 0 ∨
    (t.func.state = 2 ∨ t.func.state = 3) ∧ t.func.loaded = true ∧
      (t.func.slot = 1 ∧ t.func.checkA = 1 ∨ t.func.slot = 2 ∧ t.func.checkB = 1)) ∧
  (∀ p, (t.pier p).awake = true) ∧
  (t.func.state = 3 → t.waitingSubs.all (fun w => w.origin == .image) = true ∧
    ∀ p, (t.pier p).epoch = 0 ∧ (t.pier p).policy = t.func.policyBase ∧ ∀ k, (t.pier p).keyAt k = 0) ∧
  t = { s with
    mem := t.mem, poison := t.poison, piers := t.piers, quoins := t.quoins, ports := t.ports, counters := t.counters
    held := t.held, queues := t.queues, waitingSubs := t.waitingSubs, func := t.func, power := t.power, promises := t.promises
    requests := t.requests, stepBase := t.stepBase, stepDone := t.stepDone, uRan := t.uRan, crossHeld := t.crossHeld
    linkHeld := t.linkHeld, accepts := t.accepts, smbus := t.smbus, free := t.free, edgeRot := t.edgeRot
    unsent := t.unsent }

/-- The supplies and Skovlaper permit Idle (R511, R534, R535). -/
def Machine.State.mayIdle (s : State) : Prop :=
  s.power.standby = true ∧ s.func.state = 1 ∧ s.power.main = true ∧ s.power.shortPin = true ∧ s.power.pwrDis = false ∧
  s.power.heldDown = false ∧ s.power.regulators = false ∧ s.sensorLevel.get 64 ≠ 3

end Sys2Proof
end

