-- ==== Sys2Proof/Certificates/Slice0/Obligations.lean ====
section
/-! DEFINITION. The statements for the provers, by subject. Hypotheses name the conditions under which the manual's rule has its
effect; conclusions give the state that the command answers, and what it leaves as it was. -/

open Sys2Proof Sys2Proof.Machine

/-! ## The block as a whole -/

/-- A step performs the command at the front of the queue over the rest of it. -/
def Obligations.step_runs_front : Prop :=
  ∀ (c : Instr) (rest : List Instr) (s : State), step { s with pending := c :: rest } = exec c { s with pending := rest }

/-- The model's choice (log 1): with no command waiting a step is one pilot tick of 26 course cycles (R7, R34), for an awake pier
26 bond positions on (R293); while the standby supply is absent nothing happens. In the states that neither start nor stop an
image, with no request to decide (R421), the walks of a pier go on where it comes to another slot (R80), what the idle windows count is
noted (R432, R433), the stall counters of quoins with a full queue count (R349), and nothing else changes. SLOT_CHANGE (R293, R294): an
awake pier stands at the first cycle of the next of its 64 slots of 256 cycles. Of its walks, those of the new slot's stream alone go on;
nothing else changes. Of a pier that sleeps nothing changes. Completes: SLOT_CHANGE. -/
def Obligations.pilot_and_slots : Prop :=
  (∀ s : State, s.pending = [] →
    (s.power.standby = false → step s = .next s) ∧
    (s.power.standby = true → s.func.state ≠ 2 → s.func.state ≠ 4 → s.admits = [] →
      ∃ t, step s = .next t ∧ t.tick = (s.tick + 1) % 2 ^ 64 ∧
        (∀ p, let n := if (s.pier p).awake then ((s.pier p).bondPos + 26) % 16384 else (s.pier p).bondPos
          (t.pier p).bondPos = n ∧ ((s.pier p).bondPos / 256 = n / 256 → (t.pier p).walks = (s.pier p).walks) ∧
          ((s.pier p).WalksDiffer → List.Forall₂ Walk.GoesOn (s.pier p).walks (t.pier p).walks) ∧
          { t.pier p with bondPos := 0, walks := [], stirred := 0, courseStir := [] } =
            { s.pier p with bondPos := 0, walks := [], stirred := 0, courseStir := [] }) ∧
        (∀ reg, (∀ q, reg ≠ trwReg q 0x18) → t.counters.get reg = s.counters.get reg) ∧
        t = { s with tick := t.tick, piers := t.piers, counters := t.counters })) ∧
  ∀ (p : PierId) (s : State),
    ((s.pier p).awake = true → ∃ n ws, exec (.slotChange p) s = .next (s.updPier p fun pr => { pr with bondPos := n, walks := ws }) ∧
      n % 256 = 0 ∧ n / 256 = ((s.pier p).bondPos / 256 + 1) % 64 ∧
      ((s.pier p).WalksDiffer → List.Forall₂ (fun (a b : Walk) => a.GoesOn b ∧ ((s.pier p).cfg.slot (n / 256) ≠ a.stream → b = a))
        (s.pier p).walks ws)) ∧
    ((s.pier p).awake = false → exec (.slotChange p) s = .next s)

/-- What reset leaves (the module as shipped; the values that no rule gives are the model's choice, log 2 and 3): no supply, no
image, no memory byte but zero; the Skovlaper of quoin B active (R502); the registers with reset values in the manual's tables at
these. -/
def Obligations.reset_state : Prop :=
  State.reset.pending = [] ∧ State.reset.power.standby = false ∧ State.reset.power.regulators = false ∧
  State.reset.func.state = 0 ∧ State.reset.func.loaded = false ∧ State.reset.queues = [] ∧ State.reset.requests = [] ∧
  (State.reset.skov false).active = true ∧ (State.reset.skov true).active = false ∧
  (∀ a, memGet State.reset.mem a = 0) ∧ (∀ reg, State.reset.counters.get reg = 0) ∧
  ∀ p, (State.reset.pier p).awake = false ∧ (State.reset.pier p).chanMap = 0x1AC688 ∧ (State.reset.pier p).cfg.spill = 12 ∧
    (State.reset.pier p).cfg.predAudit = 6 ∧ (State.reset.pier p).cfg.linkShare = 0x08080820 ∧
    (State.reset.pier p).cfg.sleep = 0xC3500010 ∧ (State.reset.pier p).cfg.routine = 1 ∧
    (State.reset.pier p).cfg.bedSplit = 0x15 ∧ (State.reset.pier p).spareStatus = 0 ∧
    ∀ k, (State.reset.pier p).keyAt k = 0

/-- Reset is a sound state. -/
def Obligations.reset_sound : Prop := Sound State.reset

/-- From every sound state every step gives a sound state: memory stays canonical, at most 4,096 records are held (R498), exactly
one Skovlaper is active (R502), the function state and slot stay in range (R467, R472), the main regulators are on only with the
standby supply (R511), and the pilot count stays 64 bits wide (R7). -/
def Obligations.step_sound : Prop := ∀ s t, Sound s → step s = .next t → Sound t

/-- No command faults or is refused, and none touches the queue of the commands behind it. That an event whose condition does not
hold changes nothing, and so stops nothing, is the model's choice (log 11). -/
def Obligations.commands_complete : Prop := ∀ (c : Instr) (s : State), ∃ t, exec c s = .next t ∧ t.pending = s.pending

/-- Only the update commands, and flits, which carry them, change the flash devices (R512, R526): every other command, and a
pilot tick, leaves every byte of both as it was. -/
def Obligations.flash_kept : Prop :=
  (∀ c s t, flashCommand c = false → exec c s = .next t → t.flash0 = s.flash0 ∧ t.flash1 = s.flash1) ∧
  ∀ s t, s.pending = [] → step s = .next t → t.flash0 = s.flash0 ∧ t.flash1 = s.flash1

/-! ## Slots, tiles and rows of a running product -/

/-- STATIONARY_TILE_LOADED (R86, R87, R106, R229, R233): the next tile of the walk that a course runs on a stream, whose scan has
closed, whose turn it is and for which a buffer is free, is in that buffer, alone in it, a 2-of-4 tile's codes from 32 KiB; one that
may not be loaded changes nothing. CORBEL_STATE_ARRIVAL (R82, R104, R105): the state of the next row that the link before has
finished leaves that link for this one's queue, of 256 elements. LIST_SCAN_CLOSE (R233): the K range of the tile that waits, or else
the next block row, has closed. After each the walks of the pier go on, and nothing else changes. The model's readings in it:
log 12. Completes: STATIONARY_TILE_LOADED, CORBEL_STATE_ARRIVAL, LIST_SCAN_CLOSE. -/
def Obligations.walk_events : Prop :=
  (∀ (c : CourseId) (stream : Fin 3) (s : State),
    let p := s.pier c.pier
    let here := p.walkAt c.course.val stream.val
    (here = none → exec (.stationaryTileLoaded c stream) s = .next s) ∧
    ∀ w i, here = some w → p.nextLoad w = some i →
      (p.mayIssue w i = false ∨ p.inOrder w i = false → exec (.stationaryTileLoaded c stream) s = .next s) ∧
      ∀ b, p.mayIssue w i = true → p.inOrder w i = true → p.bufferFor c.course.val stream.val = some b →
        ∃ ts ws n, exec (.stationaryTileLoaded c stream) s = .next (s.updPier c.pier fun pr => { pr with tiles := ts, walks := ws }) ∧
          (let tile : TileBuf := ⟨w.course, b, w.stream, n, w.q, i, if i.codes = 0 then 0 else 32768, s.loadVals c.pier w i⟩;
            b ∈ p.cfg.buffersOf stream.val ∧ tile ∈ ts ∧ (∀ x ∈ ts, x.course = w.course → x.buf = b → x = tile) ∧
            ∀ x ∈ p.tiles, ¬(x.course = w.course ∧ x.buf = b) → x ∈ ts) ∧
          (p.WalksDiffer → List.Forall₂ Walk.GoesOn p.walks ws)) ∧
  (∀ (c : CourseId) (stream : Fin 3) (row : Nat) (s : State),
    let p := s.pier c.pier
    let here := p.walkAt c.course.val stream.val
    (∃ ws, exec (.corbelStateArrival c stream row) s = .next (s.updPier c.pier fun pr => { pr with walks := ws })) ∧
    (here = none → exec (.corbelStateArrival c stream row) s = .next s) ∧
    ∀ w i x r, here = some w → w.items.find? (fun i => i.link != 0 && w.arrivals i < i.rows) = some i → i.prev ≠ w.course →
      p.walks.find? (fun x => x.course == i.prev && x.stream == stream.val && x.q == w.q) = some x →
      (let mine := fun (y : RowState) => y.item.prod == i.prod && y.item.round == i.round && y.item.chain == i.chain &&
          y.item.link + 1 == i.link && y.row == row;
        (w.arrivals i ≠ row ∨ 256 < (w.arrived.length + 1) * i.width → exec (.corbelStateArrival c stream row) s = .next s) ∧
        (x.rows.find? mine = some r → w.arrivals i = row → (w.arrived.length + 1) * i.width ≤ 256 → p.WalksDiffer →
          ∃ ws, exec (.corbelStateArrival c stream row) s = .next (s.updPier c.pier fun pr => { pr with walks := ws }) ∧
            List.Forall₂ Walk.GoesOn (p.walks.map fun (y : Walk) =>
              if y = w then { w with arrived := w.arrived ++ [{ r with item := i }] }
              else if y = x then { x with rows := x.rows.filter fun z => !mine z } else y) ws))) ∧
  ∀ (c : CourseId) (stream : Fin 3) (s : State),
    let p := s.pier c.pier
    let here := p.walkAt c.course.val stream.val
    (here = none → exec (.listScanClose c stream) s = .next s) ∧
    ∀ w, here = some w → ∃ ws, exec (.listScanClose c stream) s = .next (s.updPier c.pier fun pr => { pr with walks := ws }) ∧
      (p.WalksDiffer → List.Forall₂ Walk.GoesOn (p.walks.map fun (y : Walk) =>
        if y = w then
          if ∃ i, p.nextLoad w = some i ∧ w.needTile = true ∧ w.ranges ≤ i.part then { w with ranges := w.ranges + 1 }
          else if w.needBand = true then { w with bands := w.bands + 1 } else w
        else y) ws)

/-! ## Number formats -/

/-- What the codes of the seven floating-point formats are worth (R150): by sign, exp and mant field, the number of a normal code
and of one whose exp field is 0, and the infinities and NaNs of each format. -/
def Obligations.code_values : Prop :=
  ∀ (f : Fmt) (ebits m bias : Nat), (f, ebits, m, bias) ∈
      [(Fmt.fp4, 2, 1, 1), (Fmt.fp8a, 4, 3, 7), (Fmt.fp8b, 5, 2, 15), (Fmt.bf16, 8, 7, 127), (Fmt.fp16, 5, 10, 15),
        (Fmt.fp32, 8, 23, 127), (Fmt.fp64, 11, 52, 1023)] →
    f.bits = 1 + ebits + m ∧
    ∀ (sign : Bool) (exp mant : Nat), exp < 2 ^ ebits → mant < 2 ^ m →
      let v := decodeCode f ((b2n sign * 2 ^ ebits + exp) * 2 ^ m + mant)
      let signed := fun (x : ℚ) => (-1 : ℚ) ^ b2n sign * x
      let special := exp + 1 = 2 ^ ebits ∧ f ≠ .fp4 ∧ (f = .fp8a → mant = 7)
      (exp = 0 → v.rat = some (signed ((2 : ℚ) ^ (1 - (bias : Int)) * (mant / 2 ^ m)))) ∧
      (exp ≠ 0 → ¬special → v.rat = some (signed ((2 : ℚ) ^ ((exp : Int) - bias) * (1 + mant / 2 ^ m)))) ∧
      (special → v = if f ≠ .fp8a ∧ mant = 0 then .inf sign else .nan) ∧ (v ≠ .nan → v.sign = sign)

/-- Rounding of a finite value into a floating-point format (R168), subnormals kept: nearest-even, up to the format's largest
finite magnitude, gives a value that no other of the format is nearer than, and of two as near the one whose lowest mant bit
is 0; toward zero gives, with the value's sign, the greatest magnitude of the format that is not above the value's. Into int8
(R170) a value is truncated toward zero and clamped into −128 to 127, and either zero gives code 0. -/
def Obligations.rounding : Prop :=
  (∀ (f : Fmt) (sp : FpSpec) (s : Bool) (m : Nat) (e : Int), f.spec = some sp →
    let x : ℚ := (if s then -1 else 1) * m * (2 : ℚ) ^ e
    let even := (convert f .even false (.fin s m e)).code
    let down := (convert f .zero false (.fin s m e)).code
    let holds := fun (y : ℚ) => ∃ c, c < 2 ^ f.bits ∧ (decodeCode f c).rat = some y;
    ((∃ y, holds y ∧ |x| ≤ |y|) → even < 2 ^ f.bits ∧ (decodeCode f even).sign = s ∧
      ∃ w, (decodeCode f even).rat = some w ∧ ∀ y, holds y → |w - x| ≤ |y - x| ∧ (|w - x| = |y - x| → y ≠ w → even % 2 = 0)) ∧
    down < 2 ^ f.bits ∧ (decodeCode f down).sign = s ∧
      ∃ w, (decodeCode f down).rat = some w ∧ |w| ≤ |x| ∧ ∀ y, holds y → |y| ≤ |x| → |y| ≤ |w|) ∧
  ∀ (r : Rnd) (flush s : Bool) (m : Nat) (e : Int),
    let x : ℚ := (if s then -1 else 1) * m * (2 : ℚ) ^ e
    let whole : Int := if s then -⌊|x|⌋ else ⌊|x|⌋
    ((convert .int8 r flush (.fin s m e)).code : Int) = max (-128) (min 127 whole) % 256 ∧
    (m = 0 → (convert .int8 r flush (.fin s m e)).code = 0)

/-! ## Headers performed -/

/-- MMUL, SPMM, SPMMT and SDDMM performed (R101, R231, R237): every pier's share of the product runs, and the walks of its courses are
over on the piers that ran it. That the shares that may run do so in one command, pier after pier, is the model's choice (log
12). Completes: MMUL, SPMM, SPMMT, SDDMM. -/
def Obligations.products_performed : Prop :=
  Performs .mmul 0x01 State.productShare Pier.butWork ∧ Performs .spmm 0x02 State.productShare Pier.butWork ∧
  Performs .spmmt 0x03 State.productShare Pier.butWork ∧ Performs .sddmm 0x04 State.productShare Pier.butWork ∧
  ∀ (q : QKey) (s t : State) (x : QEntry), (s.canRun q 1 x ∧ exec (.mmul q) s = .next t ∨ s.canRun q 2 x ∧ exec (.spmm q) s = .next t ∨
      s.canRun q 3 x ∧ exec (.spmmt q) s = .next t ∨ s.canRun q 4 x ∧ exec (.sddmm q) s = .next t) →
    ∀ p ∈ x.left, ∀ w ∈ (t.pier p).walks, w.q ≠ q

/-- Work on the vector units and chisel engines, and copies, performed, share after share (log 12): TCOPY (R161), ROWNORM (R562),
ROWSOFTMAX (R561), ACT (R308), REDUCE (R210), PACK (R248), DMASK (R319), TOPK (R214), whose jobs have all been taken (R218), and MOVE
(R394), which reads at its source's home (R378, R394), which wakes for it (R435). Completes: TCOPY, ROWNORM, ROWSOFTMAX, ACT,
REDUCE, TOPK, PACK, DMASK, MOVE. -/
def Obligations.rows_performed : Prop :=
  Performs .tcopy 0x05 State.tcopyShare Pier.butWork ∧ Performs .rownorm 0x06 State.rownormShare Pier.butWork ∧
  Performs .rowsoftmax 0x07 State.rowsoftmaxShare Pier.butWork ∧ Performs .act 0x08 State.actShare Pier.butWork ∧
  Performs .reduce 0x09 State.reduceShare Pier.butWork ∧ Performs .topk 0x0A State.topkShare Pier.butWork ∧
  Performs .pack 0x0B State.packShare Pier.butWork ∧ Performs .dmask 0x0F State.dmaskShare Pier.butWork ∧
  PerformsFar .move 0x12 State.moveShare Pier.butWork

/-- U headers performed: PRUNE (R268), REGROW (R272), UPDATE (R339, R349), EXPORT (R358), and CKPT (R362), which writes to its
neighbour's memory, which wakes for it (R36), as piers do for the repairs of R356. That a header's shares run in one command, pier after
pier, is the model's choice (log 12). Completes: PRUNE, REGROW, UPDATE, CKPT, EXPORT. -/
def Obligations.trowels_performed : Prop :=
  Performs .prune 0x0C State.pruneShare Pier.butTrowel ∧ Performs .regrow 0x0D State.regrowShare Pier.butTrowel ∧
  Performs .update 0x0E State.updateShare Pier.butTrowel ∧ PerformsFar .ckpt 0x10 State.ckptShare Pier.butTrowel ∧
  PerformsFar .exportShards 0x11 State.exportShare Pier.butTrowel

/-- The values that TCOPY (R161, R171), MOVE (R157), ACT by an elementwise table (R308) and REDUCE (R210) write: what each element of d holds
after a share, in terms of a's elements before it, where d's elements lie apart from them and from one another. Completes: TCOPY, MOVE,
ACT, REDUCE. -/
def Obligations.vector_values : Prop :=
  PerformsValues .tcopy 0x05 State.tcopyShare copied ∧ PerformsValues .move 0x12 State.moveShare moved ∧
  PerformsValues .act 0x08 State.actShare activated ∧ PerformsValues .reduce 0x09 State.reduceShare reduced

/-- The values that MMUL writes (R101, R159): each element of d holds the drain's conversion of A, the sum of the products of its row of a
and its column of b. Within one K-group A is the exact sum of the products, those below 2^−126 as zero, rounded once to fp32 by
nearest-even (R188, R189, R196). Completes: MMUL. -/
def Obligations.product_values : Prop :=
  PerformsValues .mmul 0x01 State.productShare multiplied ∧
  ∀ (G S : Nat) (xs ys : List ℚ) (as bs : List Val) (v : Val), as.length ≤ G → as.map Val.rat = xs.map some → bs.map Val.rat = ys.map some →
    as.length = bs.length →
    v.rat = some (((xs.zip ys).map fun z => if |z.1 * z.2| < (2 : ℚ) ^ (-126 : Int) then 0 else z.1 * z.2).sum) →
    (combined G S as.length as (bs.map some)).rat = (decodeCode .fp32 (convert .fp32 .even true v).code).rat

/-- The memory that performing a header changes: with the shares run in ascending pier order (log 12), a byte changes only if some
share may write it, that is, if it lies in an element of d as that share reads d's descriptor, in d's position codes or presence
map, or in the positions that c takes (R110, R121, R122, R140, R144); of a U header, in what its trowels write (R283, R337, R339, R358,
R362) or R356 repairs. Every other byte of memory is as before. -/
def Obligations.performed_memory : Prop :=
  (PerformsWithin .mmul 0x01 State.productShare State.shareBytes ∧ PerformsWithin .spmm 0x02 State.productShare State.shareBytes ∧
    PerformsWithin .spmmt 0x03 State.productShare State.shareBytes ∧ PerformsWithin .sddmm 0x04 State.productShare State.shareBytes ∧
    PerformsWithin .tcopy 0x05 State.tcopyShare State.shareBytes ∧ PerformsWithin .rownorm 0x06 State.rownormShare State.shareBytes ∧
    PerformsWithin .rowsoftmax 0x07 State.rowsoftmaxShare State.shareBytes ∧ PerformsWithin .act 0x08 State.actShare State.shareBytes ∧
    PerformsWithin .reduce 0x09 State.reduceShare State.shareBytes ∧ PerformsWithin .topk 0x0A State.topkShare State.shareBytes ∧
    PerformsWithin .pack 0x0B State.packShare State.shareBytes ∧ PerformsWithin .dmask 0x0F State.dmaskShare State.shareBytes ∧
    PerformsWithin .move 0x12 State.moveShare State.shareBytes) ∧
  PerformsWithin .prune 0x0C State.pruneShare State.trowelBytes ∧ PerformsWithin .regrow 0x0D State.regrowShare State.trowelBytes ∧
  PerformsWithin .update 0x0E State.updateShare State.trowelBytes ∧ PerformsWithin .ckpt 0x10 State.ckptShare State.trowelBytes ∧
  PerformsWithin .exportShards 0x11 State.exportShare State.trowelBytes

/-- R317: a product or ACT of which every share left needs a store that is not available on a core that evaluates its table, with no
fallback, is not performed; its header waits, and nothing else changes. TABLE_STORE_AVAILABLE lets it go on once no share left needs
one. TABLE_STORE_LOAD (R305, R314) makes the 32 KiB of a core's store those of the pier's table block, read as zero where that is homed
elsewhere, unless the store is being sounded, its course stands or no image is loaded (R34). The model's readings in it: logs 47 and 68. Completes:
TABLE_STORE_AVAILABLE, TABLE_STORE_LOAD. -/
def Obligations.table_stores : Prop :=
  (∀ (q : QKey) (s : State) (x : QEntry) (c : QKey → Instr) (op : Nat),
    (c, op) ∈ [(Instr.mmul, 1), (Instr.spmm, 2), (Instr.spmmt, 3), (Instr.act, 8)] →
    s.head q = some x → x.phase = .ready → x.hdr.opcode = op → s.heldBack q x.hdr x.policy x.ops = false →
    (∀ p ∈ x.shares, p ∈ x.begun) → x.left ≠ [] →
    (∀ p ∈ x.left, s.outside q x.hdr p = false ∧ s.shareTurn q x.hdr p = true ∧ s.needsTable (s.envAt p q x) = true) →
    exec (c q) s = .next (s.setQueue q ({ x with phase := .table } :: (s.queue q).tail))) ∧
  (∀ (q : QKey) (s : State) (x : QEntry), s.head q = some x → x.phase = .table →
    let short := ∃ p ∈ x.left, p ∈ x.begun ∧ s.needsTable (s.envAt p q x) = true;
    (short → exec (.tableStoreAvailable q) s = .next s) ∧
    (¬short → exec (.tableStoreAvailable q) s = .next (s.setQueue q ({ x with phase := .ready } :: (s.queue q).tail)))) ∧
  ∀ (c : CoreId) (s : State), Sound s →
    let tested := ∃ x ∈ s.sounding, x.old = none ∧ (x.unit = .core c ∨ x.unit = .course ⟨c.pier, c.course⟩);
    (s.func.loaded = false ∨ s.courseRuns ⟨c.pier, c.course⟩ = false ∨ tested → exec (.tableStoreLoad c) s = .next s) ∧
    (s.func.loaded = true → s.courseRuns ⟨c.pier, c.course⟩ = true → ¬tested →
      ∃ st, exec (.tableStoreLoad c) s = .next (s.updPier c.pier fun pr => { pr with stores := st }) ∧
        (∀ x ∈ (s.pier c.pier).stores, x.core ≠ coreNo c → x ∈ st) ∧
        ∃ bs, (⟨coreNo c, true, bs⟩ : TableStore) ∈ st ∧ (∀ x ∈ st, x.core = coreNo c → x = ⟨coreNo c, true, bs⟩) ∧
          ∀ i, i < 32768 → memGet bs i =
            let a := (s.pier c.pier).cfg.tableAt + i
            if s.memHome a = some c.pier then memGet s.mem a else 0)

/-- WAIT has no work beyond its header's wait and invalidation (R56): started, it has run, whatever its unit. SIGNAL (R50, R53)
with a test-and-set sends it to its keystone, and awaits the prior value, which goes to d where d is given; any other SIGNAL has run,
and its signal is sent on completion. Of a G header of the module a pier outside the class's runs no share, counted and ended in error
(R62), while the test-and-set is applied all the same (R63). A share that ran has left the pier's sequencer (R108). The model's readings
in it: log 14. Completes: SIGNAL, WAIT. -/
def Obligations.signal_and_wait : Prop :=
  (∀ (q : QKey) (s : State) (x : QEntry), s.canRun q 0x14 x → unitLevel q.unit.toNat ≤ 3 ∨ x.left = [] →
    exec (.wait q) s = .next (s.setQueue q ({ x with phase := .ran, piers := x.piers ++ x.left } :: (s.queue q).tail))) ∧
  ∀ (q : QKey) (s : State) (x : QEntry), s.head q = some x → x.phase = .ready → x.hdr.opcode = 0x13 →
    s.heldBack q x.hdr x.policy x.ops = false → x.shares.Nodup → (∀ p ∈ x.shares, p ∈ x.begun ∧ s.shareTurn q x.hdr p = true) →
    let left := fun (u : State) (st : State) => (∀ k, k ≠ q → u.queue k = s.queue k) ∧
      (∀ p ∈ x.shares, s.outside q x.hdr p = false → ∀ c ∈ sharePath q x.hdr,
        (u.pier p).line c x.hdr.stream = ((s.pier p).line c x.hdr.stream).tail) ∧
      (∀ p, { u.pier p with lines := [] } = { s.pier p with lines := [] }) ∧ u = { st with queues := u.queues, piers := u.piers };
    (¬(x.hdr.sigEn = true ∧ x.hdr.sigOp = 2) → ∃ t, exec (.signal q) s = .next t ∧ left t s ∧
      t.queue q = { x with phase := .ran, piers := x.shares } :: (s.queue q).tail) ∧
    (x.hdr.sigEn = true → x.hdr.sigOp = 2 → (∀ p ∈ x.shares, s.outside q x.hdr p = false) →
      ∃ u t : State, exec (.signal q) s = .next t ∧ left u s ∧
        u.queue q = { x with phase := .ran, jobs := 1, piers := x.shares } :: (s.queue q).tail ∧
        u.KeySent t x.hdr.sigKey 2 x.hdr.sigOperand (if refOn x.hdr.refD then .element (x.ops.getD 0 .zero) q else .signal q)) ∧
    ∀ p, x.hdr.sigEn = true → x.hdr.sigOp = 2 → x.shares = [p] → s.outside q x.hdr p = true →
      ∃ u t : State, exec (.signal q) s = .next t ∧
        u.queue q = { x with phase := .ran, jobs := 1, piers := [p], status := 1 } :: (s.queue q).tail ∧
        (∀ k, k ≠ q → u.queue k = s.queue k) ∧ (∀ r, { u.pier r with lines := [] } = { s.pier r with lines := [] }) ∧
        u = { s.headerAnomaly p x.hdr with queues := u.queues, piers := u.piers } ∧
        u.KeySent t x.hdr.sigKey 2 x.hdr.sigOperand (.signal q)

/-! ## From submission to completion -/

/-- HEADER_DECODE (R51, R52, R62, R63, R108, R434): before a stopped domain, before its sequencer has come to it, and while STOP holds the
queues (R478), the head stays as it is. A malformed head is counted and recorded, and once its wait is met has run, with status 1 and no
work. A head whose wait is not met waits at the head; one that is held (R284, R295, R345, R357, R365), or whose course has failed and
waits for its exchange (R486), has its wait met and stays; one of a pier whose mortar domain has failed ends with an error record (R438).
A header all of whose shares have begun, each in every queue of its way, stays as it is. The model's readings in it: log 20. -/
def Obligations.header_decoded : Prop :=
  ∀ (q : QKey) (s : State) (x : QEntry), s.head q = some x →
    let p := s.queuePier q
    let h := x.hdr
    let v := (s.pier p).policy
    let out := fun (u : State) (y : QEntry) => exec (.headerDecode q) s = .next (u.setQueue q (y :: (s.queue q).tail))
    (s.holding = true → exec (.headerDecode q) s = .next s) ∧
    (s.inTurn q = false → exec (.headerDecode q) s = .next s) ∧
    (s.unitFailed h = false → s.asleepBefore h.unit h.stream ≠ none → exec (.headerDecode q) s = .next s) ∧
    (x.phase = .ready → (∀ p ∈ x.shares, p ∈ x.begun ∧ (p ∈ x.piers ∨ s.outside q h p = true ∨
      ∀ c ∈ sharePath q h, q ∈ (s.pier p).line c h.stream)) → exec (.headerDecode q) s = .next s) ∧
    (s.holding = false → s.inTurn q = true → s.asleepBefore h.unit h.stream = none →
      (x.phase = .queued → s.malformed h x.origin p = false → s.headerMet h = false →
        out s { x with phase := .waiting, malformed := false }) ∧
      (x.phase = .queued → s.malformed h x.origin p = true → s.headerMet h = false →
        out (s.headerAnomaly p h) { x with phase := .waiting, malformed := true }) ∧
      (x.phase = .queued → s.malformed h x.origin p = true → s.headerMet h = true → h.waitInval = false →
        out (s.headerAnomaly p h) { x with phase := .ran, malformed := true, status := 1 }) ∧
      (x.phase = .queued → s.malformed h x.origin p = false → s.headerMet h = true →
        s.heldBack q h v (s.readOps h v) = true ∨ s.unitFailed h = false ∧ s.courseFailed h = true →
        out s { x with phase := .met, malformed := false }) ∧
      (x.phase = .queued → s.malformed h x.origin p = false → s.headerMet h = true → s.heldBack q h v (s.readOps h v) = false →
        h.waitInval = false → s.unitFailed h = true →
        out (s.log { hdrRecord s p h 0x0A 3 with detail0 := h.w0.toNat })
          { x with phase := .ran, malformed := true, status := 1, jobs := 0 })) ∧
    (s.headerAnomaly p h).counters.get (pierCtr p kHdrAnomaly) =
      min (s.counters.get (pierCtr p kHdrAnomaly) + 1) 0xFFFF_FFFF_FFFF_FFFF

/-- HEADER_DECODE of a head that is well formed, whose wait is met and which nothing holds (R51, R52, R117, R417, R434): the header
starts. Its entry takes the epoch and policy of its queue's pier, the descriptors of its references as they stand, of PRUNE, REGROW and
UPDATE those that the parameter entries of its piers bind too (R331), and the piers of its shares; a share begins on each of them that has
a slot of its stream (R295), where the pier is then awake and, for G, F and B work, every course of its unit; it enters the queues of the
sequencers on its way, from above, as far as each has room and the one above runs it (R82, R108, R112). Every line of the bed
caches beneath the unit goes where the wait asks it. Nothing but the queue, wakes and their event (R530), packets of the fetched
descriptors and shares (R22), walks of products, jobs, parameters known and bed caches changes. Completes: HEADER_DECODE. -/
def Obligations.header_started : Prop :=
  ∀ (q : QKey) (s : State) (x : QEntry), s.head q = some x → s.holding = false → s.inTurn q = true → x.hdr.key = q → x.begun = [] →
    x.piers = [] → s.asleepBefore x.hdr.unit x.hdr.stream = none →
    (x.phase = .queued ∧ s.malformed x.hdr x.origin (s.queuePier q) = false ∧ s.headerMet x.hdr = true ∨
      x.phase = .waiting ∧ x.malformed = false ∧ s.headerMet x.hdr = true ∨ x.phase = .met ∧ x.malformed = false) →
    let h := x.hdr
    let v := (s.pier (s.queuePier q)).policy
    let ops := s.readOps h v
    let ps := s.sharePiers h v ops
    let path := sharePath q h
    s.heldBack q h v ops = false → s.unitFailed h = false → s.courseFailed h = false →
    ∃ t, exec (.headerDecode q) s = .next t ∧
      t.queue q = { x with
        phase := .ready, malformed := false, epoch := (s.pier (s.queuePier q)).epoch, policy := v, ops := ops, shares := ps
        begun := ps.filter fun p => s.shareRoom q h p
        bound := if h.opcode ∈ [0x0C, 0x0D, 0x0E] then ps.map fun r => (r, s.readBound r (ops.getD 0 .zero).tid v) else [] } ::
          (s.queue q).tail ∧
      (∀ k, k ≠ q → t.queue k = s.queue k) ∧
      (∀ p ∈ ps, s.shareRoom q h p = true → s.outside q h p = false → (t.pier p).awake = true ∧
        (usesCourses h = true → ∀ c ∈ unitCourses q.unit.toNat, c % 48 ∈ (t.pier p).coursesAwake) ∧
        ∀ c ∈ path,
          let goes := q ∉ (s.pier p).line c h.stream ∧ s.seqRoom p h.stream c = true ∧
            ∀ w, seqAbove c = some w → w ∉ path ∨ (t.pier p).front w h.stream = some q;
          (goes → (t.pier p).line c h.stream = (s.pier p).line c h.stream ++ [q]) ∧
          (¬goes → (t.pier p).line c h.stream = (s.pier p).line c h.stream)) ∧
      (h.waitInval = false → ∀ p, (t.pier p).bed = (s.pier p).bed) ∧
      (h.waitInval = true → ∀ p,
        (p ∉ unitPiers h.unit → (t.pier p).bed = (s.pier p).bed) ∧
        (p ∈ unitPiers h.unit → unitLevel h.unit ≠ 0 →
          (t.pier p).bed = (s.pier p).bed.filter fun b => !(unitCourses h.unit).contains b.course) ∧
        (p ∈ unitPiers h.unit → unitLevel h.unit = 0 → ∀ b ∈ (t.pier p).bed, b.course ∈ unitCourses h.unit →
          bitAt b.held (fld h.unit 3 0) = false ∧ ∀ o ∈ b.olds, bitAt o.1 (fld h.unit 3 0) = false)) ∧
      (let rest := fun (p : Pier) => { p.butWake with
          coursesAwake := [], courseStir := [], bed := [], walks := [], tiles := [], jobs := [], jobCount := 0, lines := [], known := [] };
        ∀ p, rest (t.pier p) = rest (s.pier p)) ∧
      (s.powerState = 3 → t.held = s.held ∧ t.counters = s.counters) ∧
      t = { s with
        piers := t.piers, queues := t.queues, crossHeld := t.crossHeld, crossPtr := t.crossPtr, free := s.free + 1
        edgeRot := t.edgeRot, held := t.held, counters := t.counters }

/-- HEADER_COMPLETE (R38, R53, R63, R202, R256, R375, R426, R458): of a header that has run and owes no pass, the side statistics and
sparse figures go to their tables and its lines out of the unit's bed caches. One without a signal leaves its queue and its sequencer; the
host that submitted it with the report bit is sent its 64-byte completion record with the tag of its SUBMIT (R452), a departed host's is
counted (R465), a request's program is one header further, and a U header is noted on its piers (R387). One with a signal, a malformed SIGNAL's test-and-set among them, sends it and stays at the head
until it has been applied. The model's readings in it: log 14. Completes: HEADER_COMPLETE. -/
def Obligations.header_completes : Prop :=
  ∀ (q : QKey) (s : State) (x : QEntry), s.head q = some x → x.phase = .ran → x.jobs = 0 →
    let h := x.hdr
    let tables := x.sparse.foldl (fun (u : State) f => u.combineSparse x.epoch h.seq f)
      (x.stats.foldl (fun (u : State) f => u.combineStat x.epoch h.seq f) s)
    let sends := fun kind => h.sigEn = true ∧ kind = h.sigOp ∧ (h.sigOp < 2 ∨ h.sigOp = 2 ∧ h.opcode = 0x13 ∧ x.malformed = true);
    ((∀ kind, ¬sends kind) → ∃ t, exec (.headerComplete q) s = .next t ∧
      t.queue q = (s.queue q).tail ∧ (∀ k, k ≠ q → t.queue k = s.queue k) ∧ t.mem = tables.mem ∧
      (inPierQueue q = true → (t.pier (s.queuePier q)).line (queueSeq q) q.stream.val =
        ((s.pier (s.queuePier q)).line (queueSeq q) q.stream.val).erase q) ∧
      (∀ p, (p ∉ unitPiers h.unit → (t.pier p).bed = (s.pier p).bed) ∧
        (p ∈ unitPiers h.unit → unitLevel h.unit ≠ 0 → ∀ b ∈ (t.pier p).bed, b.course ∈ unitCourses h.unit → b.line ∉ x.lines)) ∧
      (∀ port tag, x.origin = .host port tag → h.report = true →
        s.Sends t port ⟨0x13, tag.toNat, 0, leBytes 8 (1 + 2 ^ 8 * h.stream + 2 ^ 16 * x.status + 2 ^ 24 * h.opcode +
          2 ^ 32 * h.unit + 2 ^ 48 * h.seq) ++ leBytes 8 s.tick ++ List.replicate 48 0⟩) ∧
      ((∀ port tag, x.origin ≠ .host port tag) ∨ h.report = false → t.ports = s.ports) ∧
      (∀ port, x.origin = .departed port → h.report = true → t.counters.get (plmbReg port 0x10) =
        min (tables.counters.get (plmbReg port 0x10) + 1) 0xFFFF_FFFF_FFFF_FFFF) ∧
      (∀ n, x.origin = .request n →
        t.requests = replaceFirst (fun r => r.number == n) (fun r => r.advance x.status s.tick) s.requests) ∧
      ((∀ n, x.origin ≠ .request n) → t.requests = s.requests) ∧
      (∀ k, t.uRan.get k = if h.stream = 3 ∧ ∃ p ∈ x.piers, k = p.val then 1 else s.uRan.get k) ∧
      (∀ p, (s.port p).Transmits (t.port p)) ∧
      (∀ p, { (t.pier p).butCaches with lines := [] } = { (s.pier p).butCaches with lines := [] }) ∧
      t = { s with
        mem := t.mem, poison := t.poison, piers := t.piers, counters := t.counters, queues := t.queues
        uRan := t.uRan, ports := t.ports, requests := t.requests }) ∧
    ∀ kind, sends kind → ∃ u t : State, exec (.headerComplete q) s = .next t ∧ u.KeySent t h.sigKey kind h.sigOperand (.signal q) ∧
      u.queue q = { x with phase := .closing } :: (s.queue q).tail ∧ (∀ k, k ≠ q → u.queue k = s.queue k) ∧ u.mem = tables.mem ∧
      (∀ p, (u.pier p).butCaches = (s.pier p).butCaches) ∧
      u = { s with mem := u.mem, poison := u.poison, piers := u.piers, counters := u.counters, queues := u.queues }

/-- SUBMISSION_ENQUEUE (R82, R108, R369): the oldest submission held back at a queue with room, at its sequencer too, enters it behind
what it holds, and whose write it was is answered with status 0: a host's MEM_ACK, a mason core's store complete; for a stopped domain
the crossing before it holds one entry more (R434), which waits from this tick on if it is the first (R437). Then the messages that
waited behind it are taken in order; with none, that is all. The model's readings in it: log 50. Completes: SUBMISSION_ENQUEUE. -/
def Obligations.submission_enqueued : Prop :=
  ∀ (q : QKey) (s : State) (w : WaitingSub), s.waitingSubs.find? (fun w => w.key == q) = some w → w.hdr.key = q →
    s.queueRoom q = true →
    ∃ t, exec (.submissionEnqueue q) s = .next t.drainInboxes ∧
      ((∀ p, (s.port p).inbox = []) → exec (.submissionEnqueue q) s = .next t) ∧
      s.Enqueued t q w.hdr w.origin ∧
      (∃ a b, s.waitingSubs = a ++ w :: b ∧ t.waitingSubs = a ++ b ∧ ∀ y ∈ a, y.key ≠ q) ∧
      (∀ src, w.ack = some src → s.Acked t src 0) ∧ (w.ack = none → t.ports = s.ports ∧ t.skovs = s.skovs ∧
        ∀ p, (t.pier p).masons = (s.pier p).masons) ∧
      (∀ p, (t.pier p).butQueued = (s.pier p).butQueued) ∧
      t = { s with
        queues := t.queues, waitingSubs := t.waitingSubs, crossHeld := t.crossHeld, ports := t.ports, counters := t.counters
        piers := t.piers, skovs := t.skovs }

/-- SUBMISSION_LINE_WRITE (R28, R369): a whole line's write, which wakes the pier (R435), is a header for the queue that its unit field
and stream name. With room it enters that queue and the write is answered; without, it waits, and the write, a host's or a mason core's, is
not answered yet. A write that is not the 64 bytes of a line is counted and answered, and submits nothing. SUBMISSION_LINE_READ (R369): the
first 8 bytes of a line hold the free entries of its stream's pier-level queue and the submissions discarded since the last read, which the
read clears for its line alone. Of a failed pier both are refused with status 1 (R438). A Skovlaper, which reaches registers alone, gets
status 1 (R12, R502). The model's readings in it: log 19. Completes: SUBMISSION_LINE_WRITE, SUBMISSION_LINE_READ. -/
def Obligations.submission_lines : Prop :=
  (∀ (src : Source) (pier : PierId) (off addr : Nat) (data : List Byte) (s : State), s.place addr = .control pier off →
      0x10_0000 ≤ off → off < 0x10_0100 → s.reaches src pier 2 → s.deadPier pier = false →
      (∀ port tag, src = .host port tag → s.func.state = 3) →
      let h := headerOf data
      let q := h.key
      let o : Origin := match src with | .host port tag => .host port tag | _ => .image
      (off % 64 = 0 → data.length = 64 → unitExists h.unit = true → s.hasRoom q = true →
        ∃ u t, exec (.submissionLineWrite src addr data) s = .next t ∧ s.Woken u pier ∧ u.Acked t src 0 ∧ u.Enqueued t q h o ∧
          (∀ p, (t.pier p).butQueued = (u.pier p).butQueued) ∧
          t = { u with queues := t.queues, crossHeld := t.crossHeld, ports := t.ports, piers := t.piers, edgeRot := t.edgeRot }) ∧
      (off % 64 = 0 → data.length = 64 → unitExists h.unit = true → s.hasRoom q = false →
        ∃ u t, exec (.submissionLineWrite src addr data) s = .next t ∧ s.Woken u pier ∧
          t.waitingSubs = s.waitingSubs ++ [⟨q, h, o, some src⟩] ∧
          (∀ r, (s.port r).Transmits (t.port r)) ∧ (∀ r, (s.port r).held = (t.port r).held) ∧
          t = { u with waitingSubs := t.waitingSubs, ports := t.ports, edgeRot := t.edgeRot }) ∧
      (off % 64 = 0 → data.length = 8 →
        ∃ u t, exec (.submissionLineWrite src addr data) s = .next t ∧ s.Woken u pier ∧ u.Acked t src 0 ∧
          (∀ l, (t.pier pier).submitBad.get l = (s.pier pier).submitBad.get l + if l = off % 256 / 64 then 1 else 0) ∧
          t.counters = u.counters.addSat (pierCtr pier kSubmitBad) 1 ∧
          (∀ p, { t.pier p with masons := [], submitBad := [] } = { u.pier p with masons := [], submitBad := [] }) ∧
          t = { u with counters := t.counters, ports := t.ports, piers := t.piers })) ∧
  (∀ (src : Source) (pier : PierId) (off addr : Nat) (s : State), s.place addr = .control pier off →
    0x10_0000 ≤ off → off < 0x10_0100 → off % 64 = 0 → s.reaches src pier 1 → s.deadPier pier = false →
    let l := off % 256 / 64
    let q : QKey := ⟨BitVec.ofNat 16 (0x6000 + 0x400 * pier.val), streamOf l⟩
    ∃ u t, exec (.submissionLineRead src addr 8) s = .next t ∧ s.Woken u pier ∧
      u.Told t src 0 8 (min (q.depth - (s.queue q).length) 65535 + 2 ^ 32 * min ((s.pier pier).submitBad.get l) 65535) ∧
      (∀ k, (t.pier pier).submitBad.get k = if k = l then 0 else (s.pier pier).submitBad.get k) ∧
      (∀ p, p ≠ pier → (t.pier p).submitBad = (s.pier p).submitBad) ∧
      (∀ p, { t.pier p with masons := [], submitBad := [] } = { u.pier p with masons := [], submitBad := [] }) ∧
      t = { u with ports := t.ports, piers := t.piers }) ∧
  (∀ (src : Source) (pier : PierId) (off addr : Nat) (data : List Byte) (s : State), s.place addr = .control pier off →
    0x10_0000 ≤ off → off < 0x10_0100 → off % 64 = 0 → data.length = 64 → s.deadPier pier = true →
    (s.reaches src pier 2 → ∃ t, exec (.submissionLineWrite src addr data) s = .next t ∧ s.Acked t src 1 ∧ s.AnswersAlone t) ∧
    (s.reaches src pier 1 → ∃ t, exec (.submissionLineRead src addr 8) s = .next t ∧ s.Told t src 1 8 0 ∧ s.AnswersAlone t)) ∧
  ∀ (d : Bool) (pier : PierId) (off addr n : Nat) (data : List Byte) (s : State), s.place addr = .control pier off →
    0x10_0000 ≤ off → off < 0x10_0100 →
    exec (.submissionLineWrite (.skov d) addr data) s = .next (s.updSkov d fun k => { k with status := 1 }) ∧
    exec (.submissionLineRead (.skov d) addr n) s = .next (s.updSkov d fun k => { k with answer := 0, status := 1 })

/-! ## Keystones -/

/-- KEYSTONE_VALUE_WRITE, KEYSTONE_ADD_WRITE, KEYSTONE_TAS_WRITE and KEYSTONE_TAS_READ (R410, R412, R414, R435): an aligned
access of 8 bytes sends its pier's keystone a set, an add or a test-and-set of the low 32 bits (of 1 for a read), and wakes the pier: a
mason core's on requester port 6, its write answered at once; a host's over the links, its write answered once the keystone has taken it
(R455). A read is answered when its test-and-set is served. An access of another length is answered with status 1 and counted
(R411), one of a failed pier with status 1 (R438). A Skovlaper, which reaches registers alone, gets status 1 (R12, R502). Completes:
KEYSTONE_VALUE_WRITE, KEYSTONE_ADD_WRITE, KEYSTONE_TAS_WRITE, KEYSTONE_TAS_READ. -/
def Obligations.keystone_accesses : Prop :=
  (∀ (pier : PierId) (core : Fin 8) (off addr : Nat) (data : List Byte) (s : State), s.place addr = .control pier off →
    off < 0x4_0000 → s.deadPier pier = false →
    let src : Source := .mason pier core
    let sent := fun (kind v : Nat) (answer : TasAnswer) (t : State) => ∃ u : State, s.Woken u pier ∧
      (t.pier pier).keyArriving = (s.pier pier).keyArriving ++ [⟨4096 * pier.val + off / 64, 6, kind, v, answer⟩] ∧
      (∀ p, p ≠ pier → t.pier p = u.pier p) ∧
      { t.pier pier with masons := [], keyArriving := [] } = { u.pier pier with masons := [], keyArriving := [] } ∧
      t = { u with piers := t.piers };
    (off % 8 = 0 → data.length = 8 →
      let v := leAt data 0 4
      (off % 64 = 0 → ∃ t, exec (.keystoneValueWrite src addr data) s = .next t ∧ sent 1 v .none t ∧ s.Acked t src 0) ∧
      (off % 64 = 8 → ∃ t, exec (.keystoneAddWrite src addr data) s = .next t ∧ sent 0 v .none t ∧ s.Acked t src 0) ∧
      (off % 64 = 16 → ∃ t, exec (.keystoneTasWrite src addr data) s = .next t ∧ sent 2 v .none t ∧ s.Acked t src 0)) ∧
    (off % 64 = 16 → ∃ t, exec (.keystoneTasRead src addr 8) s = .next t ∧ sent 2 1 (.access src) t ∧
      ∀ p, (t.pier p).masons = (s.pier p).masons)) ∧
  (∀ (port : PortId) (tag : U32) (pier : PierId) (off addr : Nat) (data : List Byte) (s : State),
    s.place addr = .control pier off → off < 0x4_0000 → s.deadPier pier = false →
    let src : Source := .host port tag
    let key := 4096 * pier.val + off / 64
    let sent := fun (kind v : Nat) (answer : TasAnswer) (t : State) => ∃ u w : State, s.Woken u pier ∧ u.KeySent w key kind v answer ∧
      (∀ r, (s.port r).Transmits (t.port r)) ∧ (∀ r, (s.port r).held = (t.port r).held) ∧ t = { w with ports := t.ports };
    (s.reaches src pier 2 → off % 8 = 0 → data.length = 8 →
      let v := leAt data 0 4
      (off % 64 = 0 → ∃ t, exec (.keystoneValueWrite src addr data) s = .next t ∧ sent 1 v (.ack src) t) ∧
      (off % 64 = 8 → ∃ t, exec (.keystoneAddWrite src addr data) s = .next t ∧ sent 0 v (.ack src) t) ∧
      (off % 64 = 16 → ∃ t, exec (.keystoneTasWrite src addr data) s = .next t ∧ sent 2 v (.ack src) t)) ∧
    (s.reaches src pier 1 → off % 64 = 16 → ∃ t, exec (.keystoneTasRead src addr 8) s = .next t ∧ sent 2 1 (.access src) t)) ∧
  (∀ (src : Source) (pier : PierId) (off addr : Nat) (data : List Byte) (s : State),
    s.place addr = .control pier off → off < 0x4_0000 → off % 64 = 0 → s.reaches src pier 2 →
    (s.deadPier pier = false → data.length = 4 → ∃ u t, exec (.keystoneValueWrite src addr data) s = .next t ∧ s.Woken u pier ∧
      u.Acked t src 1 ∧ (∀ p, { t.pier p with masons := [] } = { u.pier p with masons := [] }) ∧
      t = { u with ports := t.ports, piers := t.piers, counters := u.counters.addSat (pierCtr pier kKeyBad) 1 }) ∧
    (s.deadPier pier = true → data.length = 8 → ∃ t, exec (.keystoneValueWrite src addr data) s = .next t ∧ s.Acked t src 1 ∧
      s.AnswersAlone t)) ∧
  ∀ (d : Bool) (pier : PierId) (off addr n : Nat) (data : List Byte) (s : State), s.place addr = .control pier off → off < 0x4_0000 →
    let refused := s.updSkov d fun k => { k with status := 1 };
    (off % 64 / 8 = 0 → exec (.keystoneValueWrite (.skov d) addr data) s = .next refused) ∧
    (off % 64 / 8 = 1 → exec (.keystoneAddWrite (.skov d) addr data) s = .next refused) ∧
    (off % 64 / 8 = 2 → exec (.keystoneTasWrite (.skov d) addr data) s = .next refused ∧
      exec (.keystoneTasRead (.skov d) addr n) s = .next (s.updSkov d fun k => { k with answer := 0, status := 1 }))

/-- KEYSTONE_UPDATE_CYCLE (R38, R53, R409, R412, R413, R438, R460): of what arrives for a keystone in one cycle, one operation of each port
(log 33), the set first in rotation gives its value; then one test-and-set, the oldest deferred one or else the first in rotation,
which stores its operand over 0; then every add, modulo 2^32. A host's or core's read gets the value that its test-and-set
found, and a host's write is acknowledged (R455). A header that waits for its signal to be applied leaves its queue, and its record goes. A
head that waits on the keystone, and a watch of it, are met at the value the cycle ends with. No other keystone's value changes; and where
nothing awaits one of the operations but accesses, and the key is not the step keystone's, nothing else does but the wake of its pier and
the packets of the answers. Of a pier whose mortar domain has failed every operation is refused: reads get zero with status 1, no keystone
changes. Then the messages that waited behind an access go on. Completes: KEYSTONE_UPDATE_CYCLE. -/
def Obligations.keystone_cycle : Prop :=
  ∀ (key : KeyId) (s : State),
    let p := keyPier key.val
    let k := keyLocal key.val
    let now := (takeArriving k [] (s.pier p).keyArriving).1
    let waits := (s.pier p).keyDeferred.filter fun o => keyLocal o.key == k
    let v := (s.pier p).keyAt k
    let far := fun (i : Nat) (o : KeyOp) => (o.port + 20 - (s.pier p).keyRot.get (2 * k + i)) % 20
    let first := fun (i kind : Nat) (o : KeyOp) => o ∈ now ∧ o.kind = kind ∧ ∀ y ∈ now, y.kind = kind → far i o ≤ far i y
    let gets := fun (u : State) (r : PortId) (m : OutMsg) => m ∈ (u.port r).sent ++ (u.port r).held
    ∃ t, exec (.keystoneUpdateCycle key) s = .next t.drainInboxes ∧
      ((∀ r, (t.port r).inbox = []) → exec (.keystoneUpdateCycle key) s = .next t) ∧
      (s.deadPier p = true → (t.pier p).keyDeferred = [] ∧ (t.pier p).keyArriving = [] ∧
        (∀ r j, (t.pier r).keyAt j = (s.pier r).keyAt j) ∧
        ∀ o ∈ (s.pier p).keyDeferred ++ (s.pier p).keyArriving, ∀ r tag, o.answer = .access (.host r tag) → (s.port r).linked = true →
          gets t r ⟨0x11, tag.toNat, 1, leBytes 8 0⟩) ∧
      (s.deadPier p = false → now = [] → waits = [] → t = s) ∧
      (s.deadPier p = false → now ≠ [] ∨ waits ≠ [] → ∃ v1 v2,
        ((∀ o ∈ now, o.kind ≠ 1) → v1 = v) ∧ ((∃ o ∈ now, o.kind = 1) → ∃ o, first 0 1 o ∧ v1 = o.operand) ∧
        (∀ d ds, waits = d :: ds → v2 = if v1 = 0 then d.operand else v1) ∧
        (waits = [] → (∀ o ∈ now, o.kind ≠ 2) → v2 = v1) ∧
        (waits = [] → (∃ o ∈ now, o.kind = 2) → ∃ o, first 1 2 o ∧ v2 = if v1 = 0 then o.operand else v1) ∧
        (t.pier p).keyAt k = (v2 + ((now.filter fun o => o.kind == 0).map (·.operand)).sum) % 2 ^ 32 ∧
        (∀ j, j ≠ k → (t.pier p).keyAt j = (s.pier p).keyAt j) ∧ (∀ r, r ≠ p → ∀ j, (t.pier r).keyAt j = (s.pier r).keyAt j) ∧
        (t.pier p).awake = true ∧
        (∀ d ds src, waits = d :: ds → d.answer = .access src → (∀ o ∈ now, o.kind ≠ 2 → o.answer = .none) →
          match src with
          | .host r tag => s.Sends t r ⟨0x11, tag.toNat, 0, leBytes 8 v1⟩
          | .gone r => s.Counts t (plmbReg r 0x10)
          | .mason r c => (t.pier r).masons = (s.pier r).masons.modify c.val fun m => { m with loaded := v1, faulted := 0 }
          | .skov d => (t.skov d).answer = v1 ∧ (t.skov d).status = 0) ∧
        (∀ o ∈ now, ∀ r tag, o.kind ≠ 2 → o.answer = .ack (.host r tag) → (s.port r).linked = true →
          gets t r ⟨0x12, tag.toNat, 0, []⟩) ∧
        (∀ o ∈ now, ∀ q x, o.kind ≠ 2 → o.answer = .signal q → s.head q = some x → x.phase = .closing → o ∉ waits →
          (∀ y ∈ now ++ waits, y ≠ o → y.answer ≠ .signal q ∧ ∀ d, y.answer ≠ .element d q) →
          (t.queue q).map (·.hdr) = ((s.queue q).map (·.hdr)).tail ∧
          ∀ port tag, x.origin = .host port tag → x.hdr.report = true → (s.port port).linked = true →
            gets t port ⟨0x13, tag.toNat, 0, leBytes 8 (1 + 2 ^ 8 * x.hdr.stream + 2 ^ 16 * x.status + 2 ^ 24 * x.hdr.opcode +
              2 ^ 32 * x.hdr.unit + 2 ^ 48 * x.hdr.seq) ++ leBytes 8 s.tick ++ List.replicate 48 0⟩) ∧
        ((∀ o ∈ now ++ waits, ∀ q, o.answer ≠ .signal q ∧ ∀ d, o.answer ≠ .element d q) →
          let w := (v2 + ((now.filter fun o => o.kind == 0).map (·.operand)).sum) % 2 ^ 32
          (∀ (q : QKey) (x : QEntry), s.head q = some x → t.head q =
            some (if x.phase = .waiting ∧ x.hdr.waitKey = key.val ∧ waitMet x.hdr.waitCond w x.hdr.waitValue = true
              then { x with phase := .met } else x)) ∧
          (∀ r, (t.port r).watches = (s.port r).watches.map fun x =>
            if x.key = key.val ∧ waitMet x.cond w x.value = true then { x with met := true } else x) ∧
          (key.val ≠ fld (s.pier 0).cfg.keyStep.toNat 14 0 →
            (let rest := fun (pr : Pier) => { pr.butWake with
                keys := [], keys1 := [], keys2 := [], keyRot := [], keyDeferred := [], keyArriving := [], masons := [] };
              ∀ r, rest (t.pier r) = rest (s.pier r)) ∧
            (s.powerState = 3 → t.held = s.held) ∧
            t = { s with
              piers := t.piers, queues := t.queues, ports := t.ports, crossHeld := t.crossHeld, crossPtr := t.crossPtr
              skovs := t.skovs, counters := t.counters, held := t.held, edgeRot := t.edgeRot })))

/-- KEYSTONE_DEFERRED_TAS (R412): in a cycle in which nothing arrives for the keystone of a pier that runs, its oldest deferred
test-and-set is served: it stores its operand over 0, and whoever asked gets the value it found; the others stay deferred in their order.
The messages that waited behind it go on. The model's readings in it: log 33. Completes: KEYSTONE_DEFERRED_TAS. -/
def Obligations.keystone_deferred : Prop :=
  ∀ (key : KeyId) (s : State),
    let p := keyPier key.val
    let k := keyLocal key.val
    let v := (s.pier p).keyAt k
    (s.runs p = false → exec (.keystoneDeferredTas key) s = .next s.drainInboxes) ∧
    ∀ d ds, (s.pier p).keyDeferred.filter (fun o => keyLocal o.key == k) = d :: ds → d.operand < 2 ^ 32 → v < 2 ^ 32 →
      s.runs p = true →
      ∃ t, exec (.keystoneDeferredTas key) s = .next t.drainInboxes ∧
        (t.pier p).keyAt k = (if v = 0 then d.operand else v) ∧
        (∀ j, j ≠ k → (t.pier p).keyAt j = (s.pier p).keyAt j) ∧ (∀ r, r ≠ p → ∀ j, (t.pier r).keyAt j = (s.pier r).keyAt j) ∧
        (t.pier p).keyDeferred.filter (fun o => keyLocal o.key == k) = ds ∧
        (t.pier p).keyDeferred.filter (fun o => keyLocal o.key != k) =
          (s.pier p).keyDeferred.filter (fun o => keyLocal o.key != k) ∧
        (t.pier p).keyArriving = (s.pier p).keyArriving ∧
        (∀ r tag, d.answer = .access (.host r tag) → s.Sends t r ⟨0x11, tag.toNat, 0, leBytes 8 v⟩) ∧
        (d.answer = .none → key.val ≠ fld (s.pier 0).cfg.keyStep.toNat 14 0 →
          t = { s with piers := t.piers, queues := t.queues, ports := t.ports } ∧
          let rest := fun (pr : Pier) => { pr with keys := [], keys1 := [], keys2 := [], keyRot := [], keyDeferred := [] }
          ∀ r, rest (t.pier r) = rest (s.pier r))

/-- STEP_ADVANCE (R177, R342, R416): 64 ticks after the step keystone's completion, not before, every pier's epoch and policy
version are one further modulo 2^32 and every generator is seeded for the new epoch, those of other epochs, which headers that started
before still draw from (R417), standing as they are; the completion is done with. With no
further completion and no channel map to switch (R387) nothing else changes. Completes: STEP_ADVANCE. -/
def Obligations.step_advanced : Prop :=
  ∀ s : State,
    (s.stepDone = none → exec .stepAdvance s = .next s) ∧
    (∀ d, s.stepDone = some d → s.tick < d + 64 → exec .stepAdvance s = .next s) ∧
    ∀ d, s.stepDone = some d → d + 64 ≤ s.tick →
      let c := (s.pier 0).cfg.keyStep.toNat
      let target := s.stepBase + max 1 (fld c 63 32)
      let again := bitAt c 15 && waitMet 0 (s.keyValue (fld c 14 0)) target
      ∃ t, exec .stepAdvance s = .next t ∧
        (∀ p, (t.pier p).epoch = ((s.pier p).epoch + 1) % 2 ^ 32 ∧ (t.pier p).policy = ((s.pier p).policy + 1) % 2 ^ 32 ∧
          (∀ n, (t.pier p).draws.get n = if n / drawSpan = ((s.pier p).epoch + 1) % 2 ^ 16 then 0 else (s.pier p).draws.get n) ∧
          ∀ n, (t.pier p).trowelDraws.get n =
            if n / trowelSpan = ((s.pier p).epoch + 1) % 2 ^ 16 then 0 else (s.pier p).trowelDraws.get n) ∧
        (∀ q, t.quoin q = { s.quoin q with draws := [] }) ∧
        t.stepDone = (if again then some s.tick else none) ∧
        t.stepBase = (if again then target % 2 ^ 32 else s.stepBase) ∧
        (let rest := fun (pr : Pier) => { pr.butCaches.butWake with
            epoch := 0, policy := 0, draws := [], trowelDraws := [], chanMap := 0, spareStatus := 0, failed := [], evacNext := none
            repairing := [] };
          ∀ p, rest (t.pier p) = rest (s.pier p)) ∧
        t = { s with
          mem := t.mem, poison := t.poison, piers := t.piers, quoins := t.quoins, stepDone := t.stepDone, stepBase := t.stepBase
          held := t.held, counters := t.counters, degraded := t.degraded, free := t.free, requests := t.requests
          edgeRot := t.edgeRot, crossHeld := t.crossHeld, crossPtr := t.crossPtr } ∧
        ((again = false ∨ ∀ p, fld (s.pier p).chanMap.toNat 22 21 ≠ 2) →
          (∀ p, t.pier p = { s.pier p with
            epoch := (t.pier p).epoch, policy := (t.pier p).policy, draws := (t.pier p).draws, trowelDraws := (t.pier p).trowelDraws }) ∧
          t = { s with piers := t.piers, quoins := t.quoins, stepDone := t.stepDone, stepBase := t.stepBase })

/-! ## Chisel engines -/

/-- CHISEL_JOB_START (R218, R281, R488, R490): an engine in service takes at a job boundary, of the waiting jobs that it serves, the
one of highest rank, G work first and mask rewrites last, the earliest ready among equals: a row of a TOPK that it had taken is done, a
rewrite gives way to work of higher rank and waits again, a finish pass is not cut short. An engine out of service takes none. The
model's readings in it: log 12. Completes: CHISEL_JOB_START. -/
def Obligations.chisel_started : Prop :=
  ∀ (p : PierId) (wall : Fin 4) (s : State),
    let row := fun (j : Job) => ∃ n, j.body = .topk n
    let mine := fun (j : Job) => j ∈ (s.pier p).jobs ∧ j.taken = none ∧ ∀ w, j.wall = some w → (s.pier p).serves wall w = true
    (s.runs p = false ∨ bitAt (s.pier p).chiselOut wall.val = true → exec (.chiselJobStart p wall) s = .next s) ∧
    (s.runs p = true →
      ((∃ j ∈ (s.pier p).jobs, j.taken = some wall) →
        (∀ j ∈ (s.pier p).jobs, j.taken = some wall → ∃ d v, j.body = .finish d v) → exec (.chiselJobStart p wall) s = .next s) ∧
      (bitAt (s.pier p).chiselOut wall.val = false → (∀ j, ¬mine j) →
        (∀ j ∈ (s.pier p).jobs, j.taken = some wall → row j) → exec (.chiselJobStart p wall) s = .next (s.updPier p
          fun (pr : Pier) => { pr with jobs := pr.jobs.filter fun j => j.taken != some wall })) ∧
      ∀ b : Job, bitAt (s.pier p).chiselOut wall.val = false → mine b →
        (∀ j, mine j → b.rank < j.rank ∨ b.rank = j.rank ∧ b.order ≤ j.order) →
        (∀ j ∈ (s.pier p).jobs, j.order = b.order → j = b) →
        ((∀ j ∈ (s.pier p).jobs, j.taken = some wall → row j) → exec (.chiselJobStart p wall) s = .next (s.updPier p
          fun (pr : Pier) => { pr with jobs := (pr.jobs.filter fun j => j.taken != some wall).map fun j =>
            if j = b then { j with taken := some wall } else j })) ∧
        ((∀ j ∈ (s.pier p).jobs, j.taken = some wall → j.rank = 3 ∧ b.rank < 3) → exec (.chiselJobStart p wall) s = .next (s.updPier p
          fun (pr : Pier) => { pr with jobs := pr.jobs.map fun j =>
            if j = b then { j with taken := some wall } else if j.taken = some wall then { j with taken := none } else j })))

/-- FINISH_PASS (R240, R241): the pass of a header's job that an engine has taken. Of the blocks whose presence bit is set, the
first in ascending order up to the capacity are listed; the count and a mask version one further are written, and the blocks left
out are counted as overflow. The job is over, and its header owes one pass less; a poisoned line among its accesses fails the header
(R386). Memory changes only in d's value blocks below the capacity and in its list area. The model's readings in it: log 12.
Completes: FINISH_PASS. -/
def Obligations.finish_pass : Prop :=
  ∀ (p : PierId) (q : QKey) (s : State) (j : Job) (t : Tens) (seen : Bool × Bool) (x : QEntry) (xs : List QEntry),
    j ∈ (s.pier p).jobs → j.q = q → j.taken ≠ none → j.body = .finish t seen → s.queue q = x :: xs →
    (∀ i ∈ (s.pier p).jobs, i.q = q → i.taken ≠ none → (∃ d v, i.body = .finish d v) → i = j) → Sound s →
    let cap := s.capAt p t.auxT
    let all := s.presentBlocks p t
    let area := 64 + 12 * cap + mapBytes t.br t.bc
    let base := wrap52 (t.base + t.tw)
    ∃ u, exec (.finishPass p q) s = .next u ∧
      (u.pier p).jobs = (s.pier p).jobs.filter (fun i => i.order != j.order) ∧
      (∃ y, u.queue q = y :: xs ∧ y.jobs = x.jobs - 1 ∧ y.status = (if (s.finishMet p t).bad then 1 else x.status) ∧
        { y with jobs := x.jobs, lines := x.lines, sparse := x.sparse, status := x.status } = x) ∧
      (∀ k, k ≠ q → u.queue k = s.queue k) ∧
      (∀ a, memGet u.mem a ≠ memGet s.mem a → (∃ i, i < cap * t.blockBytes ∧ a = wrap52 (base + i)) ∨
        ∃ i, i < area ∧ a = wrap52 (t.auxT + i)) ∧
      u.counters.get (pierCtr p kOverflow) = (if all.length ≤ cap then s.counters.get (pierCtr p kOverflow)
        else min (s.counters.get (pierCtr p kOverflow) + (all.length - cap)) 0xFFFF_FFFF_FFFF_FFFF) ∧
      ((∀ i, i < area → s.reach p (t.auxT + i) = .ok) → area < 2 ^ 52 →
        (∀ i k, i < cap * t.blockBytes → k < area → wrap52 (base + i) ≠ wrap52 (t.auxT + k)) →
        u.rawWord t.auxT 4 = min all.length cap ∧ u.rawWord (t.auxT + 4) 4 = cap ∧
        u.rawWord (t.auxT + 8) 4 = (s.rawWord (t.auxT + 8) 4 + 1) % 2 ^ 32 ∧
        ∀ i b, (all.take cap)[i]? = some b → u.rawWord (t.auxT + 64 + 4 * i) 4 = (0x1_0000 * b.1 + b.2) % 2 ^ 32) ∧
      (∀ r, { (u.pier r).butCaches with jobs := [] } = { (s.pier r).butCaches with jobs := [] }) ∧
      u = { s with
        mem := u.mem, poison := u.poison, piers := u.piers, counters := u.counters, held := u.held, queues := u.queues }

/-- MASK_REWRITE (R276 to R279, R353): the rewrite of a header's job that an engine has taken: counted, the job over, its header
owing one pass less, and failed where a poisoned line was read (R386). Memory changes only in the first value blocks of d and of its
states, as many as the new mask has blocks, in d's list area, and in the fingerprint of the buffer rewritten. The model's readings in
it: logs 76 and 77. Completes: MASK_REWRITE. -/
def Obligations.mask_rewrite : Prop :=
  ∀ (p : PierId) (q : QKey) (s : State) (j : Job) (r : RewriteJob) (x : QEntry) (xs : List QEntry), j ∈ (s.pier p).jobs →
    j.q = q → j.taken ≠ none → j.body = .rewrite r → s.queue q = x :: xs →
    (∀ i ∈ (s.pier p).jobs, i.q = q → i.taken ≠ none → (∃ r, i.body = .rewrite r) → i = j) →
    let d := r.d
    let cap := s.capAt p d.auxT
    ∃ u, exec (.maskRewrite p q) s = .next u ∧ u.mem = (s.rewrite p r).mem ∧
      (u.pier p).jobs = (s.pier p).jobs.filter (fun i => i.order != j.order) ∧
      (∃ y, u.queue q = y :: xs ∧ y.jobs = x.jobs - 1 ∧ y.status = (if (s.rewriteMet p r).bad then 1 else x.status) ∧
        { y with jobs := x.jobs, lines := x.lines, status := x.status } = x) ∧
      (∀ k, k ≠ q → u.queue k = s.queue k) ∧
      (let mask := fun (a : Nat) =>
          (∃ b ∈ d :: r.states, ∃ i, i < r.keep.length * b.blockBytes ∧ a = wrap52 (b.base + b.tw + i)) ∨
          (∃ i, i < 64 + 12 * cap + mapBytes d.br d.bc ∧ a = wrap52 (d.auxT + i)) ∨
          ∃ k, k < 4 * r.keep.length ∧ (a = wrap52 (d.auxT + 64 + k) ∨ a = wrap52 (d.auxT + 64 + 4 * cap + k) ∨
            a = wrap52 (d.auxT + 64 + 8 * cap + k));
        (∀ e i, s.pentry p r.tensor = some e → i < 64 → ¬mask (wrap52 (e.at_ + i))) →
        ∀ a, memGet u.mem a ≠ memGet s.mem a →
          mask a ∨ ∃ e i, s.pentry p r.tensor = some e ∧ i < 16 ∧ a = wrap52 (s.fpAt p d e.fpOff 0 r.policy + i)) ∧
      u.counters.get (pierCtr p kRewrites) = min (s.counters.get (pierCtr p kRewrites) + 1) 0xFFFF_FFFF_FFFF_FFFF ∧
      (∀ k, { (u.pier k).butCaches with jobs := [] } = { (s.pier k).butCaches with jobs := [] }) ∧
      u = { s with
        mem := u.mem, poison := u.poison, piers := u.piers, counters := u.counters, held := u.held, queues := u.queues }

/-! ## Trowels, replicas and checkpoints -/

/-- APPLY_COMPLETE (R329, R339 step 7, R353, R354): an apply whose elements are written is closed: its header owes one pass less, the
pier knows its tensor by the descriptor that the apply read, and, where its entry lies on the pier, apart from the fingerprints and
the norm entry that the apply writes, its shards have no replicas and its list area is not copied, the entry's runtime fields are valid
with the apply's epoch, no accumulation pending and one apply more. The replica piers of its shards know the tensor as it does, and
wake for what they are sent (R435). The model's readings in it: logs 28, 30, 76 and 89. Completes: APPLY_COMPLETE. -/
def Obligations.apply_completes : Prop :=
  ∀ (p : PierId) (q : QKey) (s : State) (j : ApplyJob) (x : QEntry) (xs : List QEntry),
    (s.pier p).applies.find? (fun j => j.q == q) = some j → s.queue q = x :: xs → j.q = q → Sound s →
    let t := j.d.ver (j.policy + 1)
    ∃ u, exec (.applyComplete p q) s = .next u ∧ (u.pier p).applies = (s.pier p).applies.filter (fun k => k.q != q) ∧
      (∃ y, u.queue q = y :: xs ∧ y.jobs = x.jobs - 1 ∧ { y with jobs := x.jobs, lines := x.lines } = x) ∧
      (∀ k, k ≠ q → u.queue k = s.queue k) ∧ (j.tensor, j.d) ∈ (u.pier p).known ∧
      (∀ f ∈ j.fps, ∀ r ∈ t.replicas f.1, (t.tid, j.d) ∈ (u.pier r).known ∧ (s.deadPier r = false → (u.pier r).awake = true)) ∧
      (∀ e, s.pentry p j.tensor = some e → (t.layout ≠ 4 ∨ t.twin = 0 ∨ t.aux = 0) → (∀ f ∈ j.fps, t.replicas f.1 = []) →
        (∀ i, i < 16 → s.reach p (e.at_ + 48 + i) = .ok) → e.at_ + 64 ≤ 2 ^ 52 →
        (∀ f ∈ j.fps, ∀ i k, i < 16 → k < 16 → wrap52 (s.fpAt p t e.fpOff f.1 (j.policy + 1) + i) ≠ e.at_ + 48 + k) →
        (∀ i k, i < 32 → k < 16 →
          wrap52 (4096 * fld (s.pier p).cfg.normBase.toNat 51 12 + 32 * e.layer + i) ≠ e.at_ + 48 + k) →
        u.rawWord (e.at_ + 48) 8 = j.epoch % 2 ^ 16 + 2 ^ 16 + 2 ^ 32 * (e.accEpoch % 2 ^ 16) ∧
        u.rawWord (e.at_ + 56) 8 = e.shard % 2 ^ 32 + 2 ^ 32 * ((e.applies + 1) % 2 ^ 32)) ∧
      (∀ r, ((u.pier r).awake = false → (s.pier r).awake = false) ∧
        { (u.pier r).butCaches.butWake with applies := [], known := [], repairing := [] } =
        { (s.pier r).butCaches.butWake with applies := [], known := [], repairing := [] }) ∧
      u = { s with
        mem := u.mem, poison := u.poison, piers := u.piers, counters := u.counters, held := u.held, queues := u.queues
        sounding := u.sounding, edgeRot := u.edgeRot, crossHeld := u.crossHeld, crossPtr := u.crossPtr }

/-- The deferral queues. DEFER_ENTRY_PLACE (R349, R351): the oldest waiting block-update goes to the end of a deferral queue with room, its
1,088 bytes to the queue's next slot in memory, and its header owes one less; a full queue takes none. DEFER_ENTRY_DRAIN (R350, R351,
R488): the oldest entry of a quoin's deferral queue leaves it, unless both of its trowels are under test. Where its tensor's window is
absent it is dropped, counted and recorded, and memory stays, but that the last entry of an apply that is not being discarded still counts
its shard; else it is applied in place, and only memory, what the corner pier's trowels know and flush, and the quoin's own sums change,
and the count of the shard is sent to its keystone. The model's readings in it: logs 27, 78 and 79. Completes: DEFER_ENTRY_PLACE,
DEFER_ENTRY_DRAIN. -/
def Obligations.deferral_entries : Prop :=
  (∀ (q : QuoinId) (s : State) (x : DeferEntry) (xs : List DeferEntry), (s.quoin q).placing = x :: xs → Sound s →
    (65536 ≤ (s.quoin q).queue.length → exec (.deferEntryPlace q) s = .next s) ∧
    ((s.quoin q).queue.length < 65536 →
      let at_ := 4096 * fld (s.quoin q).deferBase.toNat 51 12 + 1088 * ((s.quoin q).placed % 65536)
      ∃ u, exec (.deferEntryPlace q) s = .next u ∧
        u.quoin q = { s.quoin q with
          placing := xs, queue := (s.quoin q).queue ++ [x], placed := (s.quoin q).placed + 1 } ∧
        (∀ r, r ≠ q → u.quoin r = s.quoin r) ∧
        (∀ y ys, s.queue x.stream = y :: ys → ∃ z, u.queue x.stream = z :: ys ∧ z.jobs = y.jobs - 1 ∧
          { z with jobs := y.jobs, lines := y.lines } = y) ∧
        (∀ k, k ≠ x.stream → u.queue k = s.queue k) ∧
        ((∀ i, i < x.bytes.length → s.reach (cornerPier q) (at_ + i) = .ok) →
          ∀ i, i < x.bytes.length → memGet u.mem (wrap52 (at_ + i)) = byteAt x.bytes i) ∧
        (∀ a, (∀ i, i < x.bytes.length → a ≠ wrap52 (at_ + i)) → memGet u.mem a = memGet s.mem a) ∧
        (∀ r, (u.pier r).butCaches = (s.pier r).butCaches) ∧
        u = { s with mem := u.mem, poison := u.poison, piers := u.piers, quoins := u.quoins, queues := u.queues })) ∧
  ∀ (q : QuoinId) (s : State) (x : DeferEntry) (xs : List DeferEntry), (s.quoin q).queue = x :: xs →
    let gone := (s.quoin q).discard && decide (x.first ≠ 0)
    (fld (s.quoin q).out 1 0 = 3 → exec (.deferEntryDrain q) s = .next s) ∧
    (fld (s.quoin q).out 1 0 ≠ 3 → ∃ u, exec (.deferEntryDrain q) s = .next u ∧
      (u.quoin q).queue = xs ∧ (u.quoin q).placing = (s.quoin q).placing ∧ (u.quoin q).placed = (s.quoin q).placed ∧
      (∀ r, r ≠ q → u.quoin r = s.quoin r) ∧
      (s.place (x.target q) = .absent →
        u.counters.get (trwReg q 0x20) = min (s.counters.get (trwReg q 0x20) + 1) 0xFFFF_FFFF_FFFF_FFFF ∧
        u.quoin q = { s.quoin q with queue := xs, discard := gone && !x.last } ∧
        (¬(x.last = true ∧ x.apply = true ∧ gone = false) → u = { s with quoins := u.quoins, counters := u.counters, held := u.held })) ∧
      (s.place (x.target q) ≠ .absent → u = (s.updQuoin q fun w => { w with queue := xs }).drainEntry q x) ∧
      (∀ r, { (u.pier r).butCaches.butWake with fpFlushed := 0, known := [], keyArriving := [] } =
        { (s.pier r).butCaches.butWake with fpFlushed := 0, known := [], keyArriving := [] }) ∧
      u = { s with
        mem := u.mem, poison := u.poison, piers := u.piers, quoins := u.quoins, counters := u.counters, free := u.free
        held := u.held, edgeRot := u.edgeRot, linkHeld := u.linkHeld, crossHeld := u.crossHeld, crossPtr := u.crossPtr })

/-- FINGERPRINT_RECHECK (R34, R355, R356): a copy whose fingerprint is the stored one, which the other copies' stored ones agree with,
changes nothing, nor is one rechecked while its pier does not run, a U header works on its parameter or it is under repair. Where they
differ and the owner's copy is the one its own fingerprint tells, every replica that differs is counted as repaired; where another pier's copy is that one, it becomes the owner, and the
old owner a replica, under repair while the region of its GDDR 7 copy is sounded; where none is, the shard is counted as lost, and no
memory changes. The model's readings in it: logs 30, 31 and 77. Completes: FINGERPRINT_RECHECK. -/
def Obligations.fingerprint_rechecked : Prop :=
  ∀ (p : PierId) (tensor entry : Nat) (s : State) (e : PEntry) (d : Tens), tensor < 2 ^ 20 → s.pentry p tensor = some e →
    (s.pier p).known.find? (fun k => k.1 == tensor) = some (tensor, d) →
    let v := (s.pier p).policy
    let t := (s.reown d).ver v
    let held := match t.own with
      | some o => if t.kind = 0 then entry < o.ents.length && o.holds p entry else entry = 0
      | none => entry = 0
    let own := t.ownerOf p entry
    let stored := s.storedFp own t entry v
    let good := stored = some (s.copyFp own t entry)
    let heir := fun (r : PierId) => stored ≠ none ∧ some (s.copyFp r t entry) = stored ∧ s.storedFp r t entry v = stored
    let mending := ∃ y ∈ (s.pier p).repairing, y.tensor = tensor ∧ y.shard = entry
    let agree := s.storedFp p t entry v = some (s.copyFp p t entry) ∧ s.storedAgree p t entry v = true
    (s.runs p = false ∨ e.trained = false ∨ held = false ∨ s.uBusy p tensor = true ∨ mending ∨ agree →
      exec (.fingerprintRecheck p tensor entry) s = .next s) ∧
    (s.runs p = true → e.trained = true → held = true → s.uBusy p tensor = false → ¬mending → ¬agree → Sound s →
      ∃ u, exec (.fingerprintRecheck p tensor entry) s = .next u ∧
        (good → let n := ((t.replicas entry).filter fun r =>
            some (s.copyFp r t entry) != stored || s.storedFp r t entry v != stored).length
          u.counters.get (pierCtr own kReplicaRepair) = (if n = 0 then s.counters.get (pierCtr own kReplicaRepair)
            else min (s.counters.get (pierCtr own kReplicaRepair) + n) 0xFFFF_FFFF_FFFF_FFFF)) ∧
        (¬good → (∃ r ∈ t.replicas entry, heir r) →
          u.counters.get (pierCtr own kOwnerMove) = min (s.counters.get (pierCtr own kOwnerMove) + 1) 0xFFFF_FFFF_FFFF_FFFF ∧
          (∀ h off, s.place (t.shardAddr own entry) = .gddr h off →
            let region := SUnit.gddrRegion h ((s.pier h).regionOf off).1 ((s.pier h).regionOf off).2
            (u.pier own).repairing = (s.pier own).repairing ++ [⟨t.tid, entry, some region⟩] ∧
            (∃ y ∈ u.sounding, y.unit = region) ∧
            ((∀ i, i < 2 → s.memHome (t.ownerAt + 128 + 2 * entry + i) ≠ none) →
              ∃ r ∈ t.replicas entry, heir r ∧
                fld (u.rawWord (t.ownerAt + 128 + 2 * entry) 2) 2 0 = r.val ∧
                bitAt (u.rawWord (t.ownerAt + 128 + 2 * entry) 2) (8 + own.val) = true)) ∧
          ((∀ h off, s.place (t.shardAddr own entry) ≠ .gddr h off) →
            (u.pier own).repairing = (s.pier own).repairing ∧ u.sounding = s.sounding)) ∧
        (¬good → (∀ r ∈ t.replicas entry, ¬heir r) →
          u.counters.get (pierCtr own kShardLost) = min (s.counters.get (pierCtr own kShardLost) + 1) 0xFFFF_FFFF_FFFF_FFFF ∧
          u = { s with counters := u.counters, held := u.held }) ∧
        (∀ r, ((u.pier r).awake = false → (s.pier r).awake = false) ∧
          { (u.pier r).butCaches.butWake with repairing := [] } = { (s.pier r).butCaches.butWake with repairing := [] }) ∧
        u = { s with
          mem := u.mem, poison := u.poison, piers := u.piers, counters := u.counters, held := u.held, sounding := u.sounding
          edgeRot := u.edgeRot, crossHeld := u.crossHeld, crossPtr := u.crossPtr })

/-- CKPT_WRITE_DONE (R363, R365): a checkpoint whose records are written gets its header with state 1 in the neighbour's memory, which
wakes for it (R435), becomes the pier's last, and its header owes one pass less; with a drain asked for and its window present it is
then draining, and abandoned, counted, with drain_ok 0, where the window is absent. A region too small for any record stays as it was,
and nothing is drained. CKPT_DRAIN_DONE (R365): a drain into a present window ends with the region copied there as it stood, its own
state 2, and drain_ok 1; without the window it is abandoned, counted, with drain_ok 0, and no memory changes. The model's readings in
it: log 32. Completes: CKPT_WRITE_DONE, CKPT_DRAIN_DONE. -/
def Obligations.checkpoints : Prop :=
  (∀ (p : PierId) (s : State) (r : CkptRun) (x : QEntry) (xs : List QEntry), (s.pier p).ckpt = some r → r.draining = false →
    s.queue r.q = x :: xs → Sound s →
    let nb := pierOf (p.val ^^^ 4)
    let base := 4096 * fld (s.pier nb).cfg.ckptBase.toNat 51 12
    let hdr := leBytes 4 (1 + p.val * 4) ++ leBytes 4 r.epoch ++ leBytes 4 r.policy ++ leBytes 4 r.records ++ leBytes 8 r.bytes ++
      leBytes 8 s.tick ++ List.replicate 32 0
    let but := fun (pr : Pier) => { pr.butCaches.butWake with ckpt := none, ckptPhase := 0, ckptLastEpoch := 0, ckptDrainOk := false }
    ∃ u, exec (.ckptWriteDone p) s = .next u ∧
      (u.pier p).ckptLastEpoch = (if r.records = 0 then (s.pier p).ckptLastEpoch else r.epoch % 2 ^ 32) ∧
      (∃ y, u.queue r.q = y :: xs ∧ y.jobs = x.jobs - 1 ∧ { y with jobs := x.jobs, lines := x.lines } = x) ∧
      (∀ k, k ≠ r.q → u.queue k = s.queue k) ∧
      (r.records ≠ 0 → (∀ i, i < 64 → s.memHome (base + i) ≠ none) →
        ∀ i, i < 64 → memGet u.mem (wrap52 (base + i)) = byteAt hdr i) ∧ (r.records = 0 → u.mem = s.mem) ∧
      (r.records ≠ 0 → s.deadPier nb = false → (u.pier nb).awake = true) ∧
      (∀ a, (∀ i, i < 64 → a ≠ wrap52 (base + i)) → memGet u.mem a = memGet s.mem a) ∧
      (r.drain = false ∨ r.records = 0 → (u.pier p).ckpt = none ∧ (u.pier p).ckptPhase = 0 ∧
        (u.pier p).ckptDrainOk = (s.pier p).ckptDrainOk ∧ (s.powerState = 3 → u.counters = s.counters ∧ u.held = s.held)) ∧
      (r.drain = true → s.drainTarget p ≠ none → r.records ≠ 0 →
        (u.pier p).ckpt = some { r with draining := true } ∧ (u.pier p).ckptPhase = 2 ∧
        (u.pier p).ckptDrainOk = (s.pier p).ckptDrainOk ∧ (s.powerState = 3 → u.counters = s.counters ∧ u.held = s.held)) ∧
      (r.drain = true → s.drainTarget p = none → r.records ≠ 0 → (u.pier p).ckpt = none ∧ (u.pier p).ckptPhase = 0 ∧
        (u.pier p).ckptDrainOk = false ∧
        u.counters.get (pierCtr p kCkptShort) = min (s.counters.get (pierCtr p kCkptShort) + 1) 0xFFFF_FFFF_FFFF_FFFF) ∧
      (∀ k, but (u.pier k) = but (s.pier k)) ∧ (∀ k, k ≠ nb → (u.pier k).awake = (s.pier k).awake) ∧
      u = { s with
        mem := u.mem, poison := u.poison, piers := u.piers, counters := u.counters, held := u.held, queues := u.queues
        edgeRot := u.edgeRot, crossHeld := u.crossHeld, crossPtr := u.crossPtr }) ∧
  ∀ (p : PierId) (s : State) (r : CkptRun), (s.pier p).ckpt = some r → r.draining = true → Sound s →
    let nb := pierOf (p.val ^^^ 4)
    let base := 4096 * fld (s.pier nb).cfg.ckptBase.toNat 51 12
    let but := fun (pr : Pier) => { pr.butCaches.butWake with ckpt := none, ckptPhase := 0, ckptDrainOk := false }
    (∀ a, s.drainTarget p = some a → ∃ u, exec (.ckptDrainDone p) s = .next u ∧
      (u.pier p).ckpt = none ∧ (u.pier p).ckptPhase = 0 ∧ (u.pier p).ckptDrainOk = true ∧
      (∀ b, (∀ i, i < 64 + r.bytes → b ≠ wrap52 (a + i)) → (∀ i, i < 4 → b ≠ wrap52 (base + i)) →
        memGet u.mem b = memGet s.mem b) ∧
      ((∀ i, i < 64 + r.bytes → s.memHome (a + i) ≠ none ∧ s.memHome (base + i) ≠ none) → 64 + r.bytes ≤ 2 ^ 52 →
        (∀ i k, i < 64 + r.bytes → k < 64 + r.bytes → wrap52 (a + i) ≠ wrap52 (base + k)) →
        (∀ i, i < 64 + r.bytes → memGet u.mem (wrap52 (a + i)) = memGet s.mem (wrap52 (base + i))) ∧
        u.rawWord base 4 = s.rawWord base 4 / 4 * 4 + 2) ∧
      (∀ k, but (u.pier k) = but (s.pier k)) ∧
      (∀ k, k ≠ nb → s.memHome a ≠ some k → (u.pier k).awake = (s.pier k).awake) ∧
      (∀ k, k = nb ∨ s.memHome a = some k → s.deadPier k = false → (u.pier k).awake = true) ∧
      (s.missingIn a (64 + r.bytes) = none → s.powerState = 3 → u.counters = s.counters ∧ u.held = s.held) ∧
      (s.missingIn a (64 + r.bytes) ≠ none → u.counters.get (pierCtr p kAbsent) =
        min (s.counters.get (pierCtr p kAbsent) + 1) 0xFFFF_FFFF_FFFF_FFFF) ∧
      u = { s with
        mem := u.mem, poison := u.poison, piers := u.piers, counters := u.counters, held := u.held, edgeRot := u.edgeRot
        crossHeld := u.crossHeld, crossPtr := u.crossPtr }) ∧
    (s.drainTarget p = none → ∃ u, exec (.ckptDrainDone p) s = .next u ∧
      (∀ k, u.pier k = if k = p then { s.pier p with ckpt := none, ckptPhase := 0, ckptDrainOk := false } else s.pier k) ∧
      u.counters.get (pierCtr p kCkptShort) = min (s.counters.get (pierCtr p kCkptShort) + 1) 0xFFFF_FFFF_FFFF_FFFF ∧
      u = { s with piers := u.piers, counters := u.counters, held := u.held })

/-! ## Memory upkeep -/

/-- RUN_AHEAD_FETCH (R34, R399 to R401): a line is fetched for an engine whose course runs, from the 8 lines beyond the highest that a
run of its demands has reached; other lines are not. A fetch of an absent, control-block or foreign line, of a CXL line that the mortar
does not hold, or of one in error is dropped, counted by its cause. Any other is taken from the mortar, or fills a clean line
there, counted, and its check line is the buffer's most recently used, of at most 64 (R385); where every way of its set is out of
service it fills none and counts none. Memory stays as it was. REPOINT_LINE (R34, R404): while the unit's domain runs, its next line is
the one after, the last's the first; a corrected line is counted; a line that holds data or check bytes takes the response of a code
word error there, and an uncorrectable one of the mortar, dirty or clean, or of a bed cache is poisoned. GDDR7_RETRAIN (R34, R403):
noted by tick, at most once in 100 ms a channel, while the pier runs. EVACUATION_COPY_DONE (R387, R492): a copy that is done leaves the
switch to come, or, where no U header has run on the pier since start, the spare in the channel's place at once, with no evacuation and
no spare, and the repairs that waited for it made; without a copy under way nothing. The model's readings in it: logs 46, 49, 93 and
101. Completes: RUN_AHEAD_FETCH, REPOINT_LINE, GDDR7_RETRAIN, EVACUATION_COPY_DONE. -/
def Obligations.upkeep : Prop :=
  (∀ (c : CoreId) (a : Nat) (bad : Bool) (s : State),
    let p := c.pier
    let line := lineOf a
    let error := bad = true ∨ line ∈ s.poison
    let drop := fun k => exec (.runAheadFetch c a bad) s = .next { s with counters := s.counters.addSat (pierCtr p k) 1 }
    let ahead := s.courseRuns ⟨p, c.course⟩ = true ∧
      ∃ r ∈ (s.pier p).runs, r.core = coreNo c ∧ ∃ top ∈ r.tops, top < line ∧ line ≤ top + 512
    (¬ahead → exec (.runAheadFetch c a bad) s = .next s) ∧
    (ahead →
      (s.place line = .absent → drop kDropAbsent) ∧
      (∀ q off, s.place line = .control q off → drop kDropNospec) ∧
      (∀ h, s.memHome line = some h → h ≠ p → drop kDropForeign) ∧
      (∀ q off, s.place line = .cxl q off → s.memHome line = some p → (s.pier p).holds line = false → drop kDropCxl) ∧
      (s.memHome line = some p → (s.pier p).holds line = true ∨ (∃ h off, s.place line = .gddr h off) → error → drop kDropError) ∧
      (s.memHome line = some p → (s.pier p).holds line = true → ¬error → exec (.runAheadFetch c a bad) s = .next s) ∧
      (∀ h off, s.place line = .gddr h off → s.memHome line = some p → (s.pier p).holds line = false → ¬error →
        ∃ t, exec (.runAheadFetch c a bad) s = .next t ∧
          t.counters = (if (s.pier p).bypassed (mortIx line) then s.counters else s.counters.addSat (pierCtr p kSpecFill) 1) ∧
          (t.pier p).holds line = !(s.pier p).bypassed (mortIx line) ∧
          (∀ l ∈ (t.pier p).mortar, l.line = line → l.dirty = false) ∧
          (∀ l ∈ (t.pier p).mortar, l.line ≠ line → l ∈ (s.pier p).mortar) ∧
          ((∀ l ∈ (s.pier p).mortar, l.dirty = false) →
            let n := (checkOf line).1
            let rest := (s.pier p).checks.filter fun y => y.num != n
            (t.pier p).checks = (s.pier p).checkAt n :: rest.take 63 ∧
            ∀ old, rest[63]? = some old → old.written ≠ 0 → (t.pier p).checkCell old.num = old.bytes) ∧
          (∀ r, r ≠ p → t.pier r = s.pier r) ∧ (t.pier p).bed = (s.pier p).bed ∧
          (t.pier p).butCaches = (s.pier p).butCaches ∧
          t = { s with piers := t.piers, counters := t.counters }))) ∧
  (∀ (u : RepointUnit) (line : Nat) (res : EccResult) (s : State),
    let p := (repointIx u).1
    let ix := (repointIx u).2.1
    (s.repointRuns u = false → exec (.repointLine u line res) s = .next s) ∧
    (s.repointRuns u = true → ∃ ts : Table, ts.get ix = (line + 1) % (repointIx u).2.2 ∧ (∀ j, j ≠ ix → ts.get j = (s.pier p).repoint.get j) ∧
      let moved := s.updPier p fun pr => { pr with repoint := ts }
      let read : State := { moved with counters := match res with
        | .corrected _ _ => s.counters.addSat (pierCtr p kRepointFixed) 1
        | _ => s.counters };
      ∃ t, exec (.repointLine u line res) s = .next t ∧
        match s.repointPlace u line with
        | some x => ∃ v, exec (.codewordError x res) read = .next v ∧ t = { v with poison := t.poison } ∧
            ∀ l, l ∈ t.poison ↔ l ∈ v.poison ∨ ∃ a syndrome, ((∃ p, x = .mortar p a) ∨ ∃ c, x = .bed c a) ∧
              res = .uncorrectable syndrome ∧ l = lineOf a
        | none => t = read)) ∧
  (∀ (p : PierId) (ch : Fin 7) (s : State),
    let last := (s.pier p).retrained.get ch.val
    (s.runs p = false ∨ last ≠ 0 ∧ s.tick + 1 < last + 5000000 → exec (.gddr7Retrain p ch) s = .next s) ∧
    (s.runs p = true → last = 0 ∨ last + 5000000 ≤ s.tick + 1 →
      ∃ ts : Table, exec (.gddr7Retrain p ch) s = .next (s.updPier p fun pr => { pr with retrained := ts }) ∧
        ts.get ch.val = s.tick + 1 ∧ ∀ j, j ≠ ch.val → ts.get j = (s.pier p).retrained.get j)) ∧
  ∀ (p : PierId) (s : State),
    let w := (s.pier p).chanMap.toNat
    let l := fld w 25 23
    (fld w 22 21 ≠ 1 → exec (.evacuationCopyDone p) s = .next s) ∧
    (fld w 22 21 = 1 → s.uRan.get p.val ≠ 0 → ∃ t, exec (.evacuationCopyDone p) s = .next t ∧
      t.piers = (s.updPier p fun pr => { pr with chanMap := BitVec.ofNat 64 (setFld w 22 21 2) }).piers ∧
      t = { s with piers := t.piers, counters := t.counters, held := t.held }) ∧
    (fld w 22 21 = 1 → s.uRan.get p.val = 0 → l < 6 → ∃ t, exec (.evacuationCopyDone p) s = .next t ∧
      let m := (t.pier p).chanMap.toNat
      let but := fun (pr : Pier) => { pr with chanMap := 0, spareStatus := 0, failed := [], evacNext := none, repairing := [] };
      fld m 22 21 = 0 ∧ fld m 20 18 = 7 ∧ fld m (3 * l + 2) (3 * l) = fld w 20 18 ∧
      (∀ j, j < 6 → j ≠ l → fld m (3 * j + 2) (3 * j) = fld w (3 * j + 2) (3 * j)) ∧
      bitAt (t.pier p).spareStatus.toNat 8 = true ∧ (t.pier p).evacNext = none ∧
      (∀ r, r ≠ p → (t.pier r).butCaches.butWake = (s.pier r).butCaches.butWake) ∧
      (∀ y ∈ (t.pier p).repairing, y ∈ (s.pier p).repairing ∧ y.unit ≠ none) ∧
      (but (t.pier p)).butCaches.butWake = (but (s.pier p)).butCaches.butWake ∧
      ((∀ y ∈ (s.pier p).repairing, y.unit ≠ none) → t.mem = s.mem ∧ t.poison = s.poison ∧ t.edgeRot = s.edgeRot ∧
        but (t.pier p) = but (s.pier p) ∧ ∀ r, r ≠ p → t.pier r = s.pier r) ∧
      (∀ i : Nat, ∃ cause unit : Nat, t.requests[i]? = (s.requests[i]?).map fun (r : Request) => { r with cause := cause, unit := unit }) ∧
      t = { s with
        mem := t.mem, poison := t.poison, piers := t.piers, counters := t.counters, held := t.held, degraded := t.degraded
        free := t.free, requests := t.requests, edgeRot := t.edgeRot, crossHeld := t.crossHeld, crossPtr := t.crossPtr })

/-- CXL_DEVICE_ARRIVAL (R389 to R391): with power, at a port whose window is absent, a partner shows as far as the steps succeed:
present once its signal is stable; link, width and speed once trained with CXL negotiation; refused where it is not attached directly
or is no single Type 3 memory device; one that is active in time and programmed registers the whole multiples of 256 MiB up to 2 TiB of
its capacity, which are present from then on. CXL_ORDERLY_DEPARTURE and CXL_SURPRISE_DEPARTURE (R351, R392): every field of the port
but present is 0, no line of its window is in the mortar. An orderly departure first drains the quoin's deferral queue until no entry
is for the port, where a trowel of the quoin is in service; at a surprise the queue's entries for it are dropped and counted, the bytes of dirty lines are again what the device
held, and the lines counted. The model's readings in it: log 3. Completes: CXL_DEVICE_ARRIVAL, CXL_ORDERLY_DEPARTURE,
CXL_SURPRISE_DEPARTURE. -/
def Obligations.cxl_tier : Prop :=
  (∀ (q : Fin 8) (dev : CxlDevice) (s : State),
    (s.power.regulators = false ∨ (s.cxlPort q).registered = true → exec (.cxlDeviceArrival q dev) s = .next s) ∧
    (s.power.regulators = true → (s.cxlPort q).registered = false →
      let seen : CxlPort := { CxlPort.reset with present := true }
      ∃ t, exec (.cxlDeviceArrival q dev) s = .next t ∧ (∀ r, r ≠ q → t.cxlPort r = s.cxlPort r) ∧
        t = { s with cxl := t.cxl, counters := t.counters, held := t.held } ∧
        (dev.stable = false → t.cxlPort q = seen) ∧
        (dev.stable = true → dev.trained = none → t.cxlPort q = { seen with refused := !dev.direct }) ∧
        ∀ w r, dev.stable = true → dev.trained = some (w, r) →
          let trained : CxlPort := { seen with linkUp := true, width := 16 / 2 ^ w.val, speed := 3 - r.val };
          (dev.direct = false ∨ dev.memory = false → t.cxlPort q = { trained with refused := true }) ∧
          (dev.direct = true → dev.memory = true → dev.active = false ∨ dev.programmed = false → t.cxlPort q = trained) ∧
          (dev.direct = true → dev.memory = true → dev.active = true → dev.programmed = true →
            let size := min (256 * (dev.capacityMib / 256)) 0x20_0000
            t.cxlPort q = { trained with
              registered := true, truncated := decide (0x20_0000 < dev.capacityMib), sizeMib := size } ∧
            (∀ off, off < 0x10_0000 * size → t.place (cxlBase q + off) = .cxl q off) ∧
            ∀ off, 0x10_0000 * size ≤ off → off < 0x200_0000_0000 → t.place (cxlBase q + off) = .absent))) ∧
  ∀ (q : Fin 8) (s : State), Sound s →
    let k := cxlQuoin q
    let lines := s.windowLines q
    let mine := (s.quoin k).queue.filter fun x => x.port == q.val
    let plain := ∀ x ∈ mine, ¬(x.last = true ∧ x.apply = true)
    ((s.cxlPort q).partnered = false →
      exec (.cxlOrderlyDeparture q) s = .next s ∧ exec (.cxlSurpriseDeparture q) s = .next s) ∧
    ((s.cxlPort q).partnered = true →
      (∃ t, exec (.cxlOrderlyDeparture q) s = .next t ∧
        t.cxlPort q = { CxlPort.reset with present := (s.cxlPort q).present } ∧ (∀ r, r ≠ q → t.cxlPort r = s.cxlPort r) ∧
        (∀ l ∈ (t.pier (cornerPier k)).mortar, s.inWindow q l.line = false) ∧
        (fld (s.quoin k).out 1 0 ≠ 3 → ∀ x ∈ (t.quoin k).queue ++ (t.quoin k).placing, x.port ≠ q.val) ∧ (∀ r, r ≠ k → t.quoin r = s.quoin r) ∧
        ((∀ x ∈ (s.quoin k).queue ++ (s.quoin k).placing, x.port ≠ q.val) → s.drainingTo q = [] →
          (∀ r, { t.pier r with mortar := [] } = { s.pier r with mortar := [] }) ∧
          t = { s with piers := t.piers, cxl := t.cxl, counters := t.counters, held := t.held }) ∧
        t = { s with
          mem := t.mem, poison := t.poison, piers := t.piers, quoins := t.quoins, cxl := t.cxl, counters := t.counters
          free := t.free, held := t.held, queues := t.queues, edgeRot := t.edgeRot, linkHeld := t.linkHeld
          crossHeld := t.crossHeld, crossPtr := t.crossPtr }) ∧
      ∃ t, exec (.cxlSurpriseDeparture q) s = .next t ∧
        t.cxlPort q = { CxlPort.reset with present := (s.cxlPort q).present } ∧ (∀ r, r ≠ q → t.cxlPort r = s.cxlPort r) ∧
        (∀ l ∈ (t.pier (cornerPier k)).mortar, s.inWindow q l.line = false) ∧
        t.quoins = (s.updQuoin k fun w => { w with
          queue := w.queue.filter fun x => x.port != q.val
          discard := w.discard && !((w.queue.head?).any fun x => x.port == q.val) }).quoins ∧
        t.counters.get (trwReg k 0x20) = (if mine = [] then s.counters.get (trwReg k 0x20)
          else min (s.counters.get (trwReg k 0x20) + mine.length) 0xFFFF_FFFF_FFFF_FFFF) ∧
        (let n := (lines.filter fun l => l.dirty).length;
          t.counters.get (cxlReg q 8) = if n = 0 then s.counters.get (cxlReg q 8)
            else min (s.counters.get (cxlReg q 8) + n) 0xFFFF_FFFF_FFFF_FFFF) ∧
        (plain → ∀ a, memGet t.mem a ≠ memGet s.mem a → ∃ l ∈ lines, l.dirty = true ∧ ∃ bs i, l.under = some bs ∧ i < bs.length ∧
          a = wrap52 (l.line + i) ∧ memGet t.mem a = byteAt bs i) ∧
        (plain → (∀ x ∈ lines, x.line % 64 = 0 ∧ x.line < 2 ^ 52 ∧ (∀ bs, x.under = some bs → bs.length = 64) ∧
            ∀ y ∈ lines, x.line = y.line → x = y) →
          ∀ l ∈ lines, l.dirty = true → ∀ bs, l.under = some bs → ∀ i, i < 64 → memGet t.mem (l.line + i) = byteAt bs i) ∧
        (plain → t.poison = s.poison ∧ t = { s with
          mem := t.mem, piers := t.piers, quoins := t.quoins, cxl := t.cxl, counters := t.counters, held := t.held } ∧
          ∀ r, { t.pier r with mortar := [], ckpt := none, ckptPhase := 0, ckptDrainOk := false } =
            { s.pier r with mortar := [], ckpt := none, ckptPhase := 0, ckptDrainOk := false }) ∧
        (let but := fun (pr : Pier) => { pr.butCaches.butWake with
            ckpt := none, ckptPhase := 0, ckptDrainOk := false, keyArriving := [] };
          ∀ r, but (t.pier r) = but (s.pier r)) ∧
        t = { s with
          mem := t.mem, poison := t.poison, piers := t.piers, quoins := t.quoins, cxl := t.cxl, counters := t.counters
          held := t.held, edgeRot := t.edgeRot, linkHeld := t.linkHeld, crossHeld := t.crossHeld, crossPtr := t.crossPtr })

/-! ## Sleep, wake and crossings -/

/-- COURSE_SLEEP and PIER_SLEEP (R431, R432, R433): where its entry delay is not 0, a course that has been idle for the whole of its
window stops its clock; a pier likewise its mortar domain, with its dirty CXL lines written back. Memory, mortar, bed memory and keystones
stay; a busy one goes on. PIER_WAKE, COURSE_WAKE and REPOINTING_WAKE (R293, R434, R435, R436): a domain that may run runs, a pier's bond
position from 0, what waited at its crossings has crossed, and its idle window begins again. The first pier that wakes and the last that
sleeps make an event of the power state (R510, R530). The model's readings in it: logs 17 and 22. Completes: COURSE_SLEEP, PIER_SLEEP,
PIER_WAKE, COURSE_WAKE, REPOINTING_WAKE. -/
def Obligations.sleeps_and_wakes : Prop :=
  (∀ (c : CourseId) (s : State),
    let pr := s.pier c.pier
    let delay := cdiv (256 * fld pr.cfg.sleep.toNat 15 0) 26
    let idle := delay ≠ 0 ∧ s.courseBusy c = false ∧ pr.courseStir.get c.course.val + 1 + delay ≤ s.tick
    (¬idle → exec (.courseSleep c) s = .next s) ∧
    (idle → ∃ cs, exec (.courseSleep c) s = .next (s.updPier c.pier fun pr => { pr with coursesAwake := cs }) ∧
      ∀ n, n ∈ cs ↔ n ∈ pr.coursesAwake ∧ n ≠ c.course.val)) ∧
  (∀ (p : PierId) (s : State),
    let delay := fld (s.pier p).cfg.sleep.toNat 47 16
    let idle := delay ≠ 0 ∧ s.pierBusy p = false ∧ (s.pier p).stirred + 1 + delay ≤ s.tick
    let last := s.power.regulators = true ∧ ∀ r, r ≠ p → (s.pier r).awake = false
    ((s.pier p).awake = false ∨ ¬idle → exec (.pierSleep p) s = .next s) ∧
    ((s.pier p).awake = true → idle → ∃ m t, exec (.pierSleep p) s = .next t ∧
      t.piers = (s.updPier p fun pr => { pr with awake := false, mortar := m }).piers ∧
      m.length = (s.pier p).mortar.length ∧
      (∀ (i : Nat) (l : MortLine), (s.pier p).mortar[i]? = some l →
        ((∃ q off, s.place l.line = .cxl q off) → m[i]? = some { l with dirty := false, under := none }) ∧
        ((∀ q off, s.place l.line ≠ .cxl q off) → m[i]? = some l)) ∧
      (¬last → t.held = s.held ∧ t.counters = s.counters) ∧ (last → s.Logs t (s.runRecord 2)) ∧
      t = { s with piers := t.piers, held := t.held, counters := t.counters })) ∧
  (∀ (p : PierId) (s : State),
    let may := s.mayRun p (.mortar p)
    let n := domainNo (.mortar p)
    let first := ∀ r, (s.pier r).awake = false
    (may = false → exec (.pierWake p) s = .next s ∧ exec (.repointingWake p none) s = .next s) ∧
    (may = true → (s.pier p).awake = true →
      let t := s.updPier p fun pr => { pr with stirred := s.tick };
      exec (.pierWake p) s = .next t ∧ exec (.repointingWake p none) s = .next t) ∧
    (may = true → (s.pier p).awake = false →
      ∃ t, exec (.pierWake p) s = .next t ∧ exec (.repointingWake p none) s = .next t ∧
        t.piers = (s.updPier p fun pr => { pr with awake := true, bondPos := 0, stirred := s.tick }).piers ∧
        t.crossHeld.get n = 0 ∧ t.crossPtr.get n = (s.crossPtr.get n + s.crossHeld.get n) % 16 ∧
        (∀ k, k ≠ n → t.crossPtr.get k = s.crossPtr.get k ∧ (k ≠ 1000 + n → t.crossHeld.get k = s.crossHeld.get k)) ∧
        (¬first → t.held = s.held ∧ t.counters = s.counters) ∧ (first → s.Logs t (s.runRecord 3)) ∧
        t = { s with
          piers := t.piers, crossHeld := t.crossHeld, crossPtr := t.crossPtr, held := t.held, counters := t.counters })) ∧
  ∀ (c : CourseId) (s : State),
    (s.mayRun c.pier (.mortar c.pier) = false ∨ s.mayRun c.pier (.course c) = false →
      exec (.courseWake c) s = .next s ∧ exec (.repointingWake c.pier (some c.course)) s = .next s) ∧
    (s.mayRun c.pier (.mortar c.pier) = true → s.mayRun c.pier (.course c) = true →
      let p := s.pier c.pier
      let wakes := fun (d : Domain) => d = .mortar c.pier ∧ p.awake = false ∨ d = .course c ∧ c.course.val ∉ p.coursesAwake
      let first := ∀ r, (s.pier r).awake = false
      ∃ t, exec (.courseWake c) s = .next t ∧ exec (.repointingWake c.pier (some c.course)) s = .next t ∧
        t.piers = (s.updPier c.pier fun pr => { pr with
          awake := true, bondPos := if p.awake then p.bondPos else 0
          stirred := s.tick, courseStir := p.courseStir.set c.course.val s.tick
          coursesAwake := if c.course.val ∈ p.coursesAwake then p.coursesAwake else p.coursesAwake ++ [c.course.val] }).piers ∧
        (∀ d, wakes d → t.crossHeld.get (domainNo d) = 0 ∧
          t.crossPtr.get (domainNo d) = (s.crossPtr.get (domainNo d) + s.crossHeld.get (domainNo d)) % 16) ∧
        (∀ n, (∀ d, wakes d → n ≠ domainNo d) → t.crossPtr.get n = s.crossPtr.get n ∧
          ((∀ d, wakes d → n ≠ 1000 + domainNo d) → t.crossHeld.get n = s.crossHeld.get n)) ∧
        (¬first → t.held = s.held ∧ t.counters = s.counters) ∧ (first → s.Logs t (s.runRecord 3)) ∧
        t = { s with
          piers := t.piers, crossHeld := t.crossHeld, crossPtr := t.crossPtr, held := t.held, counters := t.counters })

/-- IN_PIER_RESET_FLUSH (R429): what a pier's mortar held for a reset course or mason core is discarded; the queues stay.
BOUNDARY_RESYNC (R430): after a reset across any other crossing the pointers start at 0 and the held entries are sent again.
DOMAIN_DECLARED_FAILED (R437, R438): counted and recorded by the active Skovlaper; nothing waits at the domain's crossing, the
domain stands stopped, an idle spare out of its pool, and undelivered requests that touch it are to be late with cause 2. One that
counts as failed already, one before which entries have waited for less than 4,096 ticks, or any while no active Skovlaper runs,
changes nothing. The model's readings in it: logs 63 and 95.
Completes: IN_PIER_RESET_FLUSH, BOUNDARY_RESYNC, DOMAIN_DECLARED_FAILED. -/
def Obligations.resets_and_failures : Prop :=
  (∀ (d : Domain) (s : State),
    (inPier d = true → ∃ h : Table, exec (.inPierResetFlush d) s = .next { s with crossHeld := h } ∧ h.get (domainNo d) = 0 ∧
      h.get (1000 + domainNo d) = 0 ∧ ∀ n, n ≠ domainNo d → n ≠ 1000 + domainNo d → h.get n = s.crossHeld.get n) ∧
    (inPier d = false → exec (.inPierResetFlush d) s = .next s) ∧
    (inPier d = true → exec (.boundaryResync d) s = .next s) ∧
    (inPier d = false → ∃ h r : Table, exec (.boundaryResync d) s = .next { s with crossHeld := h, crossPtr := r } ∧
      h.get (domainNo d) = 0 ∧ h.get (1000 + domainNo d) = 0 ∧ r.get (domainNo d) = s.crossHeld.get (domainNo d) % 16 ∧
      ∀ n, n ≠ domainNo d → r.get n = s.crossPtr.get n ∧ (n ≠ 1000 + domainNo d → h.get n = s.crossHeld.get n))) ∧
  ∀ (d : Domain) (crossing : Nat) (s : State),
    let waits := s.crossHeld.get (domainNo d)
    let young := waits ≠ 0 ∧ s.tick + 1 < s.crossHeld.get (1000 + domainNo d) + 4096
    (s.activeUp = false ∨ s.isFailed d = true ∨ young → exec (.domainDeclaredFailed d crossing) s = .next s) ∧
    (s.activeUp = true → s.isFailed d = false → ¬young →
      let pins := (∀ l e, d ≠ .linkEnd l e) ∧ ∀ q, d ≠ .cxl q
      ∃ t, exec (.domainDeclaredFailed d crossing) s = .next t ∧ s.Counts t (skovReg s.activeD 0x20) ∧
        t.crossHeld.get (domainNo d) = 0 ∧
        (pins → (∀ n, n ≠ domainNo d → n ≠ 1000 + domainNo d → t.crossHeld.get n = s.crossHeld.get n) ∧ t.crossPtr = s.crossPtr ∧ t.edgeRot = s.edgeRot) ∧
        (∀ p, domainPier d = some p → domainNo d ∈ (t.pier p).failed) ∧
        (∀ p, domainPier d ≠ some p → (t.pier p).failed = (s.pier p).failed) ∧
        (∀ c, d = .course c → c.course.val ∉ (t.pier c.pier).coursesAwake ∧ ∃ x ∈ t.sounding, x.unit = .course c) ∧
        (∀ p, d = .mortar p → (t.pier p).awake = false ∧ (t.pier p).coursesAwake = []) ∧
        (∀ p k, d = .mason p k → ∃ x ∈ t.sounding, x.unit = .mason p k) ∧
        (∀ p, d = .spareCourse p → (t.pier p).idleCourse = none) ∧ (∀ p, d = .spareMason p → (t.pier p).idleMason = none) ∧
        (∀ p ch, d = .gddr p ch → ∃ x ∈ t.sounding, x.unit = .gddrInterface p ch) ∧
        (∀ l e, d = .linkEnd l e → l.val ∈ t.retired) ∧
        (∀ q, d = .cxl q → (t.cxlPort q).registered = false) ∧
        (∀ p, d = .plumbline p → (t.port p).linked = false ∧ (t.port p).bound = false) ∧
        (∀ q, d = .quoin q → 100 + q.val ∈ t.degraded ∧
          (q = portQuoin s.seqPort → ∃ x ∈ t.sounding, x.unit = .moduleSequencer)) ∧
        (∀ r ∈ s.requests, r.delivered = false → s.touches d r = true →
          ∃ y ∈ t.requests, y.number = r.number ∧ y.failed = true ∧ y.cause = 2 ∧ y.unit = (s.domainWho d).unit) ∧
        (∀ q x, s.head q = some x → x.busy = true → x.phase ≠ .closing → needsDomain d x.hdr = true →
          ∃ y, t.head q = some y ∧ y.hdr = x.hdr ∧ y.phase = .ran ∧ y.status = 1 ∧ y.jobs = 0) ∧
        ((∀ q, d ≠ .cxl q) → t.mem = s.mem ∧ t.poison = s.poison ∧ t.quoins = s.quoins) ∧
        t = { s with
          mem := t.mem, poison := t.poison, piers := t.piers, quoins := t.quoins, cxl := t.cxl, ports := t.ports
          counters := t.counters, queues := t.queues, waitingSubs := t.waitingSubs, crossHeld := t.crossHeld
          crossPtr := t.crossPtr, edgeRot := t.edgeRot, linkHeld := t.linkHeld, linkFails := t.linkFails, requests := t.requests
          held := t.held, sounding := t.sounding, retired := t.retired, testing := t.testing, degraded := t.degraded
          session := t.session, admits := t.admits, linkKept := t.linkKept, skovs := t.skovs, accepts := t.accepts
          promises := t.promises })

/-! ## Errors, soundings and spares -/

/-- CODEWORD_ERROR (R34, R384 to R387, R389, R484, R485, R487): a code word that comes out clean changes nothing, nor does one in a domain
that does not run. An error is counted by its place, recorded, and its unit sounded. A corrected GDDR 7 line is rewritten: its 8 check bytes change in the buffer, and a check line of
which all eight data lines have been written goes to its device. An uncorrectable error first takes its row's response: a GDDR 7 line
that no copy on the spare serves, or a dirty line of the mortar or a mason L2, is poisoned, a clean mortar line or bed line dropped, a
stationary tile lost, a table store no longer available, the header whose accumulator it was in ends with error; of a check line some of its data
lines are poisoned. Disagreeing keystone copies keep their value; poison that a CXL device returns poisons the line. Memory stays as it
was. Of a Skovlaper's SRAM an error is recorded. The model's readings in it: logs 16, 23, 34, 45, 91 and 100. Completes:
CODEWORD_ERROR. -/
def Obligations.codeword_errors : Prop :=
  ∀ (x : EccPlace) (s : State),
    let sp := s.spotOf x
    let record := fun (cls severity response d0 d1 : Nat) => ({ errorRecord cls severity sp.kind response sp.unit s.tick with
      address := sp.addr, die := sp.die, physical := sp.physical, detail0 := d0, detail1 := d1 } : Record);
    let counts := fun (t : State) (b : Bool) => (∀ d, x ≠ .skovSram d) → s.Counts t (x.counter sp b)
    let sounds := fun (t : State) => ∀ u, sp.sounded = some u → s.Sounds t u false
    let but := fun (pr : Pier) => match sp.sounded with
      | some u => { pr.butOut u with checks := [], checkCells := [] }
      | none => pr
    let plain := (∀ k c, x ≠ .keystone k c) ∧ ∀ q a, x ≠ .cxlPoison q a
    let runs := s.spotRuns x = true
    exec (.codewordError x .clean) s = .next s ∧ (¬runs → ∀ res, exec (.codewordError x res) s = .next s) ∧
    (∀ symbol syndrome, plain → runs → ∃ t, exec (.codewordError x (.corrected symbol syndrome)) s = .next t ∧
      counts t true ∧ s.Logs t (record 1 1 (if sp.sounded = none then 1 else 5) symbol syndrome) ∧ sounds t ∧
      (∀ p a, x = .gddr p a →
        let n := (checkOf (lineOf a)).1
        let i := (checkOf (lineOf a)).2
        let c := (s.pier p).checkAt n
        let bytes := c.bytes.take (8 * i) ++ checkBytes (memRead s.mem (lineOf a) 64) ++ c.bytes.drop (8 * i + 8)
        let written := c.written ||| 2 ^ i
        (t.pier p).checks.head? = some ⟨n, bytes, if written = 255 then 0 else written⟩ ∧
        (written = 255 → (t.pier p).checkCell n = bytes)) ∧
      ((∀ p a, x ≠ .gddr p a) → (∀ p a, x ≠ .mortar p a) → (t.pier sp.pier).checks = (s.pier sp.pier).checks) ∧
      (∀ r, r ≠ sp.pier → t.pier r = s.pier r) ∧ but (t.pier sp.pier) = but (s.pier sp.pier) ∧
      t = { s with piers := t.piers, counters := t.counters, held := t.held, sounding := t.sounding }) ∧
    (∀ k copies res, x = .keystone k copies → res ≠ .clean → runs → ∃ t, exec (.codewordError x res) s = .next t ∧
      s.Logs t (record 3 1 5 k.val copies.val) ∧ sounds t ∧ (∀ i, (t.pier sp.pier).keyAt i = (s.pier sp.pier).keyAt i) ∧
      (t.pier sp.pier).keys.get (keyLocal k.val) = (s.pier sp.pier).keyAt (keyLocal k.val) ∧
      (∀ r, r ≠ sp.pier → t.pier r = s.pier r) ∧
      { t.pier sp.pier with keys := [], keys1 := [], keys2 := [] } = { s.pier sp.pier with keys := [], keys1 := [], keys2 := [] } ∧
      t = { s with piers := t.piers, counters := t.counters, held := t.held, sounding := t.sounding }) ∧
    (∀ q a res, x = .cxlPoison q a → res ≠ .clean → runs → ∃ t, exec (.codewordError x res) s = .next t ∧
      (∀ l, l ∈ t.poison ↔ l ∈ s.poison ∨ s.inWindow q a = true ∧ l = lineOf a) ∧ t = { s with poison := t.poison }) ∧
    ∀ syndrome, plain → runs →
      let bad := s.poisonedBy x
      let how : Nat × Nat × Nat := match x with
        | .accumulator _ _ => (3, 3, 3)
        | .tableStore _ => (4, 2, 5)
        | .checkLine _ _ _ => (5, 3, 3)
        | .skovSram _ => (0, 3, 0)
        | .gddr _ _ => if bad.isSome then (5, 3, 3) else (5, 2, 2)
        | _ => if bad.isSome then (5, 3, 3) else (2, 2, 2);
      ∃ t, exec (.codewordError x (.uncorrectable syndrome)) s = .next t ∧
        counts t false ∧ s.Logs t (record 2 how.2.1 how.2.2 how.1 syndrome) ∧ sounds t ∧
        ((∀ p ch line, x ≠ .checkLine p ch line) → ∀ l, l ∈ t.poison ↔ l ∈ s.poison ∨ bad = some l) ∧
        (∀ p ch line, x = .checkLine p ch line →
          let mine := s.checkedLines p ch.val line
          (∀ l ∈ s.poison, l ∈ t.poison) ∧ (∀ l ∈ t.poison, l ∈ s.poison ∨ l ∈ mine) ∧
          (mine ≠ [] → ∃ l ∈ mine, l ∈ t.poison)) ∧
        (∀ c a, x = .bed c a → ∀ b ∈ (t.pier c.pier).bed, b.course = c.course.val → b.line = lineOf a → b.inCore c.core.val = false) ∧
        (∀ c, x = .stationary c → ∀ b ∈ (t.pier c.pier).tiles, b.course ≠ c.course.val) ∧
        (∀ c, x = .tableStore c → ∀ b ∈ (t.pier c.pier).stores, b.core ≠ coreNo c) ∧
        (∀ p a, x = .mortar p a → bad = none → (t.pier p).holds (lineOf a) = false) ∧
        (∀ c q y, x = .accumulator c q → s.head q = some y → y.phase = .ready ∨ y.phase = .table →
          t.queue q = { y with status := 1, bad := some (c, Config.freeNat s.free) } :: (s.queue q).tail) ∧
        (∀ k, (∀ c, x ≠ .accumulator c k) → t.queue k = s.queue k) ∧
        (∀ r, r ≠ sp.pier → t.pier r = s.pier r) ∧
        { but (t.pier sp.pier) with tiles := [], stores := [], mortar := [], bed := [] } =
          { but (s.pier sp.pier) with tiles := [], stores := [], mortar := [], bed := [] } ∧
        t = { s with
          poison := t.poison, piers := t.piers, counters := t.counters, free := t.free, held := t.held, queues := t.queues
          sounding := t.sounding }

/-- MARGIN_MONITOR_TRIP (R487): counted, recorded, and its unit sounded. SOUNDING_RESULT (R17, R112, R356, R488, R490): the end of a
unit's sounding; with none under way, or a lane group's, nothing, nor while the spare of a core or course waits for the course to
become quiescent; a spare that need not wait stands in first. A failed test is a lasting fault: the idle spare of its kind takes the
unit's place, or its partner does; a mortar set is repaired or loses a way; a channel's evacuation begins; a chisel engine stays
out; a trowel leaves its partner; quoin C's sequencer takes over from quoin A's. A passed one, without a margin monitor's trip and fewer
than two soundings before it in 24 hours, is transient: the unit is back, or the spare of its kind. The model's readings in it: logs 34,
59, 60 and 90. Completes: MARGIN_MONITOR_TRIP, SOUNDING_RESULT. -/
def Obligations.soundings : Prop :=
  (∀ (u : SUnit) (monitor code : Nat) (s : State),
    let w := s.who u
    ∃ t, exec (.marginMonitorTrip u monitor code) s = .next t ∧
      s.Logs t { errorRecord 0x05 1 w.kind 5 w.unit s.tick with
        die := w.die, physical := w.physical, detail0 := monitor, detail1 := code } ∧ s.Sounds t u true ∧
      (∀ c, u = .core c → s.Counts t (pierCtr c.pier kMarginTrip)) ∧ (∀ c, u = .course c → s.Counts t (pierCtr c.pier kMarginTrip)) ∧
      (∀ p, (t.pier p).butOut u = (s.pier p).butOut u) ∧ (∀ q, { t.quoin q with out := 0 } = { s.quoin q with out := 0 }) ∧
      t = { s with
        piers := t.piers, quoins := t.quoins, counters := t.counters, held := t.held, sounding := t.sounding }) ∧
  (∀ l d g res s, exec (.soundingResult (.laneGroup l d g) res) s = .next s) ∧
  (∀ u res s, (∀ x ∈ s.sounding, x.unit ≠ u) → exec (.soundingResult u res) s = .next s) ∧
  (∀ p k res s, s.awaitsSpare (.mason p k) = true → (∀ x ∈ s.sounding, x.unit = .mason p k → x.old = none) →
    exec (.soundingResult (.mason p k) res) s = .next s) ∧
  (∀ c res s, s.awaitsSpare (.core c) = true →
    (s.courseRunning ⟨c.pier, c.course⟩ = true → (∀ x ∈ s.sounding, x.unit = .core c → x.old = none) → exec (.soundingResult (.core c) res) s = .next s) ∧
    (s.courseRunning ⟨c.pier, c.course⟩ = false → ∃ t, exec (.spareTakeover (.core c)) s = .next t ∧
      exec (.soundingResult (.core c) res) s = exec (.soundingResult (.core c) res) t)) ∧
  (∀ c res s, s.awaitsSpare (.course c) = true →
    (s.courseRunning c = true → (∀ x ∈ s.sounding, x.unit = .course c → x.old = none) → exec (.soundingResult (.course c) res) s = .next s) ∧
    (s.courseRunning c = false → ∃ t, exec (.spareTakeover (.course c)) s = .next t ∧
      exec (.soundingResult (.course c) res) s = exec (.soundingResult (.course c) res) t)) ∧
  ∀ (u : SUnit) (s : State) (x : Sounding), (∀ l d g, u ≠ .laneGroup l d g) → s.awaitsSpare u = false →
    s.sounding.find? (fun x => x.unit == u) = some x →
    let ended := fun (t : State) => t.sounding.length + 1 = s.sounding.length ∧
      (∀ y, y.unit ≠ u → (y ∈ t.sounding ↔ y ∈ s.sounding)) ∧
      ((∀ p ch r, u ≠ .gddrRegion p ch r) → t.mem = s.mem ∧ t.poison = s.poison ∧ t.edgeRot = s.edgeRot ∧
        t.crossHeld = s.crossHeld ∧ ∀ r, r.val ≠ (s.who u).die → (t.pier r).butEnded = (s.pier r).butEnded) ∧
      ((∀ c, u ≠ .core c) → (∀ c, u ≠ .course c) → t.queues = s.queues ∧ t.linkHeld = s.linkHeld) ∧
      (∀ p ch r, u = .gddrRegion p ch r → ∀ y ∈ (t.pier p).repairing, y.unit ≠ some u) ∧
      (u ≠ .moduleSequencer → t.seqOnC = s.seqOnC) ∧
      t = { s with
        mem := t.mem, poison := t.poison, piers := t.piers, quoins := t.quoins, counters := t.counters, free := t.free
        held := t.held, sounding := t.sounding, requests := t.requests, degraded := t.degraded, seqOnC := t.seqOnC
        queues := t.queues, linkHeld := t.linkHeld, edgeRot := t.edgeRot, crossHeld := t.crossHeld, crossPtr := t.crossPtr };
    (∃ t, exec (.soundingResult u .failed) s = .next t ∧ ended t ∧ s.Counts t (skovReg s.activeD 0x38) ∧
      (∀ c, u = .core c → x.old = none → c.pier.val ∈ t.degraded ∧
        (t.pier c.pier).physCore c.course.val c.core.val = (s.pier c.pier).physCore c.course.val (c.core.val ^^^ 1)) ∧
      (∀ c, u = .course c → x.old = none → c.pier.val ∈ t.degraded ∧
        (t.pier c.pier).physCourse c.course.val = (s.pier c.pier).physCourse (c.course.val ^^^ 1)) ∧
      (∀ p k, u = .mason p k → x.old = none →
        (∀ n, (s.pier p).idleMason = some n → (t.pier p).idleMason = none ∧ ∀ m, (t.pier p).masons[k.val]? = some m → m.phys = n) ∧
        ((s.pier p).idleMason = none → p.val ∈ t.degraded ∧
          ∀ m m', (t.pier p).masons[k.val]? = some m → (s.pier p).masons[k.val ^^^ 1]? = some m' → m.phys = m'.phys)) ∧
      (∀ p (b : Fin 64) (set : Fin 4096), u = .mortarSet p b set →
        let ix := 4096 * b.val + set.val
        bitAt ((t.pier p).waysOut.get ix) 16 = false ∧
        ((s.pier p).repair.get b.val < 64 → (t.pier p).repair.get b.val = (s.pier p).repair.get b.val + 1) ∧
        (64 ≤ (s.pier p).repair.get b.val → ∃ way, way < 16 ∧ bitAt ((t.pier p).waysOut.get ix) way = true)) ∧
      (∀ p (ch : Fin 7) l, (u = .gddrInterface p ch ∨ u = .pierTrowel p ch ∨ ∃ r, u = .gddrRegion p ch r) →
        let w := (s.pier p).chanMap.toNat
        let m := (t.pier p).chanMap.toNat
        l < 6 → fld w (3 * l + 2) (3 * l) = ch.val → (∀ j, j < l → fld w (3 * j + 2) (3 * j) ≠ ch.val) →
        (fld w 20 18 ≠ 7 → fld w 22 21 = 0 → fld m 22 21 = 1 ∧ fld m 25 23 = l) ∧
        (fld w 20 18 ≠ 7 → fld w 22 21 ≠ 0 → (t.pier p).evacNext = some ch.val) ∧
        (fld w 20 18 = 7 → p.val ∈ t.degraded)) ∧
      (∀ p w, u = .chisel p w → bitAt (t.pier p).chiselOut w.val = true ∧ p.val ∈ t.degraded) ∧
      (∀ p, u = .keyBlock p → ((s.pier p).keysUsed < 256 → (t.pier p).keysUsed = (s.pier p).keysUsed + 1) ∧
        (256 ≤ (s.pier p).keysUsed → p.val ∈ t.degraded)) ∧
      (∀ q i, u = .quoinTrowel q i → bitAt (t.quoin q).spare.toNat i.val = true ∧ bitAt (t.quoin q).out i.val = false ∧
        100 + q.val ∈ t.degraded) ∧
      (u = .moduleSequencer → t.seqOnC = true ∧ (s.seqOnC = true → 102 ∈ t.degraded) ∧ t.requests = if s.seqOnC then s.requests else s.requests.map fun r =>
        if r.delivered then r else { r with cause := if r.cause == 0 then 3 else r.cause })) ∧
    (x.margin = false → (∀ p n, s.soundNo u x.old = some (p, n) →
        ((s.pier p).soundings.filter fun y => x.start < y.2 + dayTicks && y.1 == n).length < 2) →
      ∃ t, exec (.soundingResult u .passed) s = .next t ∧ ended t ∧ t.seqOnC = s.seqOnC ∧ t.requests = s.requests ∧
        s.Counts t (skovReg s.activeD 0x30) ∧
        (let w := s.who u;
          s.Logs t { errorRecord 0x06 1 w.kind 0 w.unit s.tick with
            die := w.die, physical := s.soundedNo x .passed, detail1 := s.tick - x.start }) ∧
        (∀ c n, u = .core c → x.old = some n → n % 32 < 17 → (t.pier c.pier).idleCore (n / 32) = some (n % 32)) ∧
        (∀ c n, u = .course c → x.old = some n → n < 49 → (t.pier c.pier).idleCourse = some n) ∧
        (∀ p k n, u = .mason p k → x.old = some n → n < 9 → (t.pier p).idleMason = some n) ∧
        (∀ p k, u = .mason p k → x.old = none → ∀ m, (t.pier p).masons[k.val]? = some m → m.saving = none) ∧
        (∀ p w, u = .chisel p w → bitAt (s.pier p).spareStatus.toNat (20 + w.val) = false →
          bitAt (t.pier p).chiselOut w.val = false) ∧
        (∀ p (b : Fin 64) (set : Fin 4096), u = .mortarSet p b set → bitAt ((t.pier p).waysOut.get (4096 * b.val + set.val)) 16 = false)) ∧
    ∀ p ch r (lines : List (Fin 16384)), u = .gddrRegion p ch r → ∃ t, exec (.soundingResult u (.held lines)) s = .next t ∧ ended t ∧
      ∀ line ∈ lines, (ch.val, 16384 * r + line.val, s.tick) ∈ (t.pier p).hardErrors

/-- SPARE_TAKEOVER (R111, R112, R178): once no header or share is in progress on its course, the idle spare stands in for a core or
course that is being sounded, or for a course that was declared failed: recorded, with empty bed memory, tables and tiles, and its
generators as seeded. MASON_EXCHANGE and MASON_SAVE_TIMEOUT (R491): within 1 ms of the save the spare resumes the core's state; from
then on the domain is declared failed, the spare stands in, and the core restarts at its entry or waits. ROUTINE_SPARE_SOUNDING (R34,
R489): once the interval since the spare's last has passed, while its pier runs: counted; a spare that fails is out of its pool. The model's readings in it: logs 34, 60, 61 and 65. Completes: SPARE_TAKEOVER,
MASON_EXCHANGE, MASON_SAVE_TIMEOUT, ROUTINE_SPARE_SOUNDING. -/
def Obligations.spares : Prop :=
  (∀ (u : SUnit) (s : State), (∀ c, u ≠ .core c) → (∀ c, u ≠ .course c) → exec (.spareTakeover u) s = .next s) ∧
  (∀ (c : CoreId) (s : State),
    let p := s.pier c.pier
    let pc := p.physCourse c.course.val
    let due := (∃ x ∈ s.sounding, x.unit = .core c ∧ x.old = none) ∧ s.courseRunning ⟨c.pier, c.course⟩ = false
    (¬due ∨ p.idleCore pc = none → exec (.spareTakeover (.core c)) s = .next s) ∧
    ∀ n, due → p.idleCore pc = some n →
      let old := p.physCore c.course.val c.core.val
      let but := fun (pr : Pier) => { pr with
        coreMap := [], coreSpare := [], bed := [], stores := [], tiles := [], runs := [], draws := [], spareStatus := 0 }
      ∃ t, exec (.spareTakeover (.core c)) s = .next t ∧
        s.Logs t { errorRecord 0x07 2 0 6 (coreUnit c) s.tick with die := c.pier.val, physical := old, detail0 := n, detail1 := old } ∧
        (t.pier c.pier).physCore c.course.val c.core.val = n ∧ (t.pier c.pier).idleCore pc = none ∧
        (∀ k, k ≠ 16 * pc + c.core.val → (t.pier c.pier).coreMap.get k = p.coreMap.get k) ∧
        (∃ x ∈ t.sounding, x.unit = .core c ∧ x.old = some (32 * pc + old)) ∧
        (∀ b ∈ (t.pier c.pier).stores, b.core ≠ coreNo c) ∧ (∀ b ∈ (t.pier c.pier).tiles, b.course ≠ c.course.val) ∧
        (∀ b ∈ (t.pier c.pier).bed, b.course = c.course.val →
          bitAt b.held c.core.val = false ∧ ∀ o ∈ b.olds, bitAt o.1 c.core.val = false) ∧
        (∀ r ∈ (t.pier c.pier).runs, r.core ≠ coreNo c) ∧ (∀ x ∈ (t.pier c.pier).draws, x.1 % drawSpan / 272 ≠ coreNo c) ∧
        (∀ r, r ≠ c.pier → t.pier r = s.pier r) ∧ but (t.pier c.pier) = but p ∧
        t = { s with piers := t.piers, counters := t.counters, held := t.held, sounding := t.sounding, requests := t.requests }) ∧
  (∀ (c : CourseId) (s : State),
    let p := s.pier c.pier
    let due := ((∃ x ∈ s.sounding, x.unit = .course c ∧ x.old = none) ∨ domainNo (.course c) ∈ p.failed) ∧ s.courseRunning c = false
    (¬due ∨ p.idleCourse = none → exec (.spareTakeover (.course c)) s = .next s) ∧
    ∀ n, due → p.idleCourse = some n →
      let old := p.physCourse c.course.val
      let but := fun (pr : Pier) => { pr with
        courseMap := [], courseSpare := 0, failed := [], bed := [], stores := [], tiles := [], runs := [], draws := []
        spareStatus := 0 }
      ∃ t, exec (.spareTakeover (.course c)) s = .next t ∧
        s.Logs t { errorRecord 0x07 2 1 6 (courseUnit c) s.tick with die := c.pier.val, physical := old, detail0 := n, detail1 := old } ∧
        (t.pier c.pier).physCourse c.course.val = n ∧ (t.pier c.pier).idleCourse = none ∧
        (∀ k, k ≠ c.course.val → (t.pier c.pier).courseMap.get k = p.courseMap.get k) ∧
        (∀ d, d ∈ (t.pier c.pier).failed ↔ d ∈ p.failed ∧ d ≠ domainNo (.course c)) ∧
        (∀ b ∈ (t.pier c.pier).tiles, b.course ≠ c.course.val) ∧ (∀ b ∈ (t.pier c.pier).bed, b.course ≠ c.course.val) ∧
        (∀ b ∈ (t.pier c.pier).stores, b.core / 16 ≠ c.course.val) ∧ (∀ r ∈ (t.pier c.pier).runs, r.core / 16 ≠ c.course.val) ∧
        (∀ x ∈ (t.pier c.pier).draws, x.1 % drawSpan / 272 / 16 ≠ c.course.val) ∧
        (∀ r, r ≠ c.pier → t.pier r = s.pier r) ∧ but (t.pier c.pier) = but p ∧
        t = { s with piers := t.piers, counters := t.counters, held := t.held, sounding := t.sounding, requests := t.requests }) ∧
  (∀ (p : PierId) (k : Fin 8) (s : State),
    let save := s.savingAt p k
    ((∀ a, save = some a → a + 50000 ≤ s.tick) ∨ (s.pier p).idleMason = none → exec (.masonExchange p k) s = .next s) ∧
    (∀ a n, save = some a → s.tick < a + 50000 → (s.pier p).idleMason = some n →
      ∃ t, exec (.masonExchange p k) s = .next t ∧
        (t.pier p).masons = (s.pier p).masons.modify k.val (fun m => { m with phys := n, saving := none }) ∧
        (t.pier p).idleMason = none ∧ (∀ r, r ≠ p → t.pier r = s.pier r) ∧
        { t.pier p with masons := [], masonSpare := 0, failed := [], spareStatus := 0 } =
          { s.pier p with masons := [], masonSpare := 0, failed := [], spareStatus := 0 } ∧
        t = { s with piers := t.piers, counters := t.counters, held := t.held, sounding := t.sounding, requests := t.requests }) ∧
    ((∀ a, save = some a → s.tick < a + 50000) → exec (.masonSaveTimeout p k) s = .next s) ∧
    ∀ a, save = some a → a + 50000 ≤ s.tick →
      ∃ t, exec (.masonSaveTimeout p k) s = .next t ∧
        (s.isFailed (.mason p k) = false → s.Counts t (skovReg s.activeD 0x20)) ∧
        ((s.pier p).idleMason = none → domainNo (.mason p k) ∈ (t.pier p).failed) ∧
        ((s.pier p).idleMason ≠ none → domainNo (.mason p k) ∉ (t.pier p).failed ∧ (t.pier p).idleMason = none) ∧
        (t.pier p).masons = (s.pier p).masons.modify k.val (fun m => { m with
          phys := ((s.pier p).idleMason).getD m.phys, saving := none, waits := m.entry.isNone, loaded := 0, faulted := 0
          reserve := none }) ∧
        (∀ r, r ≠ p → t.pier r = s.pier r) ∧
        { t.pier p with masons := [], masonSpare := 0, failed := [], spareStatus := 0 } =
          { s.pier p with masons := [], masonSpare := 0, failed := [], spareStatus := 0 } ∧
        t = { s with
          piers := t.piers, counters := t.counters, held := t.held, sounding := t.sounding, requests := t.requests
          crossHeld := t.crossHeld }) ∧
  ∀ (u : SUnit) (failed : Bool) (s : State),
    let w := s.who u
    let due := ∃ p n, sparePier u = some p ∧ s.idleSpare u = some n ∧ s.runs p = true ∧
      (s.pier p).routineAt.get (s.routineNo u) + (s.pier p).cfg.spareTicks ≤ s.tick
    (¬due → exec (.routineSpareSounding u failed) s = .next s) ∧
    (due → ∃ t p n, exec (.routineSpareSounding u failed) s = .next t ∧ sparePier u = some p ∧ s.idleSpare u = some n ∧
      s.Counts t (skovReg s.activeD 0x28) ∧ s.Counts t (skovReg s.activeD (if failed then 0x38 else 0x30)) ∧
      (t.pier p).routineAt.get (s.routineNo u) = s.tick ∧ (∀ r, r ≠ p → t.pier r = s.pier r) ∧
      t = { s with piers := t.piers, counters := t.counters, held := t.held, laneSpares := t.laneSpares } ∧
      (failed = false → { t.pier p with routineAt := [] } = { s.pier p with routineAt := [] } ∧ t.laneSpares = s.laneSpares ∧
        s.Logs t { errorRecord 0x06 0 w.kind 0 w.unit s.tick with die := w.die, physical := n }) ∧
      (failed = true →
        (∀ r, u = .keyBlock r → (t.pier r).keysUsed = (s.pier r).keysUsed + 1) ∧
        (∀ r b set, u = .mortarSet r b set → (t.pier r).repair.get b.val = (s.pier r).repair.get b.val + 1) ∧
        (∀ l d g, u = .laneGroup l d g → t.lanesUsed l d g.val = s.lanesUsed l d g.val + 1) ∧
        ((∀ r, u ≠ .keyBlock r) → (∀ r b set, u ≠ .mortarSet r b set) → (∀ l d g, u ≠ .laneGroup l d g) → t.idleSpare u = none)))

/-! ## Die-to-die links and the log -/

/-- LINK_CYCLE_RECEIVE (R34, R495, R496): a retired link's changes nothing, nor one of a link of which an end does not run. A good
cycle, its CRC-32 and each group's CRC-8 as the side-band says, is accepted and kept among the last 256 of its direction, and what waited
behind it goes on, each operation once and in order. A bad one is replayed, counted at the
pier that sends it; at every fourth failed send of one cycle the groups at fault, all where none is known, are sounded with their
link out of its edge's rotation, and so is a group that failed more than 64 times in 2^24 link cycles. LANE_GROUP_TEST (R23,
R495, R496): the sounding of a group ends; its failed lanes take the group's free spares, and one more than are free retires the link,
whose edge's other links carry what waited on it. The model's readings in it: logs 42, 89 and 102. Completes: LINK_CYCLE_RECEIVE,
LANE_GROUP_TEST. -/
def Obligations.die_links : Prop :=
  (∀ (link : Fin 48) (dir : Bool) (cycle side : List Byte) (s : State),
    let bad := fun (g : Nat) => groupCrc8 cycle g ≠ (byteAt side (4 + g)).toNat
    let good := (∀ g, g < 10 → ¬bad g) ∧ linkCrc32 cycle = leAt side 0 4
    (link.val ∈ s.retired ∨ s.linkRuns link.val = false → exec (.linkCycleReceive link dir cycle side) s = .next s) ∧
    (link.val ∉ s.retired → s.linkRuns link.val = true →
      let i := 2 * link.val + b2n dir
      let now := s.linkCycles.get i
      let mine := s.linkHeld.filter fun y => y.link == i
      (good → ∃ t, exec (.linkCycleReceive link dir cycle side) s = .next t ∧
        t.linkCycles.get i = now + 1 ∧ t.linkFails.get i = 0 ∧
        (∀ j, j ≠ i → t.linkCycles.get j = s.linkCycles.get j ∧ t.linkFails.get j = s.linkFails.get j) ∧
        (t.linkKept.filter fun y => y.1 == i) = ((s.linkKept.filter fun y => y.1 == i) ++ [(i, cycle)]).drop
          (if (s.linkKept.filter fun y => y.1 == i).length < 256 then 0 else 1) ∧
        (mine = [] → t = { s with linkCycles := t.linkCycles, linkFails := t.linkFails, linkKept := t.linkKept }) ∧
        ((∀ y ∈ mine, y.rest = []) → t.linkHeld = s.linkHeld.filter (fun y => y.link != i) ∧ t.edgeRot = s.edgeRot ∧
          ∀ d, (t.pier d).keyArriving = (s.pier d).keyArriving ++ (mine.filter fun y => y.dest == d).map fun y =>
            { y.op with port := 8 + (linkEnds d).idxOf link.val }) ∧
        (∀ d, ((t.pier d).awake = false → (s.pier d).awake = false) ∧
          { (t.pier d).butWake with keyArriving := [] } = { (s.pier d).butWake with keyArriving := [] }) ∧
        t = { s with
          linkCycles := t.linkCycles, linkFails := t.linkFails, piers := t.piers, linkHeld := t.linkHeld, edgeRot := t.edgeRot
          linkKept := t.linkKept, crossHeld := t.crossHeld, crossPtr := t.crossPtr }) ∧
      (¬good →
        let times := fun g => (s.groupFails.filter fun x => x.1 == 10 * i + g && now < x.2 + 2 ^ 24).length
        let out := fun (g : Fin 10) => (s.linkFails.get i + 1) % 4 = 0 ∧ ((∀ h, h < 10 → ¬bad h) ∨ bad g.val) ∨
          bad g.val ∧ 64 ≤ times g.val
        ∃ t, exec (.linkCycleReceive link dir cycle side) s = .next t ∧ t.linkCycles.get i = now + 1 ∧
          t.linkFails.get i = s.linkFails.get i + 1 ∧
          (sendsFromPier link.val dir = true → s.Counts t (pierCtr (linkPier link.val dir) kLinkReplay)) ∧
          (∀ g, out g → link.val ∈ t.testing ∧ ∃ x ∈ t.sounding, x.unit = .laneGroup link dir g) ∧
          ((∀ g, ¬out g) → t.sounding = s.sounding ∧ t.testing = s.testing ∧ t.held = s.held) ∧
          (∀ l, l ≠ link.val → (l ∈ t.testing ↔ l ∈ s.testing)) ∧
          (∀ y, (∀ g, y.unit ≠ .laneGroup link dir g) → (y ∈ t.sounding ↔ y ∈ s.sounding)) ∧
          (∀ j, j ≠ i → t.linkCycles.get j = s.linkCycles.get j ∧ t.linkFails.get j = s.linkFails.get j) ∧
          t = { s with
            linkCycles := t.linkCycles, linkFails := t.linkFails, groupFails := t.groupFails, counters := t.counters
            held := t.held, sounding := t.sounding, testing := t.testing }))) ∧
  ∀ (link : Fin 48) (dir : Bool) (g : Fin 10) (failedLanes : Nat) (s : State),
    let u := SUnit.laneGroup link dir g
    ((∀ x ∈ s.sounding, x.unit ≠ u) → exec (.laneGroupTest link dir g failedLanes) s = .next s) ∧
    ((∃ x ∈ s.sounding, x.unit = u) →
      let k := (2 * link.val + b2n dir) * 10 + g.val
      let n := ((List.range 84).filter fun i => bitAt failedLanes i).length;
      ∃ t, exec (.laneGroupTest link dir g failedLanes) s = .next t ∧ s.Counts t (pierCtr (linkPier link.val dir) kLaneTest) ∧
        s.Counts t (skovReg s.activeD (if n = 0 then 0x30 else 0x38)) ∧
        t.laneSpares.get k = min 4 (s.laneSpares.get k + n) ∧ (∀ j, j ≠ k → t.laneSpares.get j = s.laneSpares.get j) ∧
        (4 < s.laneSpares.get k + n → link.val ∈ t.retired ∧
          (link.val ∉ s.retired → ∀ x ∈ t.sounding, ∀ d h, x.unit ≠ .laneGroup link d h) ∧
          (link.val ∉ s.retired →
            (∃ l ∈ edgeLinks (linkEdge link.val), l ≠ link.val ∧ l ∉ s.retired ∧ l ∉ s.testing) →
            (∀ y ∈ s.linkHeld, ∀ e ∈ y.rest, e.2 < 2) → ∀ y ∈ t.linkHeld, y.link / 2 ≠ link.val)) ∧
        (s.laneSpares.get k + n ≤ 4 → t.retired = s.retired ∧ t.requests = s.requests ∧ t.linkKept = s.linkKept ∧
          ((∀ x ∈ t.sounding, ∀ d h, x.unit ≠ .laneGroup link d h) → link.val ∉ t.testing)) ∧
        (∀ l, l ≠ link.val → (l ∈ t.retired ↔ l ∈ s.retired) ∧ (l ∈ t.testing ↔ l ∈ s.testing)) ∧
        (∀ y, (∀ d h, y.unit ≠ .laneGroup link d h) → (y ∈ t.sounding ↔ y ∈ s.sounding)) ∧
        (s.laneSpares.get k + n ≤ 4 ∨ (∀ y ∈ s.linkHeld, y.link / 2 ≠ link.val) → t.piers = s.piers ∧ t.linkHeld = s.linkHeld ∧
          t.edgeRot = s.edgeRot ∧ t.crossHeld = s.crossHeld ∧ t.crossPtr = s.crossPtr) ∧
        (∀ d, ((t.pier d).awake = false → (s.pier d).awake = false) ∧
          { (t.pier d).butWake with keyArriving := [] } = { (s.pier d).butWake with keyArriving := [] }) ∧
        (∀ j, j / 2 ≠ link.val → t.linkFails.get j = s.linkFails.get j) ∧ (∀ y ∈ t.linkKept, y ∈ s.linkKept) ∧
        t = { s with
          linkKept := t.linkKept
          laneSpares := t.laneSpares, retired := t.retired, testing := t.testing, sounding := t.sounding, counters := t.counters
          held := t.held, requests := t.requests, piers := t.piers, linkFails := t.linkFails, linkHeld := t.linkHeld
          edgeRot := t.edgeRot, crossHeld := t.crossHeld, crossPtr := t.crossPtr })

/-- LOG_WRITE (R464, R499, R502): by the active Skovlaper the oldest held record takes the next number and goes, as its 64 bytes, to the
log of each device whose Skovlaper is up, which drops its oldest 1,024 records where 3,932,160 fill it; every bound port is sent its
notice. With none held, or the active one down, nothing. The model's readings in it: log 22. Completes: LOG_WRITE. -/
def Obligations.log_written : Prop :=
  ∀ s : State,
    (s.held = [] ∨ s.activeUp = false → exec .logWrite s = .next s) ∧
    ∀ at_ r rest, s.held = (at_, r) :: rest → s.activeUp = true →
      let w : Record := { r with number := s.recordCount }
      let ring := fun (l : List (List Byte)) => (if 3932160 ≤ l.length then l.drop 1024 else l) ++ [w.bytes]
      ∃ t, exec .logWrite s = .next t ∧ t.held = rest ∧ t.recordCount = s.recordCount + 1 ∧
        t.log0 = (if (s.skov false).up then ring s.log0 else s.log0) ∧
        t.log1 = (if (s.skov true).up then ring s.log1 else s.log1) ∧
        (∀ p, (s.port p).bound = true → s.Sends t p ⟨0x16, 0, 0, leBytes 8 0x80 ++ w.bytes⟩) ∧
        (∀ p, (s.port p).bound = false → t.port p = s.port p) ∧ (∀ p, (s.port p).Transmits (t.port p)) ∧
        t = { s with
          held := t.held, recordCount := t.recordCount, log0 := t.log0, log1 := t.log1, ports := t.ports, counters := t.counters }

/-! ## The Plumbline link -/

/-- PLUMBLINE_TRAINING (R441, R443 to R446, R461): with power, the action of the state at which the port stands. From Detect and Reset
it goes on to Equalise at the first pair of rate and width; Equalise sends its training flits, keeps the preset asked for and the one
that the partner asks for, and the lanes that fail it; Map finds the order of the lanes and retires those that either side names; a pair
that both sides offer and complete, and whose lanes work, goes on to Config, and from there to Active, the lanes' sequences seeded. Where
a state is not completed the next pair is tried, and after the last the host departs. Each of the nine training flits that the port
sends says its lane, both rates and widths, its state, the lane it retires and a preset, without CRC. A new link is sent the module's
IDENT, one being retrained keeps what it holds and sends its replay buffer again. At HOST_DEPARTURE (R465) the host departs.
QUICK_RETRAIN (R446, R451): at the kept rate and presets the link goes on, its failed lanes retired, at x4 where too few work; where
that fails, training in full begins. A lane that the spare takes the place of goes to the event log (R490, R492). IDENT and CREDIT from
a host (R454): credits set, or added, and of every queue the messages held go out in order as far as its credits reach. The model's
readings in it: logs 34, 56, 57 and 103. Completes: PLUMBLINE_TRAINING, QUICK_RETRAIN, HOST_DEPARTURE, IDENT, CREDIT. -/
def Obligations.plumbline_link : Prop :=
  let flits := fun (b : Port) (state preset : Nat) => b.trainSent.length = 9 ∧ ∀ i, i < 9 → ∃ f, b.trainSent[i]? = some f ∧
    f.length = 256 ∧ leAt f 0 4 = 2 ∧ leAt f 242 14 = 0 ∧
    readTrain f = some ⟨i, 3, 3, state, if b.retired < 8 then b.retired else 0xFF, preset⟩
  let retrained := fun (s t : State) (p : PortId) (b : Port) =>
    t = { s.updPort p (fun _ => b) with counters := t.counters, held := t.held } ∧
    ((s.port p).spareUsed = b.spareUsed → t = s.updPort p fun _ => b) ∧
    ((s.port p).spareUsed = false → b.spareUsed = true → s.Logs t { errorRecord 0x07 2 11 8 0xFFFF s.tick with
      die := 8 + (portQuoin p).val, physical := b.retired, detail0 := 8, detail1 := b.retired })
  let tried := fun (s t : State) (p : PortId) (n : Nat) => if 4 ≤ n then s.Departed t p
    else t = s.updPort p fun b => { b with trying := n, trainState := if n % 2 = 0 then 2 else 3 }
  let mapped := fun (a b : Port) (got : List (List Byte)) =>
    b.trainGot = got ∧ b.laneFails = [] ∧ (∀ i ∈ a.badLanes ++ a.laneFails, i ∈ b.badLanes) ∧
    (b.reversed = true ↔ (∃ i, i < 8 ∧ readTrain (got.getD i []) ≠ none) ∧
      ∀ i f, i < 8 → readTrain (got.getD i []) = some f → f.lane = 7 - i) ∧
    (∀ f, partnerSays got = some f → f.failed < 8 → (if b.reversed then 7 - f.failed else f.failed) ∈ b.badLanes) ∧
    (b.spareUsed = false → ∀ i ∈ b.badLanes, i < 8 → i ∈ a.badLanes ∨ 8 ∈ b.badLanes) ∧ (a.spareUsed = true → b.retired = a.retired)
  let keeps := fun (a b : Port) => b.bound = a.bound ∧ b.hostId = a.hostId ∧ b.context = a.context ∧ b.watches = a.watches ∧
    b.inbox = a.inbox ∧ b.held = a.held ∧ b.credits = a.credits ∧ b.rxExpected = a.rxExpected ∧ b.rxAny = a.rxAny
  (∀ (p : PortId) (out : TrainOutcome) (s : State),
    let a := s.port p
    let pair := pairsTried.getD a.trying (2, 8)
    let run := exec (.plumblineTraining p out) s
    (s.power.regulators = false ∨ 5 ≤ a.trainState → run = .next s) ∧
    (s.power.regulators = true → a.trainState = 0 → run = .next (if out.done then
      s.updPort p fun b => { b with present := true, trainState := 1 } else s)) ∧
    (s.power.regulators = true → a.trainState = 1 → ∃ t, run = .next t ∧ if out.done then tried s t p 0 else s.Departed t p) ∧
    (s.power.regulators = true → a.trainState = 2 → ∃ b t, run = .next t ∧
      (let u := s.updPort p fun _ => b
        if out.done then t = u.updPort p fun b => { b with trainState := 3 } else tried u t p (2 * (a.trying / 2) + 2)) ∧
      b.preset = out.preset.val ∧ flits b 2 out.preset.val ∧ b.trainGot = out.flits ∧
      b.txPreset = (match partnerSays out.flits with
        | some f => if f.preset ≤ 10 then f.preset else a.txPreset
        | none => a.txPreset) ∧
      (∀ i, i ∈ b.laneFails ↔ i ∈ a.laneFails ∨ out.done = true ∧ i < 9 ∧ bitAt out.failedLanes.val i = true ∧ i ∉ a.badLanes) ∧
      { b with preset := 0, trainSent := [], trainGot := [], txPreset := 0, laneFails := [] } =
        { a with preset := 0, trainSent := [], trainGot := [], txPreset := 0, laneFails := [] }) ∧
    (s.power.regulators = true → a.trainState = 3 → ∃ (b : Port) (u t : State), run = .next t ∧ retrained s u p b ∧ mapped a b out.flits ∧
      flits b 3 a.preset ∧ b.rate = a.rate ∧ b.width = a.width ∧ b.sent = a.sent ∧ b.replay = a.replay ∧ keeps a b ∧
      let goes := out.done = true ∧ offers out.flits pair.1 pair.2 = true ∧ pair.2 ≤ b.goodLanes.length
      (goes → t = u.updPort p fun b => { b with trainState := 4 }) ∧ (¬goes → tried u t p (a.trying + 1))) ∧
    (s.power.regulators = true → a.trainState = 4 →
      (out.done = false → ∃ t, run = .next t ∧ tried s t p (a.trying + 1)) ∧
      (out.done = true → ∃ b : Port, run = .next (s.updPort p fun _ => b) ∧ b.trainState = 5 ∧ b.linked = true ∧
        b.rate = pair.1 ∧ b.width = pair.2 ∧ b.nakSent = false ∧ b.rxScr = (List.range 8).map (fun i => 0x7FFF_FFFF ^^^ i) ∧
        (let ack := if a.rxAny then 2 ^ 14 * subMod 4096 a.rxExpected 1 + 2 ^ 26 else 0
          let first := (scramble pair.2 b.rxScr (buildFlit ack [])).1
          a.replay = [] → a.backlog = [] → a.linked = true → b.lineOut = b.onLanes first) ∧
        b.sent = (if a.linked then a.sent else a.sent ++ [s.identMsg p]) ∧ b.waits = (a.linked && a.waits) ∧
        a.replay.map (fun x => { x with sends := 1 }) <+: b.replay ∧ keeps a b))) ∧
  (∀ (p : PortId) (got : List (List Byte)) (s : State),
    let a := s.port p
    let up := a.linked = true ∧ (a.trainState = 5 ∨ a.trainState = 6)
    (∀ x, ¬up → exec (.quickRetrain p x) s = .next s) ∧
    (up → exec (.quickRetrain p none) s = .next (s.updPort p fun pt => { pt with trainState := 1 })) ∧
    (up → ∃ (b : Port) (t : State), exec (.quickRetrain p (some got)) s = .next t ∧ retrained s t p b ∧ mapped a b got ∧
      flits b 6 a.preset ∧ b.linked = true ∧ b.rate = a.rate ∧ b.preset = a.preset ∧ b.txPreset = a.txPreset ∧
      b.width = (if a.width ≤ b.goodLanes.length then a.width else 4) ∧ b.sent = a.sent ∧ keeps a b ∧
      (b.width ≤ b.goodLanes.length → b.trainState = 5 ∧ a.replay.map (fun x => { x with sends := 1 }) <+: b.replay) ∧
      (b.goodLanes.length < b.width → b.trainState = 1 ∧ b.replay = a.replay))) ∧
  (∀ (p : PortId) (s : State), ∃ t, exec (.hostDeparture p) s = .next t ∧ s.Departed t p ∧ (t.port p).present = false) ∧
  ∀ (p : PortId) (payload : List Byte) (s : State),
    let a := s.port p
    let of := fun (q : Nat) (ms : List OutMsg) => ms.filter fun m => outQueue m.mtype == q
    let given := fun (b : Port) (out : List OutMsg) (now : Nat → Nat) => a.Transmits b ∧ b.sent = a.sent ++ out ∧
      out.length + b.held.length = a.held.length ∧
      ∀ q, q < 4 → b.credits.get q + (of q out).length = now q ∧ of q out ++ of q b.held = of q a.held ∧
        (of q b.held ≠ [] → b.credits.get q = 0)
    (a.linked = false → exec (.ident p payload) s = .next s ∧ exec (.credit p payload) s = .next s) ∧
    (a.linked = true → ∃ b out, exec (.ident p payload) s = .next (s.updPort p fun _ => b) ∧
      given b out fun q => leAt payload (16 + 2 * q) 2) ∧
    (a.linked = true → ∃ b out, exec (.credit p payload) s = .next (s.updPort p fun _ => b) ∧
      given b out fun q => a.credits.get q + leAt payload (2 * q) 2)

/-- REPLAY_TIMEOUT (R406, R442, R450, R451): the replay buffer is sent again, behind an idle flit where 2,047 flits have gone without one,
or, with its oldest flit sent four times, the port quick-retrains, and trains in full after three of these within 1 ms. ACK_TIMER: the
ack owed goes out; IDLE_FLIT_SEND (R442): a flit that carries it, scrambled on its lanes (R440, R441). FLIT_RECEIVE (R441, R447 to
R453), descrambled: a flit that fails its CRC is not acknowledged, nor is a data flit that skips one; one received
before is acknowledged again; the expected one is taken, and a message that it completes acts as its command does.
The model's readings in it: logs 56, 58 and 103. Completes: REPLAY_TIMEOUT, ACK_TIMER, IDLE_FLIT_SEND, FLIT_RECEIVE. -/
def Obligations.link_layer : Prop :=
  (∀ (p : PortId) (s : State),
    let a := s.port p
    let ack := (if a.rxAny then 2 ^ 14 * subMod 4096 a.rxExpected 1 + 2 ^ 26 else 0) + 2 ^ 27 * b2n a.nakSent
    let but := fun (b : Port) => { b with txHdr := 0, ackOwed := false, rxSinceAck := 0, txScr := [], lineOut := [], sinceIdle := 0 }
    let idle := fun (b : Port) => b.txHdr = ack ∧ b.ackOwed = false ∧ b.rxSinceAck = 0 ∧ b.sinceIdle = 0 ∧
      b.lineOut = a.onLanes (scramble a.width a.txScr (buildFlit ack [])).1 ∧ but b = but a
    (a.trainState ≠ 5 → exec (.replayTimeout p) s = .next s ∧ exec (.ackTimer p) s = .next s ∧ exec (.idleFlitSend p) s = .next s) ∧
    (a.replay = [] → exec (.replayTimeout p) s = .next s) ∧ (a.ackOwed = false → exec (.ackTimer p) s = .next s) ∧
    (a.trainState = 5 → a.ackOwed = true → ∃ b, exec (.ackTimer p) s = .next (s.updPort p fun _ => b) ∧ idle b) ∧
    (a.trainState = 5 → ∃ b : Port, exec (.idleFlitSend p) s = .next (s.updPort p fun _ => b) ∧ b.ackOwed = false ∧
      b.rxSinceAck = 0 ∧ a.replay <+: b.replay ∧ b.sinceIdle + a.replay.length = b.replay.length ∧
      b.backlog = a.backlog.drop (238 * b.sinceIdle) ∧ b.sent = a.sent ∧ b.held = a.held ∧ b.credits = a.credits ∧ a.Transmits b ∧
      (a.backlog = [] → idle b)) ∧
    ∀ x xs, a.trainState = 5 → a.replay = x :: xs →
      let three := ∃ m n k, a.retrains = [m, n, k] ∧ m < k + 50000
      ∃ b : Port, exec (.replayTimeout p) s = .next (s.updPort p fun _ => b) ∧
        (x.sends < 4 → b.replay = a.replay.map (fun y => { y with sends := y.sends + 1 }) ∧ b.ackOwed = false ∧ b.rxSinceAck = 0 ∧
          (a.sinceIdle ≤ 2047 → b.sinceIdle ≤ 2047) ∧ but { b with replay := [] } = but { a with replay := [] }) ∧
        (4 ≤ x.sends → three → b = { a with trainState := 1, retrains := [] }) ∧
        (4 ≤ x.sends → ¬three → b = { a with trainState := 6, retrains := (s.tick :: a.retrains).take 3 })) ∧
  ∀ (p : PortId) (flit : List Byte) (s : State),
    let a := s.port p
    let f := (fecCorrect (scramble a.width a.rxScr (padTo 256 flit)).1).1
    let h := leAt f 0 4
    let seq := fld h 13 2
    let fails := flitCrcOk f = false ∨ h % 4 = 3
    let stays := fun (b : Port) => b.rxExpected = a.rxExpected ∧ b.rxBytes = a.rxBytes ∧ b.sent = a.sent ∧ b.held = a.held ∧
      b.credits = a.credits ∧ b.bound = a.bound;
    (a.trainState ≠ 5 → exec (.flitReceive p flit) s = .next s) ∧
    (a.trainState = 5 →
      (fails → ∃ b, exec (.flitReceive p flit) s = .next (s.updPort p fun _ => b) ∧ stays b ∧ b.nakSent = true ∧ b.replay = a.replay) ∧
      (¬fails → h % 4 ≠ 1 → ∃ b, exec (.flitReceive p flit) s = .next (s.updPort p fun _ => b) ∧ stays b ∧ b.nakSent = a.nakSent) ∧
      (¬fails → h % 4 = 1 → seq ≠ a.rxExpected → ∃ b, exec (.flitReceive p flit) s = .next (s.updPort p fun _ => b) ∧ stays b ∧
        b.nakSent = if subMod 4096 a.rxExpected seq ≤ 1024 then a.nakSent else true) ∧
      (¬fails → h % 4 = 1 → seq = a.rxExpected →
        let got := cutMessages 256 (a.rxBytes ++ (f.drop 4).take 238)
        ∃ b : Port, b.rxExpected = (a.rxExpected + 1) % 4096 ∧ b.rxAny = true ∧ b.nakSent = false ∧ b.rxBytes = got.2.1 ∧
          b.sent = a.sent ∧ b.held = a.held ∧ b.credits = a.credits ∧ b.bound = a.bound ∧
          (got.1 = [] → got.2.2 = false → exec (.flitReceive p flit) s = .next (s.updPort p fun _ => b)) ∧
          ∀ (tag : U32) (addr : Nat) (rlen : Fin 256) (data : List Byte) (hdr : Header) (c : Instr) (m : List Byte),
            got.1 = [m] → got.2.2 = false → bitAt h 27 = false →
            (m, c) ∈ [(msgBytes 1 tag.toNat addr rlen.val [], Instr.memRead p tag addr rlen),
              (msgBytes 2 tag.toNat addr 0 data, Instr.memWrite p tag addr data),
              (msgBytes 3 tag.toNat 0 0 (headerBytes hdr), Instr.submit p tag hdr),
              (msgBytes 4 tag.toNat 0 0 (padTo 32 data), Instr.watch p tag data),
              (msgBytes 5 tag.toNat 0 0 (padTo 16 data), Instr.admitMsg p tag data),
              (msgBytes 7 tag.toNat 0 0 (padTo 64 data), Instr.ident p (padTo 64 data)),
              (msgBytes 8 tag.toNat 0 0 (padTo 8 data), Instr.credit p (padTo 8 data))] →
            exec (.flitReceive p flit) s = exec c (s.updPort p fun _ => b)))

/-! ## Messages from a host -/

/-- MEM_READ and MEM_WRITE to memory (R22, R386, R438, R455, R456, R463, R468): a request from an unbound port is answered with status
4, with no image running with 5, across a 256-byte boundary with 7, at an absent address with 2, where a failed domain refuses it with 1.
A read else returns the bytes, or zeros with status 3 where a line is poisoned; a write puts its bytes, and no others, into memory, and
ends the poison of the lines that it covers. Their home pier wakes, and the edges of the way there, of a read's way back too, turn one
link further for each line. A write of no bytes or more than 256 is a protocol error (R453): the host departs. The model's readings in
it: logs 21 and 89. Completes: MEM_READ, MEM_WRITE. -/
def Obligations.memory_requests : Prop :=
  ∀ (p : PortId) (tag : U32) (a : Nat) (s : State), a < 2 ^ 52 → Sound s →
    let turned := fun (n st : Nat) => (s.port p).bound = false ∧ st = 4 ∨ (s.port p).bound = true ∧ s.func.state ≤ 2 ∧ st = 5 ∨
      (s.port p).bound = true ∧ 3 ≤ s.func.state ∧ 256 < a % 256 + n ∧ st = 7
    let served := fun (n : Nat) => (s.port p).bound = true ∧ 3 ≤ s.func.state ∧ a % 256 + n ≤ 256
    let others := fun (t : State) => ∀ r, (s.port r).Transmits (t.port r)
    let turns := fun (t : State) (path : List (Nat × Nat)) (n : Nat) => ∀ e dir, dir < 2 → t.edgeRot.get (2 * e + dir) =
      if (e, dir) ∈ path then (s.edgeRot.get (2 * e + dir) + (linesOf a n).length) % max 1 (s.workingLinks e).length
      else s.edgeRot.get (2 * e + dir)
    (∀ rlen : Fin 256, s.hears p 1 →
      let n := rlen.val + 1
      (∀ st, turned n st → ∃ t, exec (.memRead p tag a rlen) s = .next t ∧ s.Sends t p ⟨0x11, tag.toNat, st, []⟩ ∧
        others t ∧ t = { s with ports := t.ports }) ∧
      (served n → s.place a = .absent → ∃ t, exec (.memRead p tag a rlen) s = .next t ∧
        s.Sends t p ⟨0x11, tag.toNat, 2, List.replicate n 0⟩ ∧ others t ∧ t = { s with ports := t.ports }) ∧
      ∀ h, served n → s.memHome a = some h →
        let refused := ∃ i, i < n ∧ s.dead h (lineOf (a + i)) = true
        ∃ t, exec (.memRead p tag a rlen) s = .next t ∧
        (refused → s.Sends t p ⟨0x11, tag.toNat, 1, List.replicate n 0⟩) ∧
        (¬refused → (∀ i, i < n → lineOf (a + i) ∉ s.poison) → s.Sends t p ⟨0x11, tag.toNat, 0, memRead s.mem a n⟩) ∧
        (¬refused → (∃ i, i < n ∧ lineOf (a + i) ∈ s.poison) → s.Sends t p ⟨0x11, tag.toNat, 3, List.replicate n 0⟩) ∧
        turns t (quoinEdges (portQuoin p) h ++ backEdges (portQuoin p) h) n ∧
        others t ∧ (s.deadPier h = false → (t.pier h).awake = true) ∧ (∀ r, r ≠ h → t.pier r = s.pier r) ∧
        (t.pier h).bed = (s.pier h).bed ∧ (t.pier h).butCaches.butWake = (s.pier h).butCaches.butWake ∧
        (s.powerState = 3 → t.held = s.held) ∧
        t = { s with
          ports := t.ports, piers := t.piers, counters := t.counters, crossHeld := t.crossHeld, crossPtr := t.crossPtr
          edgeRot := t.edgeRot, held := t.held }) ∧
    ∀ data : List Byte,
      let n := data.length
      ((s.port p).trainState = 5 → n = 0 ∨ 256 < n → ∃ t, exec (.memWrite p tag a data) s = .next t ∧ s.Departed t p ∧
        s.Counts t (plmbReg p 8)) ∧
      (s.hears p 2 → 0 < n → n ≤ 256 →
        (∀ st, turned n st → ∃ t, exec (.memWrite p tag a data) s = .next t ∧ s.Sends t p ⟨0x12, tag.toNat, st, []⟩ ∧
          others t ∧ t = { s with ports := t.ports }) ∧
        (served n → s.place a = .absent → ∃ t, exec (.memWrite p tag a data) s = .next t ∧
          s.Sends t p ⟨0x12, tag.toNat, 2, []⟩ ∧ others t ∧ t = { s with ports := t.ports }) ∧
        (∀ h, served n → s.memHome a = some h → s.deadPier h = true → ∃ t, exec (.memWrite p tag a data) s = .next t ∧
          s.Sends t p ⟨0x12, tag.toNat, 1, []⟩ ∧ others t ∧ t = { s with ports := t.ports, edgeRot := t.edgeRot }) ∧
        ∀ h, served n → s.memHome a = some h → s.deadPier h = false → ∃ t, exec (.memWrite p tag a data) s = .next t ∧
          s.Sends t p ⟨0x12, tag.toNat, 0, []⟩ ∧ others t ∧
          (∀ i, i < n → memGet t.mem (a + i) = byteAt data i) ∧
          (∀ b, b < a ∨ a + n ≤ b → memGet t.mem b = memGet s.mem b) ∧
          (∀ l, l ∈ t.poison ↔ l ∈ s.poison ∧ ¬(l % 64 = 0 ∧ a ≤ l ∧ l + 64 ≤ a + n)) ∧
          turns t (quoinEdges (portQuoin p) h) n ∧
          (t.pier h).awake = true ∧ (∀ r, r ≠ h → t.pier r = s.pier r) ∧
          (t.pier h).butCaches.butWake = (s.pier h).butCaches.butWake ∧
          (s.powerState = 3 → t.held = s.held ∧ t.counters = s.counters) ∧
          t = { s with
            mem := t.mem, poison := t.poison, ports := t.ports, piers := t.piers, crossHeld := t.crossHeld, crossPtr := t.crossPtr
            edgeRot := t.edgeRot, held := t.held, counters := t.counters })

/-- SUBMIT (R28, R82, R369, R455, R456, R463, R468): a header from an unbound port, or with no image running, is turned away by a
RECORD with status 4 or 5; else it enters the queue that its unit and stream name, and its sequencer's, or waits for room there; one that
names no unit is counted and, with the report bit, answered with status 1 under its tag. A message of queues 0 to 2 behind one that waits waits too.
The model's readings in it: logs 50 and 54. Completes: SUBMIT. -/
def Obligations.submissions : Prop :=
  (∀ (p : PortId) (tag : U32) (h : Header) (s : State), s.hears p 3 →
    let own := fun (st : Nat) => leBytes 8 (1 + 2 ^ 8 * h.stream + 2 ^ 16 * st + 2 ^ 24 * h.opcode + 2 ^ 32 * h.unit + 2 ^ 48 * h.seq) ++
      leBytes 8 s.tick ++ List.replicate 48 0
    let others := fun (t : State) => ∀ r, (s.port r).Transmits (t.port r)
    let runs := (s.port p).bound = true ∧ s.func.state = 3
    let q := h.key
    (∀ st, (s.port p).bound = false ∧ st = 4 ∨ (s.port p).bound = true ∧ s.func.state ≠ 3 ∧ st = 5 →
      ∃ t, exec (.submit p tag h) s = .next t ∧ s.Sends t p ⟨0x13, tag.toNat, 0, own st⟩ ∧ others t ∧ t = { s with ports := t.ports }) ∧
    (runs → unitExists h.unit = true → s.hasRoom q = true → ∃ t, exec (.submit p tag h) s = .next t ∧
      s.Enqueued t q h (.host p tag) ∧ (∀ r, (t.pier r).butQueued = (s.pier r).butQueued) ∧
      (∀ r, (t.pier r).masons = (s.pier r).masons) ∧ others t ∧
      t = { s with queues := t.queues, crossHeld := t.crossHeld, ports := t.ports, piers := t.piers, edgeRot := t.edgeRot }) ∧
    (runs → unitExists h.unit = true → s.hasRoom q = false → ∃ t, exec (.submit p tag h) s = .next t ∧
      t.waitingSubs = s.waitingSubs ++ [⟨q, h, .host p tag, none⟩] ∧ others t ∧
      t = { s with waitingSubs := t.waitingSubs, ports := t.ports, edgeRot := t.edgeRot }) ∧
    (runs → unitExists h.unit = false → ∃ t, exec (.submit p tag h) s = .next t ∧ s.Counts t (plmbReg p 0x18) ∧
      s.Logs t { errorRecord 0x0A (if h.report then 3 else 0) 15 0 0xFFFF s.tick with
        seq := h.seq, opcode := h.opcode, die := 8 + (portQuoin p).val, detail0 := h.w0.toNat } ∧
      (h.report = true → s.Sends t p ⟨0x13, tag.toNat, 0, own 1⟩) ∧ others t ∧
      t = { s with ports := t.ports, counters := t.counters, held := t.held })) ∧
  ∀ (p : PortId) (tag : U32) (addr : Nat) (rlen : Fin 256) (data : List Byte) (h : Header) (s : State) (i : Instr) (mtype : Nat)
      (m : List Byte), 0 < data.length → data.length ≤ 256 →
    (i, mtype, m) ∈ [(Instr.memRead p tag addr rlen, 1, msgBytes 1 tag.toNat addr rlen.val []),
      (Instr.memWrite p tag addr data, 2, msgBytes 2 tag.toNat addr 0 data),
      (Instr.submit p tag h, 3, msgBytes 3 tag.toNat 0 0 (headerBytes h)),
      (Instr.watch p tag data, 4, msgBytes 4 tag.toNat 0 0 (padTo 32 data)),
      (Instr.admitMsg p tag data, 5, msgBytes 5 tag.toNat 0 0 (padTo 16 data))] →
    ((s.port p).trainState = 5 → s.blocked p mtype = true →
      exec i s = .next (s.updPort p fun pt => { pt with inbox := pt.inbox ++ [(false, m)] })) ∧
    ((s.port p).trainState ≠ 5 → exec i s = .next s)

/-- WATCH (R460, R463, R468): turned away with status 4 or 5, malformed with 7, the port's 64 in use with 6, each a RECORD of kind
6; else kept, and met already where its condition holds. WATCH_MET: a met watch is removed and its RECORD sent, under the tag of its
WATCH, with the keystone's value, behind the push that it asks for; without one nothing but the port changes, and a push reads what it
names as a host does. A tag with no met watch changes nothing. The model's readings in it: logs 54, 55 and 99. Completes: WATCH, WATCH_MET. -/
def Obligations.watches : Prop :=
  (∀ (p : PortId) (tag : U32) (payload : List Byte) (s : State), s.hears p 4 →
    let w0 := leAt payload 0 8
    let w1 := leAt payload 8 8
    let w2 := leAt payload 16 8
    let w3 := leAt payload 24 8
    let bad := fld w0 31 18 ≠ 0 ∨ fld w0 17 15 = 3 ∨ 4 ≤ fld w0 17 15 ∨ fld w1 63 52 ≠ 0 ∨ fld w2 63 13 ≠ 0 ∨ 4096 < fld w2 12 0 ∨ fld w3 63 32 ≠ 0
    let runs := (s.port p).bound = true ∧ s.func.state = 3
    (∀ st, (s.port p).bound = false ∧ st = 4 ∨ (s.port p).bound = true ∧ s.func.state ≠ 3 ∧ st = 5 ∨ runs ∧ bad ∧ st = 7 ∨
        runs ∧ ¬bad ∧ 64 ≤ (s.port p).watches.length ∧ st = 6 →
      ∃ t, exec (.watch p tag payload) s = .next t ∧
        s.Sends t p ⟨0x13, tag.toNat, 0,
          leBytes 8 (6 + 2 ^ 16 * st + 2 ^ 32 * fld w3 31 0) ++ leBytes 8 s.tick ++ leBytes 8 0 ++ List.replicate 40 0⟩ ∧
        (∀ r, (s.port r).Transmits (t.port r)) ∧ t = { s with ports := t.ports }) ∧
    (runs → ¬bad → (s.port p).watches.length < 64 → ∃ t, exec (.watch p tag payload) s = .next t ∧
      (t.port p).watches = (s.port p).watches ++ [⟨fld w0 14 0, fld w0 17 15, fld w0 63 32, w1, fld w2 12 0, fld w3 31 0,
        tag.toNat, waitMet (fld w0 17 15) (s.keyValue (fld w0 14 0)) (fld w0 63 32)⟩] ∧
      (∀ r, { (t.port r).kept with watches := [] } = { (s.port r).kept with watches := [] }) ∧
      (∀ r, r ≠ p → t.port r = s.port r) ∧ t = { s with ports := t.ports })) ∧
  ∀ (p : PortId) (tag : U32) (s : State),
    let found := (s.port p).watches.find? fun w => w.tag == tag.toNat && w.met
    (found = none → exec (.watchMet p tag) s = .next s) ∧
    ∀ w, found = some w →
      ∃ t, exec (.watchMet p tag) s = .next t ∧
        let record := fun (st : Nat) => (⟨0x13, w.mtag, 0, leBytes 8 (6 + 2 ^ 16 * st + 2 ^ 32 * tag.toNat) ++ leBytes 8 s.tick ++
          leBytes 8 (t.keyValue w.key) ++ List.replicate 40 0⟩ : OutMsg);
        (∃ a b, (s.port p).watches = a ++ w :: b ∧ (t.port p).watches = a ++ b) ∧
        (∀ r, { (t.port r).kept with watches := [] } = { (s.port r).kept with watches := [] }) ∧
        ((s.port p).linked = true → ∃ st, record st ∈ (t.port p).sent ++ (t.port p).held) ∧
        (w.pushLen = 0 → s.Sends t p (record 0) ∧ t = { s with ports := t.ports, counters := t.counters }) ∧
        (s.controlFree w.push w.pushLen → (∀ r, (t.pier r).bed = (s.pier r).bed ∧
            (t.pier r).butCaches.butWake = (s.pier r).butCaches.butWake) ∧
          t = { s with
            ports := t.ports, piers := t.piers, counters := t.counters, crossHeld := t.crossHeld, crossPtr := t.crossPtr
            edgeRot := t.edgeRot, held := t.held }) ∧
        ((s.pier 0).cfg.stepOn = false → t.mem = s.mem ∧ t.poison = s.poison) ∧ t.cxl = s.cxl ∧ t.waitingSubs = s.waitingSubs ∧
        t.power = s.power ∧ t.func = s.func

/-- ADMIT (R75, R409, R418, R421 to R425, R459, R463, R468): turned away with status 4 or 5, or among the requests of its tick. They are
decided as the tick ends, the ports in turn, each port's oldest first: refused with the first code that applies, that of a class that the
image does not define always, or accepted with the promised tick: the class's piers are committed up to it less its margin, the request
stands behind the others, its 64-byte line is in the class's ring, and the headers of its program are submitted. Every answer is a
DELIVERY of kind 5. The model's readings in it: logs 36, 51, 52 and 53. Completes: ADMIT. -/
def Obligations.admissions : Prop :=
  let answer := fun (tag : Nat) (w st code promised tick : Nat) => (⟨0x14, tag, 0,
    leBytes 8 (5 + 2 ^ 8 * fld w 5 0 + 2 ^ 16 * st + 2 ^ 24 * code) ++ leBytes 8 (fld w 63 32) ++ leBytes 8 promised ++ leBytes 8 tick ++
      leBytes 8 tick ++ List.replicate 24 0⟩ : OutMsg)
  (∀ (p : PortId) (tag : U32) (payload : List Byte) (s : State), s.hears p 5 →
    let others := fun (t : State) => ∀ r, (s.port r).Transmits (t.port r)
    (∀ st, (s.port p).bound = false ∧ st = 4 ∨ (s.port p).bound = true ∧ s.func.state ≤ 2 ∧ st = 5 →
      ∃ t, exec (.admitMsg p tag payload) s = .next t ∧ s.Sends t p (answer tag.toNat (leAt payload 0 8) st 0 0 s.tick) ∧ others t ∧
        t = { s with ports := t.ports }) ∧
    ((s.port p).bound = true → 3 ≤ s.func.state → ∃ t, exec (.admitMsg p tag payload) s = .next t ∧
      t.admits = s.admits ++ [⟨p, tag.toNat, padTo 16 payload⟩] ∧ others t ∧ t = { s with ports := t.ports, admits := t.admits })) ∧
  ∀ (s : State) (x : AdmitWait) (before after : List AdmitWait), s.pending = [] → s.power.standby = true → Sound s →
    s.admits = before ++ x :: after → (∀ y ∈ before, y.port ≠ x.port) →
    (x.port.val = s.admitRot % 2 ∨ ∀ y ∈ s.admits, y.port = x.port) →
    let p := x.port
    let w := leAt x.payload 0 8
    let c := fld w 5 0
    let id := fld w 63 32
    let j := s.judgeRequest p c (fld w 31 6 != 0) s.tick
    (5 ≤ s.func.state → j.1 = 7) ∧ (s.classDefined c = false → j.1 ≠ 0) ∧
    (s.func.state = 3 → (s.classDefined c = false → j.1 = 1) ∧
      (s.classDefined c = true →
        let n := (s.requests.filter fun r => !r.delivered && r.cls == c).length
        let full := s.classInflight c ≤ n ∨ 4096 ≤ (s.requests.filter fun r => !r.delivered).length
        let rate := 256 * s.classSlots c * (s.classService c * 26 / 16384) < n * s.classWork c + s.classWork c
        (full → j.1 = 2) ∧ (¬full → rate → j.1 = 3) ∧
        (j.1 = 0 → ¬full ∧ ¬rate ∧ fld w 31 6 = 0 ∧ j.2 ≤ (s.tick + s.classService c) % 2 ^ 64 ∧ s.quoinOut p = false ∧
          ∀ q ∈ s.classPiers c, s.patternShort q = false ∧ s.pierOut q = false))) ∧
    ∃ t, step s = step t ∧ t.admits = before ++ after ∧ t.admitRot = (p.val + 1) % 2 ∧ (∀ r, (s.port r).Transmits (t.port r)) ∧
    (j.1 ≠ 0 → s.Sends t p (answer x.tag w 0 j.1 0 s.tick) ∧
      s.Counts t (plmbReg s.seqPort (0x20 + 8 * j.1)) ∧
      t = { s with ports := t.ports, counters := t.counters, admits := t.admits, admitRot := t.admitRot }) ∧
    (j.1 = 0 →
      let k := s.accepts.get c
      let line := s.classRing c + 64 * (k % s.classInflight c)
      let bytes := leBytes 8 (id + 2 ^ 32 * c) ++ leBytes 8 (leAt x.payload 8 8) ++ leBytes 8 s.tick ++ leBytes 8 j.2 ++ leBytes 8 k ++
        List.replicate 24 0
      let r : Request := ⟨s.requestCount, p, c, id, x.tag, s.tick, j.2, s.classCount c, 0, false, none, false, false, 0, 0xFFFF, false⟩
      s.Sends t p (answer x.tag w 0 0 j.2 s.tick) ∧
        s.Counts t (plmbReg s.seqPort 0x20) ∧ t.accepts.get c = k + 1 ∧ t.requestCount = s.requestCount + 1 ∧
        (∀ q : PierId, t.commit.get q.val = if s.classHas c q then
          max (s.commit.get q.val) (subMod (2 ^ 64) j.2 (s.classMargin c)) else s.commit.get q.val) ∧
        t.requests.length = s.requests.length + 1 ∧
        (∃ y ∈ t.requests, y.number = r.number ∧ y.promised = j.2 ∧ y.id = id ∧ y.port = p ∧ y.delivered = false) ∧
        (s.memHome line ≠ none → ∀ i, i < 64 → memGet t.mem (wrap52 (line + i)) = byteAt bytes i) ∧
        (∀ a, (∀ i, i < 64 → a ≠ wrap52 (line + i)) → memGet t.mem a = memGet s.mem a) ∧
        (s.classCount c = 1 →
          let h := headerOf (t.rawBytes (s.classProgram c) 64)
          unitExists h.unit = true → s.hasRoom h.key = true →
          t.requests = s.requests ++ [r] ∧ t.queue h.key = s.queue h.key ++ [.fresh h (.request r.number)] ∧
            ∀ q, q ≠ h.key → t.queue q = s.queue q) ∧
        (∀ q, (t.pier q).butCaches.butWake.butQueued = (s.pier q).butCaches.butWake.butQueued) ∧
        t = { s with
          mem := t.mem, poison := t.poison, piers := t.piers, ports := t.ports, counters := t.counters, queues := t.queues
          waitingSubs := t.waitingSubs, crossHeld := t.crossHeld, crossPtr := t.crossPtr, commit := t.commit
          accepts := t.accepts, requests := t.requests, requestCount := t.requestCount, held := t.held, edgeRot := t.edgeRot
          admits := t.admits, admitRot := t.admitRot })

/-- PROGRAM_COMPLETION and LATE_NOTICE (R408, R426, R427, R504), while a Skovlaper runs: a request whose program has completed is sent its
result by its promised tick, unless the program met a failed domain, or, after its late notice, its record; then it is gone. At its
promised tick an undelivered request is sent its late notice, once the reports of that tick have been taken. To a host that has departed
nothing is sent (R465); what is decided while the active Skovlaper is down stands with the standby, to be sent. The model's readings in
it: log 64. Completes: PROGRAM_COMPLETION, LATE_NOTICE. -/
def Obligations.deliveries : Prop :=
  let result := fun (r : Request) (kind stamp : Nat) => leBytes 8 (kind + 2 ^ 8 * r.cls + 2 ^ 16 * b2n r.error) ++ leBytes 8 r.id ++
    leBytes 8 r.promised ++ leBytes 8 stamp ++ leBytes 8 r.arrival ++ List.replicate 24 0
  (∀ (n : Nat) (s : State),
    (s.anySkov = false ∨ (∀ r, s.requests.find? (fun r => r.number == n) = some r → r.completed = none) →
      exec (.programCompletion n) s = .next s) ∧
    ∀ r tc, s.anySkov = true → s.requests.find? (fun r => r.number == n) = some r → r.completed = some tc →
      let bytes := if r.delivered then result r 4 tc else result r 3 s.tick
      (r.delivered = false → s.tick > r.promised ∨ r.failed = true → exec (.programCompletion n) s = .next s) ∧
      (r.delivered = true ∨ s.tick ≤ r.promised ∧ r.failed = false → ∃ t, exec (.programCompletion n) s = .next t ∧
        (∃ a b, s.requests = a ++ r :: b ∧ t.requests = a ++ b) ∧
        (s.activeUp = true → t.unsent = s.unsent ∧ (r.departed = false → s.Sends t r.port ⟨0x14, r.tag, 0, bytes⟩) ∧
          (r.departed = true → t.ports = s.ports ∧ s.Counts t (plmbReg r.port 0x10))) ∧
        (s.activeUp = false → t.ports = s.ports ∧ t.unsent = s.unsent ++ [(r, bytes)]) ∧
        (r.delivered = false → s.Counts t (plmbReg s.seqPort 0x68)) ∧ (∀ q, (s.port q).Transmits (t.port q)) ∧
        t = { s with requests := t.requests, ports := t.ports, counters := t.counters, unsent := t.unsent })) ∧
  ∀ s : State,
    let due := s.requests.filter fun r => !r.delivered && r.promised ≤ s.tick
    let ready := due.filter fun r => r.completed.isSome && s.tick ≤ r.promised && !r.failed
    (s.anySkov = false ∨ due = [] → exec .lateNotice s = .next s) ∧
    (s.anySkov = true → ∃ t, exec .lateNotice s = .next t ∧ (∀ q, (s.port q).Transmits (t.port q)) ∧
      (s.activeUp = false → t.ports = s.ports) ∧ (s.activeUp = true → t.unsent = s.unsent) ∧
      ((s.requests.map (·.number)).Nodup →
        (∀ r rest, ready = r :: rest → r.departed = false → s.activeUp = true →
          s.Sends t r.port ⟨0x14, r.tag, 0, result r 3 s.tick⟩) ∧
        (∀ r rest, ready = [] → due = r :: rest → r.departed = false → s.activeUp = true → s.Sends t r.port ⟨0x14, r.tag, 0,
          leBytes 8 (2 + 2 ^ 8 * r.cls + 2 ^ 16 * r.cause) ++ leBytes 8 (r.id + 2 ^ 32 * (r.done % 2 ^ 32)) ++ leBytes 8 r.promised ++
          leBytes 8 r.promised ++ leBytes 8 r.arrival ++ leBytes 8 r.unit ++ List.replicate 16 0⟩) ∧
        (∀ r ∈ t.requests, r.delivered = false → s.tick < r.promised) ∧
        (∀ r ∈ s.requests, r.delivered = true ∨ s.tick < r.promised → r ∈ t.requests) ∧
        ∀ r ∈ s.requests, r ∈ due → ((∃ y ∈ t.requests, y.number = r.number) ↔ r.completed = none ∧ r.todo ≠ 0)) ∧
      t = { s with requests := t.requests, ports := t.ports, counters := t.counters, unsent := t.unsent })

/-! ## Management -/

/-- The commands that only report or are turned away (R464, R467, R477, R499, R508, R524, R528, R529), of whoever they come from,
where they are served: each is answered, and nothing else changes. Elsewhere nothing answers. The model's readings in it: logs 73
and 75. Completes: STATUS, EVENT_NOTICE_FROM_HOST, MGMT_UNKNOWN_COMMAND, LOG_INFO, LOG_READ, SENSOR_READ, IDENTITY, ATTEST. -/
def Obligations.reports : Prop :=
  ∀ (m : Manager) (s : State),
    let certificate := Config.certificate
    let chunks := cdiv certificate.length 248
    let replies := fun (c : Instr) (rom : Bool) (bs : List Byte) =>
      (s.serves m rom = false → exec c s = .next s) ∧
      (s.serves m rom = true → s.linkUp m = true → ∃ t, exec c s = .next t ∧ s.OnlyAnswers t m bs);
    replies (.status m) true (answerBytes 0x01 0 0 (leBytes 8 (s.func.state + 8 * s.func.slot + 2 ^ 8 * s.func.checkA +
      2 ^ 12 * s.func.checkB + 2 ^ 32 * (s.func.generation % 2 ^ 32)))) ∧
    replies (.eventNoticeFromHost m) false (answerBytes 0x80 7 0 []) ∧
    (∀ code : Byte, knownCommand code.toNat = false →
      replies (.mgmtUnknownCommand m code) false (answerBytes code.toNat 7 0 [])) ∧
    replies (.logInfo m) false (answerBytes 0x30 0 0 (leBytes 8 s.oldestRecord ++ leBytes 8 s.recordCount)) ∧
    (∀ (n : Byte) (first : U64),
      let rs := s.ownLog.filter fun r => first.toNat ≤ recordNo r && recordNo r < first.toNat + n.toNat;
      replies (.logRead m n first) false (if n = 0 ∨ 3 < n.toNat then answerBytes 0x31 7 0 []
        else answerBytes 0x31 0 (2 ^ 16 * rs.length) rs.flatten)) ∧
    (∀ (first : Fin 128) (n : Byte),
      replies (.sensorRead m first n) false (if n = 0 ∨ 30 < n.toNat ∨ 128 < first.val + n.toNat then answerBytes 0x38 7 0 []
        else answerBytes 0x38 0 0 ((List.range n.toNat).flatMap fun i =>
          leBytes 8 (s.sensorValue.get (first.val + i) + 2 ^ 32 * s.sensorLevel.get (first.val + i) +
            2 ^ 34 * s.sensorValid.get (first.val + i))))) ∧
    (∀ chunk : U16,
      replies (.identity m chunk) false (if s.identityReady = false then answerBytes 0x20 1 0 []
        else if chunks ≤ chunk.toNat then answerBytes 0x20 7 (2 ^ 16 * (chunks % 65536)) []
        else answerBytes 0x20 0 (2 ^ 16 * (chunks % 65536)) ((certificate.drop (248 * chunk.toNat)).take 248))) ∧
    ∀ nonce : List Byte,
      (s.identityReady = false → replies (.attest m nonce) false (answerBytes 0x21 1 0 [])) ∧
      (s.serves m false = true → s.identityReady = true →
        let body := s.reportBody nonce
        let report := body ++ padTo 512 (Config.identitySign body)
        let parts := (List.range 5).map fun i => answerBytes 0x21 0 (2 ^ 16 * i) ((report.drop (248 * i)).take 248)
        ∃ t, exec (.attest m nonce) s = .next t ∧ (∀ p, (s.port p).Transmits (t.port p)) ∧
          (∀ p tag, m = .port p tag → (s.port p).canSend 0x16 = true → 5 ≤ (s.port p).credits.get 3 →
            (s.port p).sent ++ parts.map (fun bs => ⟨0x16, tag.toNat, 0, bs⟩) <+: (t.port p).sent) ∧
          (onSmbus m = true → t.smbus = s.smbus ++ parts.map (fun bs => (0x21, bs.drop 1))) ∧
          (s.linkUp m = true → t = { s with ports := t.ports, smbus := t.smbus }))

/-- BIND and UNBIND (R462, R477, R527): a port binds with the context of the loaded image, with any where that is 0 or none has
loaded, and an event says so; any other context is not allowed, nor is either command over the SMBus. Nothing else changes. The
model's readings in it: log 22. Completes: BIND, UNBIND. -/
def Obligations.bindings : Prop :=
  ∀ (m : Manager) (host : U16) (context : U64) (s : State),
    (s.serves m false = false → exec (.bind m host context) s = .next s ∧ exec (.unbind m) s = .next s) ∧
    (s.serves m false = true → s.linkUp m = true →
      let fits := context.toNat = s.func.context ∨ s.func.context = 0 ∨ s.func.ever = false
      let rest := fun (t : State) (p : PortId) =>
        { (t.port p).kept with bound := true, hostId := 0, context := 0 } = { (s.port p).kept with bound := true, hostId := 0, context := 0 } ∧
        ∀ r, r ≠ p → t.port r = s.port r;
      (onSmbus m = true ∨ ¬fits → ∃ t, exec (.bind m host context) s = .next t ∧ s.OnlyAnswers t m (answerBytes 0x02 4 0 [])) ∧
      (onSmbus m = true → ∃ t, exec (.unbind m) s = .next t ∧ s.OnlyAnswers t m (answerBytes 0x05 4 0 [])) ∧
      ∀ p tag, m = .port p tag →
        (fits → ∃ t, exec (.bind m host context) s = .next t ∧ s.Answers t m (answerBytes 0x02 0 0 []) ∧
          (t.port p).bound = true ∧ (t.port p).hostId = host.toNat ∧ (t.port p).context = context.toNat ∧ rest t p ∧
          s.Logs t { errorRecord 0x0D 0 13 0 0xFFFF s.tick with
            kind := 0x41, die := if s.activeD then 11 else 9, detail0 := 0x08, detail1 := p.val + 2 ^ 16 * host.toNat } ∧
          t = { s with ports := t.ports, counters := t.counters, held := t.held }) ∧
        ∃ t, exec (.unbind m) s = .next t ∧ s.Answers t m (answerBytes 0x05 0 0 []) ∧
          (t.port p).bound = false ∧ (t.port p).hostId = 0 ∧ (t.port p).context = (s.port p).context ∧ rest t p ∧
          t = { s with ports := t.ports })

/-- STOP (R478, R479, R481): turned away by its sender, mode or the function state; else a running module stops: undelivered
requests are to be late with cause 4, an abort discards every header that has not started, held-back submissions answered with status
5, and the module has stopped once nothing runs, no request waits and nothing drains. An abort of a quiesce goes on from its step, and
discards where that has not passed the discarding.
STOP_HOLD_EXPIRY: 10 ms into an abort, or 1 s into a quiesce, a header that runs at the head of its queue leaves it, and stopping
goes on. Which wait is over when is the model's reading (log 12). The model's readings in it: log 67. Completes: STOP,
STOP_HOLD_EXPIRY. -/
def Obligations.stopping : Prop :=
  (∀ (m : Manager) (mode : Byte) (s : State),
    (s.serves m false = false → exec (.stop m mode) s = .next s) ∧
    (s.serves m false = true → s.linkUp m = true →
      let may := ∃ p tag, m = .port p tag ∧ (s.port p).bound = true
      let ok := may ∧ mode.toNat ≤ 1
      let quiet := ∀ q, (s.quoin q).queue = [] ∧ (s.quoin q).placing = []
      let cleared := fun (t : State) => t.waitingSubs = [] ∧
        (∀ x ∈ t.queues, ∃ y ∈ s.queues, y.key = x.key ∧ x.entries = y.entries.filter (·.busy)) ∧
        (∀ y ∈ s.queues, ∀ e ∈ y.entries, e.busy = true → ∃ x ∈ t.queues, x.key = y.key ∧ e ∈ x.entries) ∧
        (∀ w ∈ s.waitingSubs, ∀ p k, w.ack = some (.mason p k) → ∀ c, (t.pier p).masons[k.val]? = some c → c.faulted = 2) ∧
        ∀ w, s.waitingSubs = [w] → ∀ p tag, w.ack = some (.host p tag) → (∀ g, m ≠ .port p g) →
          s.Sends t p ⟨0x12, tag.toNat, 5, []⟩
      let still := fun (p : Pier) => { p.butCaches with
        plru := p.plru, tiles := [], walks := [], lines := [], runs := [], coursesAwake := [], ckpt := none, ckptPhase := 0
        ckptDrainOk := false, masons := p.masons.map fun (c : Mason) => { c with faulted := 0 } }
      let rest := fun (t : State) => (∀ p, (s.port p).Transmits (t.port p)) ∧ (∀ p, still (t.pier p) = still (s.pier p)) ∧
        t = { s with
          piers := t.piers, ports := t.ports, counters := t.counters, held := t.held, queues := t.queues
          waitingSubs := t.waitingSubs, requests := t.requests, func := t.func, skovs := t.skovs };
      (∀ st, (¬may ∧ st = 4 ∨ may ∧ 1 < mode.toNat ∧ st = 7 ∨ ok ∧ (s.func.state = 5 ∨ s.func.state = 6) ∧ st = 0 ∨
          ok ∧ s.func.state = 4 ∧ (s.func.stopAbort = true ∧ mode = 0 ∧ st = 6 ∨ s.func.stopAbort = true ∧ mode = 1 ∧ st = 0 ∨
            s.func.stopAbort = false ∧ mode = 0 ∧ st = 0) ∨ ok ∧ s.func.state ≤ 2 ∧ st = 5) →
        ∃ t, exec (.stop m mode) s = .next t ∧ s.OnlyAnswers t m (answerBytes 0x03 st 0 [])) ∧
      (ok → s.func.state = 3 → s.func.downAfter = false → ∃ t, exec (.stop m mode) s = .next t ∧
        s.Answers t m (answerBytes 0x03 0 0 []) ∧ rest t ∧
        (∀ r ∈ t.requests, r.delivered = false → r.cause = 4) ∧
        (mode = 1 → cleared t) ∧ (mode = 0 → t.queues = s.queues ∧ t.waitingSubs = s.waitingSubs ∧ t.skovs = s.skovs) ∧
        (s.anyBusy = false → quiet → mode = 1 ∨ s.requests = [] ∧ (∀ p, (s.pier p).ckpt = none) →
          t.func.state = 5 ∧ ∀ p, (t.pier p).coursesAwake = [] ∧ (t.pier p).mortar = [] ∧ (t.pier p).bed = []) ∧
        (s.anyBusy = true ∨ ¬quiet ∨ mode = 0 ∧ (s.requests ≠ [] ∨ ∃ p, (s.pier p).ckpt ≠ none) →
          t.func.state = 4 ∧ t.func.stopAbort = decide (mode = 1))) ∧
      (ok → s.func.state = 4 → s.func.stopAbort = false → mode = 1 → s.func.downAfter = false →
        ∃ t, exec (.stop m mode) s = .next t ∧ s.Answers t m (answerBytes 0x03 0 0 []) ∧ rest t ∧
          (s.func.stopStep ≤ 2 → cleared t) ∧
          (2 < s.func.stopStep → t.queues = s.queues ∧ t.waitingSubs = s.waitingSubs ∧ t.requests = s.requests) ∧
          t.func.stopAbort = true ∧ (t.func.state = 4 ∨ t.func.state = 5)))) ∧
  ∀ s : State,
    let due := s.func.state = 4 ∧ s.func.stopStep = 3 ∧ s.func.stopSince + (if s.func.stopAbort then 500000 else 50000000) ≤ s.tick
    let still := fun (p : Pier) => { p.butWork.butWake with
      coursesAwake := [], keyArriving := [], keyDeferred := [], applies := [], ckpt := none, ckptPhase := 0, ckptDrainOk := false }
    (¬due → exec .stopHoldExpiry s = .next s) ∧
    (due → s.func.downAfter = false → ∃ t, exec .stopHoldExpiry s = .next t ∧
      (∀ k x xs, s.queue k = x :: xs → x.busy = true → (∀ y ∈ xs, y.busy = false) → t.queue k = xs) ∧
      (∀ k, (∀ x, s.head k = some x → x.busy = false) → t.queue k = s.queue k) ∧
      ((∃ q, (s.quoin q).queue ≠ [] ∨ (s.quoin q).placing ≠ []) → t.func.state = 4 ∧ t.func.stopStep = 5) ∧
      ((∀ q, (s.quoin q).queue = [] ∧ (s.quoin q).placing = []) → (∀ p, (s.pier p).ckpt = none) ∨ s.func.stopAbort = true →
        t.func.state = 5 ∧ t.func.stopStep = 0 ∧ ∀ p, (t.pier p).coursesAwake = [] ∧ (t.pier p).mortar = [] ∧ (t.pier p).bed = []) ∧
      (∀ p, still (t.pier p) = still (s.pier p)) ∧
      t = { s with
        mem := t.mem, poison := t.poison, piers := t.piers, ports := t.ports, counters := t.counters, held := t.held
        queues := t.queues, requests := t.requests, edgeRot := t.edgeRot, uRan := t.uRan, func := t.func
        linkHeld := t.linkHeld, crossHeld := t.crossHeld, crossPtr := t.crossPtr })

/-- START (R469, R470, R477, R480): turned away by its sender, slot or the function state; else start-up runs: an image of a slot
whose check passed is loaded, and waits for CXL windows or runs, or there is none, as where START names a slot that is not valid.
Where there is none, GDDR 7 is zero unless it is kept; kept, memory is as before. The order of a slot's checks is the model's (log
37). CXL_WAIT_TIMEOUT (R314, R469): past its time step 9 ends, and the image runs, with the table stores loaded since step 5. The
model's readings in it: log 69. Completes: START, CXL_WAIT_TIMEOUT. -/
def Obligations.starting : Prop :=
  (∀ (m : Manager) (slot : Fin 4) (keep : Bool) (s : State),
    (s.serves m false = false → exec (.start m slot keep) s = .next s) ∧
    (s.serves m false = true → s.linkUp m = true →
      let may := ∃ p tag, m = .port p tag ∧ (s.port p).bound = true
      (∀ st, (¬may ∧ st = 4 ∨ may ∧ slot = 3 ∧ st = 7 ∨ may ∧ slot ≠ 3 ∧ s.func.state ≠ 5 ∧ s.func.state ≠ 6 ∧ st = 6) →
        ∃ t, exec (.start m slot keep) s = .next t ∧ s.OnlyAnswers t m (answerBytes 0x04 st 0 [])) ∧
      (may → slot ≠ 3 → s.func.state = 5 ∨ s.func.state = 6 → ∃ t, exec (.start m slot keep) s = .next t ∧
        s.Answers t m (answerBytes 0x04 0 0 []) ∧ s.Started t ∧
        (t.func.state = 6 → keep = false → ∀ a, a < 0x20_0000_0000 → memGet t.mem a = 0) ∧
        (t.func.state = 6 → keep = true → t.mem = s.mem) ∧
        (slot = 1 → s.slotCheck false (s.skov s.activeD).imageFloor ≠ 1 → t.func.state = 6) ∧
        (slot = 2 → s.slotCheck true (s.skov s.activeD).imageFloor ≠ 1 → t.func.state = 6)))) ∧
  ∀ s : State,
    let due := s.func.state = 2 ∧ s.func.loaded = true ∧ s.power.regulators = true ∧ s.func.waitSince + 50000000 * s.func.cxlTimeout ≤ s.tick
    (¬due → exec .cxlWaitTimeout s = .next s) ∧
    (due → ∃ t, exec .cxlWaitTimeout s = .next t ∧ t.func = { s.func with state := 3 } ∧
      (∀ p, (t.pier p).epoch = 0 ∧ (t.pier p).policy = s.func.policyBase ∧ (∀ k, (t.pier p).keyAt k = 0) ∧ (t.pier p).cfg = (s.pier p).cfg ∧
        (t.pier p).stores = (s.pier p).stores) ∧
      (∀ q, (t.quoin q).queue = [] ∧ (t.quoin q).placing = []) ∧ t.mem = s.mem ∧ t.ports = s.ports ∧
      t = { s with
        piers := t.piers, quoins := t.quoins, counters := t.counters, held := t.held, queues := t.queues
        waitingSubs := t.waitingSubs, func := t.func, requests := t.requests, stepBase := t.stepBase, stepDone := t.stepDone
        uRan := t.uRan, linkHeld := [], crossHeld := t.crossHeld, accepts := t.accepts, edgeRot := t.edgeRot })

/-- The update commands (R481, R514, R526). UPDATE_BEGIN opens a session for a target of an allowed length, and erases a bulk
target's first block; another while one is open, or of the slot being loaded, is busy. UPDATE_DATA takes 1 to 248 bytes at or
above the next offset, in Skovlaper memory below 64 and for records, else in flash on every device of the target. UPDATE_COMMIT
ends the session with a check code, and leaves the flash as it was where that refuses; UPDATE_ABORT ends it;
UPDATE_SESSION_TIMEOUT after 10 s without a message. Data, commit and abort without a session are malformed, and busy of
another's. The model's readings in it: logs 40, 41 and 72. Completes: UPDATE_BEGIN, UPDATE_DATA,
UPDATE_COMMIT, UPDATE_ABORT, UPDATE_SESSION_TIMEOUT. -/
def Obligations.updates : Prop :=
  (∀ (m : Manager) (target : Byte) (length : U32) (s : State),
    let tg := target.toNat
    let n := length.toNat
    let rom := decide (tg = 2 ∨ tg = 3)
    let allowed := tg ≤ 1 ∧ n ≤ 805306368 ∨ (tg = 2 ∨ tg = 3) ∧ n ≤ 4194304 ∨ (tg = 4 ∨ tg = 5) ∧ n = 1024 ∨ tg = 6 ∧ n = 576
    let busy := s.session ≠ none ∨ s.func.state = 2 ∧ (tg = 0 ∧ s.func.slot = 1 ∨ tg = 1 ∧ s.func.slot = 2)
    let answers := fun (st : Nat) => ∃ t, exec (.updateBegin m target length) s = .next t ∧ s.OnlyAnswers t m (answerBytes 0x10 st 0 []);
    (s.serves m rom = false → exec (.updateBegin m target length) s = .next s) ∧
    (s.serves m rom = true → s.linkUp m = true → (¬allowed → answers 7) ∧ (allowed → busy → answers 6) ∧
      (allowed → ¬busy → ∃ t u, exec (.updateBegin m target length) s = .next t ∧ s.Answers t m (answerBytes 0x10 0 0 []) ∧
        t.session = some u ∧ u.owner = m ∧ u.target = tg ∧ u.length = n ∧ u.next = 0 ∧ u.lastTick = s.tick ∧
        (∀ dev off, t.flashAt dev off = if tg ≤ 3 ∧ dev ∈ targetDevs tg ∧ targetBase tg ≤ off ∧ off < targetBase tg + 65536 then 0xFF
          else s.flashAt dev off) ∧
        (∀ p, (s.port p).Transmits (t.port p)) ∧
        t = { s with
          session := t.session, flash0 := t.flash0, flash1 := t.flash1, erased0 := t.erased0, erased1 := t.erased1
          ports := t.ports, smbus := t.smbus }))) ∧
  (∀ (m : Manager) (s : State) (c : Instr) (cmd : Nat),
    ((∃ off data, c = .updateData m off data ∧ cmd = 0x11) ∨ c = .updateCommit m ∧ cmd = 0x12 ∨ c = .updateAbort m ∧ cmd = 0x13) →
    let answers := fun (st : Nat) => ∃ t, exec c s = .next t ∧ s.OnlyAnswers t m (answerBytes cmd st 0 []);
    (s.serves m s.sessionFirmware = false → exec c s = .next s) ∧
    (s.serves m s.sessionFirmware = true → s.linkUp m = true → (s.session = none → answers 7) ∧
      ∀ u, s.session = some u → sameOwner m u.owner = false → answers 6)) ∧
  (∀ (m : Manager) (s : State) (u : Session), s.serves m s.sessionFirmware = true → s.linkUp m = true → s.session = some u →
    sameOwner m u.owner = true →
    let own : State := { s with session := some { u with lastTick := s.tick } }
    (∀ (offset : U32) (data : List Byte),
      let off := offset.toNat
      let n := data.length
      let taken := 0 < n ∧ n ≤ 248 ∧ u.next ≤ off ∧ off + n ≤ u.length
      (¬taken → ∃ t, exec (.updateData m offset data) s = .next t ∧ s.Answers t m (answerBytes 0x11 7 0 []) ∧
        t = { own with ports := t.ports, smbus := t.smbus }) ∧
      (taken → ∃ t w, exec (.updateData m offset data) s = .next t ∧ s.Answers t m (answerBytes 0x11 0 0 []) ∧
        t.session = some w ∧ w.owner = u.owner ∧ w.target = u.target ∧ w.length = u.length ∧ w.next = off + n ∧ w.lastTick = s.tick ∧
        w.head.length = u.head.length ∧
        (∀ i, i < u.head.length → byteAt w.head i = if off ≤ i ∧ i < off + n then byteAt data (i - off) else byteAt u.head i) ∧
        (u.target ≤ 3 → ∀ dev ∈ targetDevs u.target, ∀ i, i < n → 64 ≤ off + i →
          t.flashAt dev (targetBase u.target + off + i) = byteAt data i) ∧
        (3 < u.target ∨ off + n ≤ 64 → ∀ dev a, t.flashAt dev a = s.flashAt dev a) ∧
        (∀ dev, dev ∉ targetDevs u.target → ∀ a, t.flashAt dev a = s.flashAt dev a) ∧
        (∀ p, (s.port p).Transmits (t.port p)) ∧
        t = { s with
          session := t.session, flash0 := t.flash0, flash1 := t.flash1, erased0 := t.erased0, erased1 := t.erased1
          ports := t.ports, smbus := t.smbus })) ∧
    (∃ t, exec (.updateAbort m) s = .next t ∧ s.Answers t m (answerBytes 0x13 0 0 []) ∧
      t = { s with session := none, ports := t.ports, smbus := t.smbus }) ∧
    ∃ t, exec (.updateCommit m) s = .next t ∧ t.session = none ∧
      (match own.commitOf { u with lastTick := s.tick } with
        | .good _ _ => s.Answers t m (answerBytes 0x12 0 0 (leBytes 8 1))
        | .bad code => s.Answers t m (answerBytes 0x12 1 0 (leBytes 8 code)) ∧ ∀ dev, t.flash dev = s.flash dev
        | .busy => s.Answers t m (answerBytes 0x12 6 0 (leBytes 8 0)) ∧ ∀ dev, t.flash dev = s.flash dev) ∧
      (let slot := (byteAt u.head 0).toNat;
        u.target = 6 → u.head.length = 576 →
        (4 ≤ slot ∨ keyMatches u.head slot = false → s.Answers t m (answerBytes 0x12 1 0 (leBytes 8 4))) ∧
        (slot < 4 → keyMatches u.head slot = true → ∀ dev i, i < 576 →
          t.flashAt dev (0x3F00_0000 + 1024 * slot + i) = byteAt u.head i)) ∧
      t = { s with
        session := none, flash0 := t.flash0, flash1 := t.flash1, erased0 := t.erased0, erased1 := t.erased1, skovs := t.skovs
        free := t.free, counters := t.counters, held := t.held, ports := t.ports, smbus := t.smbus }) ∧
  ∀ s : State,
    (s.session = none → exec .updateSessionTimeout s = .next s) ∧
    ∀ u, s.session = some u → exec .updateSessionTimeout s =
      .next (if s.tick < u.lastTick + 500000000 then s else { s with session := none })

/-! ## Power, Skovlaper and sensors -/

/-- The supplies and power commands (R7, R509, R510, R511, R525, R534, R535, R540). The standby supply starts the pilot count at
0; its loss leaves the module Off, with flash and logs as they were. The main supply, pins 7 and 8 joined, PWR_DIS low and no hold
let a module in Standby start; the loss of any of the three is a trip of sensor 64 that switches the regulators off. POWER_DOWN
switches them off, at once or, of a running module by force, through an abort; POWER_UP ends the hold. The model's readings in it:
logs 66, 70 and 74. Completes: STANDBY_SUPPLY_UP,
STANDBY_SUPPLY_LOSS, MAIN_SUPPLY_UP, MAIN_SUPPLY_LOSS, PWR_DIS_CHANGE, POWER_DOWN, POWER_UP. -/
def Obligations.power : Prop :=
  (∀ s : State, (s.power.standby = true → exec .standbySupplyUp s = .next s) ∧
    (s.power.standby = false → ∃ t, exec .standbySupplyUp s = .next t ∧ t.tick = 0 ∧ t.power = { s.power with standby := true } ∧
      t = { s with tick := 0, power := t.power, counters := t.counters, held := t.held }) ∧
    (s.power.standby = false → exec .standbySupplyLoss s = .next s) ∧
    (s.power.standby = true → ∃ t, exec .standbySupplyLoss s = .next t ∧ t.tick = 0 ∧ t.func = Func.reset ∧
      t.power = { Power.reset with main := s.power.main, shortPin := s.power.shortPin, pwrDis := s.power.pwrDis } ∧
      t.queues = [] ∧ t.requests = [] ∧ t.session = none ∧ t.held = [] ∧ t.counters = [] ∧
      (∀ a, a < 0x1000_0000_0000 → memGet t.mem a = 0) ∧ (∀ d, (t.skov d).up = false) ∧
      (t.skov false).active = true ∧ (t.skov true).active = false ∧
      (∀ p, (∀ k, (t.pier p).keyAt k = 0) ∧ (t.pier p).coreMap = (s.pier p).coreMap ∧ (t.pier p).keySpare = (s.pier p).keySpare ∧
        (t.pier p).chanMap = s.loggedMap p) ∧
      (∀ p, (t.port p).spareUsed = (s.port p).spareUsed ∧ (t.port p).retired = (s.port p).retired) ∧
      t.laneSpares = s.laneSpares ∧ t.retired = s.retired ∧ t.degraded = s.degraded ∧ t.log0 = s.log0 ∧ t.log1 = s.log1 ∧
      t.recordCount = s.recordCount ∧ t.flash0 = s.flash0 ∧ t.flash1 = s.flash1 ∧ t.erased0 = s.erased0 ∧ t.erased1 = s.erased1)) ∧
  (∀ s : State,
    let begins := fun (c : Instr) (power : Power) =>
      let u : State := { s with power := power };
      (¬u.mayIdle → exec c s = .next u) ∧
      (u.mayIdle → ∃ t, exec c s = .next t ∧ t.power = { power with regulators := true } ∧ u.Started t)
    let ends := fun (c : Instr) (power : Power) =>
      let u : State := { s with power := power };
      (s.power.regulators = false → exec c s = .next u) ∧
      (s.power.regulators = true → ∃ t, exec c s = .next t ∧ u.MainOff t ∧ t.power.tripped = true ∧ t.power.tripSensor = 64 ∧
        ∀ r ∈ t.requests, r.delivered = false → r.cause = 4);
    begins .mainSupplyUp { s.power with main := true, shortPin := true } ∧
    begins (.pwrDisChange false) { s.power with pwrDis := false } ∧
    ends (.mainSupplyLoss false) { s.power with main := false } ∧
    ends (.mainSupplyLoss true) { s.power with shortPin := false } ∧
    ends (.pwrDisChange true) { s.power with pwrDis := true }) ∧
  ∀ (m : Manager) (force : Bool) (s : State),
    (s.serves m false = false → exec (.powerDown m force) s = .next s ∧ exec (.powerUp m) s = .next s) ∧
    (s.serves m false = true → s.linkUp m = true →
      let may := ∀ p tag, m = .port p tag → (s.port p).bound = true
      let now := ∀ p tag, m = .port p tag → (s.port p).canSend 0x16 = true
      (¬may → (∃ t, exec (.powerDown m force) s = .next t ∧ s.OnlyAnswers t m (answerBytes 0x3A 4 0 [])) ∧
        ∃ t, exec (.powerUp m) s = .next t ∧ s.OnlyAnswers t m (answerBytes 0x3B 4 0 [])) ∧
      (may → force = false → s.func.state ≠ 5 → s.func.state ≠ 6 →
        ∃ t, exec (.powerDown m force) s = .next t ∧ s.OnlyAnswers t m (answerBytes 0x3A 6 0 [])) ∧
      (may → s.func.state = 5 ∨ s.func.state = 6 ∨ force = true ∧ s.func.state ≤ 2 →
        ∃ t, exec (.powerDown m force) s = .next t ∧ (now → s.Answers t m (answerBytes 0x3A 0 0 [])) ∧
          (s.power.regulators = true → s.MainOff t ∧ t.power.tripped = false) ∧
          (s.power.regulators = false → t.power = { s.power with heldDown := true } ∧
            (∀ p, (s.port p).Transmits (t.port p)) ∧
            t = { s with power := t.power, func := { s.func with downAfter := t.func.downAfter }, ports := t.ports, smbus := t.smbus })) ∧
      (may → force = true → s.func.state = 3 → ∃ t, exec (.powerDown m force) s = .next t ∧
        (now → s.Answers t m (answerBytes 0x3A 0 0 [])) ∧
        (t.func.state = 4 ∧ t.func.downAfter = true ∧ t.func.stopAbort = true ∧ t.waitingSubs = [] ∨
          t.func.state = 1 ∧ t.power.regulators = false ∧ t.power.heldDown = true ∧ t.queues = [])) ∧
      (may → ∃ t, exec (.powerUp m) s = .next t ∧ s.Answers t m (answerBytes 0x3B 0 0 []) ∧
        (let u : State := { s with power := { s.power with heldDown := false } };
          (¬u.mayIdle → t = { u with ports := t.ports, smbus := t.smbus }) ∧
          (u.mayIdle → t.power = { u.power with regulators := true } ∧ u.Started t))))

/-- The Skovlapers (R501 to R506, R516, R518, R521, R523, R528). SKOVLAPER_BOOT of one that has power and has not booted, at
power-on or with no other up, tries its PUF, takes its floors in force, and runs its copy of firmware or enters recovery; once
both have done so at power-on, one that runs is active and the module leaves its first state. SKOVLAPER_REJOIN boots one beside
the active. HEARTBEAT_LOSS: the standby becomes active, resets its peer, ends an update session and sends the decisions that its peer has not.
WATCHDOG_EXPIRY resets one whose window passed without a kick, its RW registers with it, and where no other is up its memory; WATCHDOG_KICK is its own firmware's write of SKOV_WDOG; anyone else's is answered and changes
nothing, and one of another width is an access error (R12). The model's readings in it: logs 38 and 71. Completes: SKOVLAPER_BOOT,
SKOVLAPER_REJOIN, HEARTBEAT_LOSS, WATCHDOG_EXPIRY, WATCHDOG_KICK. -/
def Obligations.skovlapers : Prop :=
  (∀ (d : Bool) (s : State),
    let k := s.skov d
    let other := s.skov !d
    let fl := s.floors d
    let base := s.updSkov d fun k => { k with
      boots := k.boots + 1, keys := s.pufTries d, fwFloor := fl.fw, imageFloor := fl.image, floorUnauth := !fl.good }
    let booted := fun (t : State) =>
      (t.skov d).boots = k.boots + 1 ∧ (t.skov d).keys = s.pufTries d ∧ (t.skov d).fwFloor = fl.fw ∧ (t.skov d).imageFloor = fl.image ∧
      (t.skov d).floorUnauth = !fl.good ∧
      (∀ c, base.fwChoice d = some c → (t.skov d).up = true ∧ (t.skov d).recovery = false ∧ (t.skov d).fwCopy = c ∧
        (t.skov d).wdogMs = 100 ∧ (t.skov d).kickTick = s.tick ∧ (t.skov d).fwVersion = s.fwVersion d c) ∧
      (base.fwChoice d = none → (t.skov d).up = k.up ∧ (t.skov d).recovery = true);
    let first := s.power.standby = true ∧ k.decided = false ∧ (s.func.state = 0 ∨ other.up = false)
    let again := s.power.standby = true ∧ k.decided = false ∧ k.active = false ∧ s.func.state ≠ 0 ∧ other.up = true
    (¬first → exec (.skovlaperBoot d) s = .next s) ∧
    (first → ∃ t, exec (.skovlaperBoot d) s = .next t ∧ booted t ∧ (t.skov !d).up = other.up ∧ (t.skov !d).boots = other.boots ∧
      (s.func.state ≠ 0 ∨ other.decided = false →
        (t.skov !d) = other ∧ t = { s with skovs := t.skovs, counters := t.counters, held := t.held }) ∧
      (s.func.state = 0 → other.decided = true → (t.skov d).up = true ∨ other.up = true →
        1 ≤ t.func.state ∧ (t.skov t.activeD).up = true)) ∧
    (¬again → exec (.skovlaperRejoin d) s = .next s) ∧
    (again → ∃ t, exec (.skovlaperRejoin d) s = .next t ∧ booted t ∧ (t.skov d).active = false ∧
      (t.skov d).peerReady = true ∧ (t.skov !d).peerReady = (t.skov d).up ∧ (t.skov !d).active = other.active ∧
      t = { s with skovs := t.skovs, counters := t.counters, held := t.held })) ∧
  (∀ (watchdog : Bool) (s : State),
    let old := s.activeD
    let may := s.power.standby = true ∧ (s.skov !old).up = true ∧ (watchdog = true → (s.skov old).up = false)
    (¬may → exec (.heartbeatLoss watchdog) s = .next s) ∧
    (may → ∃ t, exec (.heartbeatLoss watchdog) s = .next t ∧ t.session = none ∧
      t.skov old = { s.skov old with up := false, peerReady := false, peerRecovery := false, wdogMs := 100, active := false } ∧
      t.skov (!old) = { s.skov (!old) with
        peerReady := false, active := true, takeovers := min (2 ^ 32 - 1) ((s.skov !old).takeovers + 1) } ∧
      (s.unsent = [] → t.ports = s.ports) ∧ t.unsent = [] ∧ (∀ p, (s.port p).Transmits (t.port p)) ∧
      (∀ r bs, s.unsent = [(r, bs)] → r.departed = false → s.Sends t r.port ⟨0x14, r.tag, 0, bs⟩) ∧
      s.Logs t { errorRecord 0x0D 0 13 0 0xFFFF s.tick with
        kind := 0x41, die := if !old then 11 else 9, detail0 := 0x03, detail1 := b2n (!old) + 2 ^ 8 * b2n watchdog } ∧
      t = { s with
        skovs := t.skovs, session := none, counters := t.counters, held := t.held, ports := t.ports, unsent := t.unsent })) ∧
  (∀ (d : Bool) (s : State),
    let k := s.skov d
    let due := k.up = true ∧ k.kickTick + max 1 k.wdogMs * 50000 ≤ s.tick
    (¬due → exec (.watchdogExpiry d) s = .next s) ∧
    (due → ∃ t, exec (.watchdogExpiry d) s = .next t ∧
      t.skov d = { k with
        expiries := min (2 ^ 32 - 1) (k.expiries + 1), up := false, peerReady := false, peerRecovery := false, wdogMs := 100 } ∧
      t.skov (!d) = { s.skov (!d) with peerReady := false } ∧
      ((s.skov !d).up = true → t = { s with skovs := t.skovs, counters := t.counters, held := t.held }) ∧
      ((s.skov !d).up = false → t = { s with
        skovs := t.skovs, counters := t.counters, held := t.held, session := none, requests := [], unsent := [], smbus := []
        sensorValue := [], sensorLevel := [], sensorValid := [], sensorSince := [] })) ∧
    ∀ data : List Byte,
      let v := leAt data 0 8
      let st := if data.length = 8 then 0 else 1
      (k.up = true → data.length = 8 → exec (.watchdogKick (.skov d) (skovReg d 8) data) s = .next (s.updSkov d fun k => { k with
        wdogMs := v % 65536, expiries := v / 2 ^ 32, kickTick := if bitAt v 16 then s.tick else k.kickTick, status := 0 })) ∧
      (k.up = true → data.length ≠ 8 →
        exec (.watchdogKick (.skov d) (skovReg d 8) data) s = .next (s.updSkov d fun k => { k with status := 1 })) ∧
      (k.up = false → exec (.watchdogKick (.skov d) (skovReg d 8) data) s = .next s) ∧
      exec (.watchdogKick (.skov d) (skovReg (!d) 8) data) s = .next (s.updSkov d fun k => { k with status := st }) ∧
      ∀ src, s.reaches src (cornerPier (if d then 3 else 1)) 2 → (∀ p tag, src = .host p tag → 1 ≤ data.length ∧ data.length ≤ 248) →
        ∃ t, exec (.watchdogKick src (skovReg d 8) data) s = .next t ∧ s.Acked t src st ∧
          (∀ p, { t.pier p with masons := [] } = { s.pier p with masons := [] }) ∧
          t = { s with ports := t.ports, piers := t.piers, edgeRot := t.edgeRot }) ∧
  ∀ (src : Source) (a : Nat) (data : List Byte) (s : State), a ≠ skovReg false 8 → a ≠ skovReg true 8 →
    exec (.watchdogKick src a data) s = .next s

/-- SENSOR_SAMPLE (R507 to R510): with a Skovlaper up, an index below 84 takes its value, valid; a standby supply below 3.0 V is its
loss. From level 0, of a sensor but the wall and quoin diodes, a value short of the trip threshold gives critical, warning or
normal by the first threshold that it passes. A change of level is an event; one to the trip level switches the regulators off, and in
Standby holds them off but for the 54 V supply, whose return from it lets a module start that everything else permits.
The model's readings in it: log 39. Completes: SENSOR_SAMPLE. -/
def Obligations.sensors : Prop :=
  ∀ (i : Fin 128) (v sp : Int) (s : State),
    let may := s.power.standby = true ∧ i.val < 84 ∧ ((s.skov false).up = true ∨ (s.skov true).up = true)
    let low := i.val = 65 ∧ v < 3000
    (¬may → exec (.sensorSample i v sp) s = .next s) ∧
    (may → low → exec (.sensorSample i v sp) s = exec .standbySupplyLoss s) ∧
    (may → ¬low → ∃ t, exec (.sensorSample i v sp) s = .next t ∧
      (t.sensorValue.get i.val : Int) = v % 2 ^ 32 ∧ t.sensorValid.get i.val = 1 ∧ t.sensorLevel.get i.val ≤ 3 ∧
      (∀ j, j ≠ i.val → t.sensorValue.get j = s.sensorValue.get j ∧ t.sensorLevel.get j = s.sensorLevel.get j ∧
        t.sensorValid.get j = s.sensorValid.get j ∧ t.sensorSince.get j = s.sensorSince.get j) ∧
      (35 < i.val → s.sensorLevel.get i.val = 0 → beyond i.val v sp 3 false = false →
        t.sensorLevel.get i.val = if beyond i.val v sp 2 false then 2 else if beyond i.val v sp 1 false then 1 else 0) ∧
      (let u : State := { s with
          sensorValue := t.sensorValue, sensorLevel := t.sensorLevel, sensorValid := t.sensorValid, sensorSince := t.sensorSince };
        (t.sensorLevel.get i.val = s.sensorLevel.get i.val → t = u) ∧
        (t.sensorLevel.get i.val ≠ s.sensorLevel.get i.val → t.sensorLevel.get i.val ≠ 3 ∨ s.power.regulators = false →
          ¬(i.val = 64 ∧ t.sensorLevel.get i.val ≠ 3 ∧ u.mayIdle) →
          s.Logs t { errorRecord 0x0D 0 13 0 0xFFFF s.tick with
            kind := 0x41, die := if s.activeD then 11 else 9, detail0 := 0x0E
            detail1 := i.val + 2 ^ 8 * t.sensorLevel.get i.val } ∧
          t = { u with counters := t.counters, held := t.held, power := if t.sensorLevel.get i.val = 3 ∧ i.val ≠ 64
            then { s.power with heldDown := true, tripped := true, tripSensor := i.val } else s.power }) ∧
        (i.val = 64 → t.sensorLevel.get 64 ≠ s.sensorLevel.get 64 → t.sensorLevel.get 64 ≠ 3 → u.mayIdle →
          t.power = { s.power with regulators := true } ∧ u.Started t) ∧
        (t.sensorLevel.get i.val = 3 → s.sensorLevel.get i.val ≠ 3 → s.power.regulators = true →
          u.MainOff t ∧ t.power.tripped = true ∧ t.power.tripSensor = i.val)))

/-! ## Registers and mason cores -/

/-- COUNTER_READ and REGISTER_WRITE of an aligned register (R13, R166, R206, R502, R548, R550, R558): a counter's read returns its
value and leaves it 0; any other register's read returns it and changes nothing; where nothing is listed it returns 0 (R14). A
write of ones to PIER_FP_FLUSHED or PIER_NONFINITE clears those bits, SKOV_ROLE takes its count, and any other write changes
nothing. An access that is no aligned 64-bit one has status 1, returns zeros and changes nothing (R12). The model's readings in it: log
19. Completes: COUNTER_READ, REGISTER_WRITE. -/
def Obligations.registers : Prop :=
  (∀ (src : Source) (pier : PierId) (off addr : Nat) (s : State), s.place addr = .control pier off → off % 8 = 0 →
    s.reachesRegs src pier 1 →
    let own := 0x20_0000 ≤ off ∧ off < 0x40_0000
    let quoin := fun (q : QuoinId) => cornerPier q = pier ∧ 0x80_0000 ≤ off ∧ off < 0x90_0000
    let rest := fun (t : State) => (∀ p, { t.pier p with masons := [] } = { s.pier p with masons := [] }) ∧
      t = { s with counters := t.counters, ports := t.ports, piers := t.piers, skovs := t.skovs, edgeRot := t.edgeRot };
    (own ∧ pierCounter (off - 0x20_0000) = true ∨ (∃ q, quoin q ∧ quoinCounter q (off - 0x80_0000) = true) →
      ∃ t, exec (.counterRead src addr 8) s = .next t ∧ s.Told t src 0 8 (s.counters.get (controlBase pier + off)) ∧
        t.counters.get (controlBase pier + off) = 0 ∧
        (∀ r, r ≠ controlBase pier + off → t.counters.get r = s.counters.get r) ∧ rest t) ∧
    (own → pierCounter (off - 0x20_0000) = false → ∃ t, exec (.counterRead src addr 8) s = .next t ∧ t.counters = s.counters ∧
      s.Told t src 0 8 (s.pierWord pier (off - 0x20_0000)) ∧ rest t) ∧
    ∀ q, quoin q → quoinCounter q (off - 0x80_0000) = false → ∃ t, exec (.counterRead src addr 8) s = .next t ∧
      t.counters = s.counters ∧ s.Told t src 0 8 (s.quoinWord q (off - 0x80_0000)) ∧ rest t) ∧
  (∀ (p : PierId) (s : State),
    s.pierWord p 0x40 = (s.pier p).epoch % 2 ^ 32 + 2 ^ 32 * ((s.pier p).policy % 2 ^ 32) ∧
    s.pierWord p 0x48 = (s.pier p).bondPos % 2 ^ 14 + 2 ^ 14 * b2n (s.pier p).awake ∧ s.pierWord p 0x58 = (s.pier p).chanMap.toNat ∧
    s.pierWord p 0x80 = (s.pier p).fpFlushed.toNat ∧ s.pierWord p 0x88 = (s.pier p).nonfinite.toNat ∧
    s.pierWord p 0x20 = 0 ∧ s.pierWord p 0x100 = (s.pier p).cfg.fpMode.toNat ∧ s.pierWord p 0x1B8 = (s.pier p).cfg.ckptCxl.toNat) ∧
  (∀ (src : Source) (pier : PierId) (off addr : Nat) (data : List Byte) (s : State), s.place addr = .control pier off →
    0x20_0000 ≤ off → off < 0x40_0000 →
    let fits := fun (n : Nat) => ∀ p tag, src = .host p tag → 1 ≤ n ∧ n ≤ 256 ∧ addr % 256 + n ≤ 256
    let rest := fun (t : State) => (∀ p, { t.pier p with masons := [] } = { s.pier p with masons := [] }) ∧
      t = { s with ports := t.ports, piers := t.piers, skovs := t.skovs, edgeRot := t.edgeRot };
    (∀ n, n ≠ 8 ∨ off % 8 ≠ 0 → s.reachesRegs src pier 1 → fits n → ∃ t, exec (.counterRead src addr n) s = .next t ∧
      s.Told t src 1 n 0 ∧ rest t) ∧
    (data.length ≠ 8 ∨ off % 8 ≠ 0 → s.reachesRegs src pier 2 → fits data.length →
      ∃ t, exec (.registerWrite src addr data) s = .next t ∧ s.Acked t src 1 ∧ rest t)) ∧
  ∀ (src : Source) (pier : PierId) (off addr : Nat) (data : List Byte) (s : State), s.place addr = .control pier off → off % 8 = 0 →
    data.length = 8 → s.reachesRegs src pier 2 →
    let m := ~~~(BitVec.ofNat 64 (leAt data 0 8))
    let rest := fun (t : State) (f : Pier → Pier) =>
      (∀ p, { t.pier p with masons := [] } = { (if p = pier then f (s.pier p) else s.pier p) with masons := [] }) ∧
      t = { s with ports := t.ports, piers := t.piers, skovs := t.skovs, edgeRot := t.edgeRot };
    let done := fun (f : Pier → Pier) => ∃ t, exec (.registerWrite src addr data) s = .next t ∧ s.Acked t src 0 ∧ rest t f;
    (off = 0x20_0080 → done fun pr => { pr with fpFlushed := pr.fpFlushed &&& m }) ∧
    (off = 0x20_0088 → done fun pr => { pr with nonfinite := pr.nonfinite &&& m }) ∧
    (0x20_0000 ≤ off → off < 0x40_0000 → off ≠ 0x20_0080 → off ≠ 0x20_0088 → done fun pr => pr) ∧
    (∀ q, cornerPier q = pier → 0x80_0000 ≤ off → off < 0x90_0000 → off ≠ 0x80_1000 → off ≠ 0x80_1008 → done fun pr => pr) ∧
    ∀ d, cornerPier (if d then 3 else 1) = pier → off = 0x80_1000 → ∃ t, exec (.registerWrite src addr data) s = .next t ∧
      (s.updSkov d fun k => { k with takeovers := leAt data 2 4 }).Acked t src 0 ∧ rest t fun pr => pr

/-- MASON_LOAD_STORE (R32, R34, R369, R371, R379, R386, R405, R438): a core that waits for an interrupt, has failed, has a store held
at a submission line or whose pier sleeps does nothing. Of its own pier's memory a load or fetch reads, a store writes; a load-reserved
takes a reservation, which the core's L2 copy keeps, a store-conditional writes and answers 0 where that stands and else answers 1,
and the other atomic operations read and write what they compute. A poisoned line, counted, a failed domain, memory that is not all
its own pier's, another pier's block, or a fetch or atomic of any block raises the access fault of its kind. The model's readings in
it: logs 15, 62 and 94. Completes: MASON_LOAD_STORE. -/
def Obligations.mason_accesses : Prop :=
  ∀ (p : PierId) (k : Fin 8) (a n : Nat) (data : List Byte) (s : State), Sound s →
    let runs := (∃ m, (s.pier p).masons[k.val]? = some m ∧ m.waits = false) ∧ s.isFailed (.mason p k) = false ∧
      ∀ w ∈ s.waitingSubs, w.ack ≠ some (.mason p k)
    let mine := fun (n : Nat) => ∀ i, i < n → s.memHome (a + i) = some p
    let refused := ∃ i, i < n ∧ s.dead p (lineOf (a + i)) = true
    let hurt := ∃ i, i < n ∧ lineOf (a + i) ∈ s.poison
    let block := ∃ q off, s.place a = .control q off
    let left := fun (t : State) (f : Mason → Mason) => (t.pier p).masons = (s.pier p).masons.modify k.val f
    let rest := fun (t : State) => (∀ r, r ≠ p → t.pier r = s.pier r) ∧ (t.pier p).bed = (s.pier p).bed ∧
      { (t.pier p).butCaches with masons := [] } = { (s.pier p).butCaches with masons := [] } ∧
      t = { s with piers := t.piers, counters := t.counters }
    let raises := fun (op : MasonOp) =>
      ∃ ms, exec (.masonLoadStore p k op a n data) s = .next (s.updPier p fun pr => { pr with masons := ms }) ∧
        ms = (s.pier p).masons.modify k.val fun m => { m with faulted := faultOf op }
    let old := ofBytes (memRead s.mem a n)
    let m := 2 ^ (8 * n)
    let v := ofBytes data % m
    let signed := fun (x : Nat) => if 2 * x < m then (x : Int) else (x : Int) - m
    let wrote := fun (t : State) (bs : List Byte) (c : Nat) =>
      (∀ i, i < c → memGet t.mem (wrap52 (a + i)) = byteAt bs i) ∧
      (∀ b, (∀ i, i < c → b ≠ wrap52 (a + i)) → memGet t.mem b = memGet s.mem b) ∧
      (∀ r, r ≠ p → t.pier r = s.pier r) ∧
      { (t.pier p).butCaches with masons := [] } = { (s.pier p).butCaches with masons := [] } ∧
      t = { s with mem := t.mem, poison := t.poison, piers := t.piers, counters := t.counters };
    (¬runs → ∀ op, exec (.masonLoadStore p k op a n data) s = .next s) ∧
    (runs → s.deadPier p = true → ∀ op, raises op) ∧
    (runs → s.deadPier p = false → (s.pier p).awake = false → ∀ op, exec (.masonLoadStore p k op a n data) s = .next s) ∧
    (runs → s.deadPier p = false → (s.pier p).awake = true →
      (¬block → mine n → ¬refused → ¬hurt →
        (∃ t, exec (.masonLoadStore p k .load a n data) s = .next t ∧ rest t ∧
          left t fun m => { m with loaded := old, faulted := 0 }) ∧
        (∃ t, exec (.masonLoadStore p k .fetch a n data) s = .next t ∧ rest t ∧ left t fun m => { m with faulted := 0 }) ∧
        (∃ t, exec (.masonLoadStore p k (.atomic .loadReserved) a n data) s = .next t ∧ rest t ∧
          left t fun m => { m with loaded := old, faulted := 0, reserve := some (lineOf a) }) ∧
        ∀ (op : Atomic) (new : Nat), (op, new) ∈ [(Atomic.swap, v), (.add, (old + v) % m), (.xor, old ^^^ v), (.and, old &&& v),
            (.or, old ||| v), (.min, if signed old < signed v then old else v), (.max, if signed old < signed v then v else old),
            (.minu, min old v), (.maxu, max old v)] → n ≤ 2 ^ 52 →
          ∃ t, exec (.masonLoadStore p k (.atomic op) a n data) s = .next t ∧ wrote t (leBytes n new) n ∧
            left t fun m => { m with loaded := old, faulted := 0 }) ∧
      (¬block → mine n → ¬refused → hurt → ∀ op, op ≠ .store → op ≠ .atomic .storeConditional →
        ∃ t, exec (.masonLoadStore p k op a n data) s = .next t ∧ rest t ∧ (left t fun m => { m with faulted := faultOf op }) ∧
          (a % 64 + n ≤ 64 → s.Counts t (pierCtr p kPoisonRead))) ∧
      (¬block → mine n → refused → ∀ op, op ≠ .store → op ≠ .atomic .storeConditional → raises op) ∧
      (¬block → mine n → n ≤ 2 ^ 52 →
        let stands := s.reservation p k (lineOf a) = true;
        (stands → ∃ t, exec (.masonLoadStore p k (.atomic .storeConditional) a n data) s = .next t ∧ wrote t data n ∧
          t.counters = s.counters ∧ left t fun m => { m with loaded := 0, faulted := 0, reserve := none }) ∧
        (¬stands → ∃ t, exec (.masonLoadStore p k (.atomic .storeConditional) a n data) s = .next t ∧ rest t ∧
          t.counters = s.counters ∧ left t fun m => { m with loaded := 1, faulted := 0, reserve := none })) ∧
      (¬block → mine data.length → data.length ≤ 2 ^ 52 → ∃ t, exec (.masonLoadStore p k .store a n data) s = .next t ∧
        wrote t data data.length ∧ t.counters = s.counters ∧ left t fun m => { m with faulted := 0 }) ∧
      (∀ op, (¬block ∧ (op = .store ∧ ¬mine data.length ∨ op ≠ .store ∧ ¬mine n) ∨
          ((op = .load ∨ op = .store) ∧ ∃ q off, s.place a = .control q off ∧ q ≠ p) ∨
          op ≠ .load ∧ op ≠ .store ∧ block) → raises op) ∧
      ∀ off, s.place a = .control p off →
        (0x20_0000 ≤ off → off < 0x40_0000 →
          exec (.masonLoadStore p k .load a n data) s = exec (.counterRead (.mason p k) a n) s) ∧
        (0x10_0000 ≤ off → off < 0x10_0100 →
          exec (.masonLoadStore p k .store a n data) s = exec (.submissionLineWrite (.mason p k) a data) s) ∧
        (off < 0x4_0000 → off % 64 / 8 = 1 →
          exec (.masonLoadStore p k .store a n data) s = exec (.keystoneAddWrite (.mason p k) a data) s))
end

