-- ==== Sys2Proof/Laws/Memory.lean ====
section
/-! SUPPORT. Sparse tables: a key reads what was put there, other keys as before. Memory keeps its canonical form under every
operation on it, and a byte reads what was written there, others as before (R9, R367). -/

namespace Sys2Proof.Machine

/-! ## Tables -/

theorem Table.get_put (t : Table) (x y : Nat) : (t.put x y).get x = y := by
  induction t with
  | nil => simp [Table.put, Table.get]
  | cons e t ih =>
    obtain ⟨k, v⟩ := e
    simp only [Table.put]
    split
    · simp [Table.get]
    · split
      · simp [Table.get]
      · rename_i h
        have : (k == x) = false := by
          simp only [beq_iff_eq, beq_eq_false_iff_ne, ne_eq] at h ⊢
          omega
        simp [Table.get, this, ih]

theorem Table.get_put_ne (t : Table) {x z : Nat} (y : Nat) (h : z ≠ x) : (t.put x y).get z = t.get z := by
  have hx : (x == z) = false := by simpa using fun e => h (Eq.symm e)
  induction t with
  | nil => simp [Table.put, Table.get, hx]
  | cons e t ih =>
    obtain ⟨k, v⟩ := e
    simp only [Table.put]
    split
    · simp [Table.get, hx]
    · split
      · rename_i h2
        have hk : x = k := by simpa using h2
        subst hk
        simp [Table.get, hx]
      · simp only [Table.get, ih]

theorem Table.get_filter_ne (t : Table) (x : Nat) : Table.get (t.filter (fun e => e.1 != x)) x = 0 := by
  induction t with
  | nil => rfl
  | cons e t ih =>
    obtain ⟨k, v⟩ := e
    by_cases h : k = x
    · subst h
      simp only [List.filter_cons, bne_self_eq_false, Bool.false_eq_true, if_false, ih]
    · simp only [List.filter_cons, bne_iff_ne, ne_eq, h, not_false_eq_true, if_true]
      simp only [Table.get, beq_iff_eq, h, if_false]
      exact ih

theorem Table.get_filter_other (t : Table) {x z : Nat} (hz : z ≠ x) : Table.get (t.filter (fun e => e.1 != x)) z = t.get z := by
  induction t with
  | nil => rfl
  | cons e t ih =>
    obtain ⟨k, v⟩ := e
    by_cases h : k = x
    · subst h
      have hz' : (k == z) = false := by simpa using fun e => hz (Eq.symm e)
      simp only [List.filter_cons, bne_self_eq_false, Bool.false_eq_true, if_false, ih, Table.get, hz']
    · simp only [List.filter_cons, bne_iff_ne, ne_eq, h, not_false_eq_true, if_true]
      simp only [Table.get]
      split
      · rfl
      · exact ih

/-- A key reads what was set. -/
@[simp] theorem Table.get_set (t : Table) (x y : Nat) : (t.set x y).get x = y := by
  unfold Table.set
  split
  · rename_i h
    have hy : y = 0 := by simpa using h
    rw [hy]
    exact Table.get_filter_ne t x
  · exact Table.get_put t x y

/-- Another key reads as before. -/
theorem Table.get_set_ne (t : Table) {x z : Nat} (y : Nat) (h : z ≠ x) : (t.set x y).get z = t.get z := by
  unfold Table.set
  split
  · exact Table.get_filter_other t h
  · exact Table.get_put_ne t y h

@[simp] theorem Table.get_addSat (t : Table) (x n : Nat) : (t.addSat x n).get x = min (t.get x + n) 0xFFFF_FFFF_FFFF_FFFF :=
  Table.get_set t x _

theorem Table.get_addSat_ne (t : Table) {x z : Nat} (n : Nat) (h : z ≠ x) : (t.addSat x n).get z = t.get z :=
  Table.get_set_ne t _ h

/-! ## Memory reads -/

/-- A byte that was not written reads as before. -/
theorem memGet_memSet_ne (m : List Host.Cell) {a z : Nat} (b : Byte) (h : z ≠ a) : memGet (memSet m a b) z = memGet m z := by
  have ha : (a == z) = false := by simpa using fun e => h (Eq.symm e)
  induction m with
  | nil =>
    simp only [memSet]
    split <;> simp [memGet, ha]
  | cons c t ih =>
    obtain ⟨k, v⟩ := c
    simp only [memSet]
    split
    · split <;> simp [memGet, ha]
    · split
      · rename_i h2
        have hk : a = k := by simpa using h2
        subst hk
        split <;> simp [memGet, ha]
      · simp only [memGet, ih]

theorem memGet_below {lo : Nat} {m : List Host.Cell} {a : Nat} (h : memWfFrom lo m = true) (ha : a < lo) : memGet m a = 0 := by
  induction m generalizing lo with
  | nil => rfl
  | cons c t ih =>
    obtain ⟨k, v⟩ := c
    simp only [memWfFrom, Bool.and_eq_true, decide_eq_true_eq] at h
    have hk : (k == a) = false := by
      simp only [beq_eq_false_iff_ne, ne_eq]
      omega
    simp only [memGet, hk]
    exact ih h.2 (by omega)

theorem memGet_memSet_from {lo : Nat} {m : List Host.Cell} (a : Nat) (b : Byte) (h : memWfFrom lo m = true) :
    memGet (memSet m a b) a = b := by
  induction m generalizing lo with
  | nil =>
    simp only [memSet]
    split
    · rename_i hb
      simp only [memGet]
      exact (by simpa using hb : b = 0).symm
    · simp [memGet]
  | cons c t ih =>
    obtain ⟨k, v⟩ := c
    simp only [memWfFrom, Bool.and_eq_true, decide_eq_true_eq] at h
    simp only [memSet]
    split
    · rename_i hlt
      split
      · rename_i hb
        have hk : (k == a) = false := by
          simp only [beq_eq_false_iff_ne, ne_eq]
          omega
        simp only [memGet, hk]
        rw [(by simpa using hb : b = 0)]
        exact memGet_below h.2 (by omega)
      · simp [memGet]
    · split
      · rename_i h2
        have hk : a = k := by simpa using h2
        subst hk
        split
        · rename_i hb
          rw [(by simpa using hb : b = 0)]
          exact memGet_below h.2 (by omega)
        · simp [memGet]
      · rename_i h2
        have hk : (k == a) = false := by
          simp only [beq_iff_eq, beq_eq_false_iff_ne, ne_eq] at h2 ⊢
          omega
        simp only [memGet, hk]
        exact ih h.2

/-- A byte that was written reads so. -/
theorem memGet_memSet {m : List Host.Cell} (a : Nat) (b : Byte) (h : Memory.wf m = true) : memGet (memSet m a b) a = b :=
  memGet_memSet_from a b h

/-- Bytes outside those of a list of cells read as before. -/
theorem memGet_memSets_ne (cs : List Host.Cell) {z : Nat} (h : ∀ c ∈ cs, c.1 ≠ z) : ∀ (m : List Host.Cell),
    memGet (cs.foldl (fun m c => memSet m c.1 c.2) m) z = memGet m z := by
  induction cs with
  | nil => intro m; rfl
  | cons c cs ih =>
    intro m
    rw [List.foldl_cons, ih (fun d hd => h d (List.mem_cons_of_mem _ hd)),
      memGet_memSet_ne m c.2 (fun e => h c List.mem_cons_self (Eq.symm e))]

/-! ## The canonical form -/

theorem memWfFrom_mono {lo lo' : Nat} {m : List Host.Cell} (hl : lo ≤ lo') (h : memWfFrom lo' m = true) : memWfFrom lo m = true := by
  cases m with
  | nil => rfl
  | cons c t =>
    obtain ⟨k, v⟩ := c
    simp only [memWfFrom, Bool.and_eq_true, decide_eq_true_eq] at h ⊢
    exact ⟨⟨by omega, h.1.2⟩, h.2⟩

theorem memWfFrom_memSet {lo : Nat} {m : List Host.Cell} {a : Nat} (b : Byte) (hl : lo ≤ a) (h : memWfFrom lo m = true) :
    memWfFrom lo (memSet m a b) = true := by
  induction m generalizing lo with
  | nil =>
    simp only [memSet]
    split
    · rfl
    · simp_all [memWfFrom]
  | cons c t ih =>
    obtain ⟨k, v⟩ := c
    have h' := h
    simp only [memWfFrom, Bool.and_eq_true, decide_eq_true_eq] at h'
    simp only [memSet]
    split
    · split
      · exact h
      · simp_all [memWfFrom] <;> omega
    · split
      · split
        · exact memWfFrom_mono (by omega) h'.2
        · simp_all [memWfFrom]
      · rename_i h1 h2
        have h2' : a ≠ k := by simpa using h2
        simp only [memWfFrom, Bool.and_eq_true, decide_eq_true_eq]
        exact ⟨h'.1, ih (by omega) h'.2⟩

/-- Writing a byte keeps the canonical form of memory. -/
theorem memSet_wf {m : List Host.Cell} (a : Nat) (b : Byte) (h : Memory.wf m = true) : Memory.wf (memSet m a b) = true :=
  memWfFrom_memSet b (Nat.zero_le a) h

theorem memWrite_wf (bs : List Byte) : ∀ {m : List Host.Cell} (a : Nat), Memory.wf m = true → Memory.wf (memWrite m a bs) = true := by
  induction bs with
  | nil => intro m a h; exact h
  | cons b bs ih => intro m a h; exact ih (a + 1) (memSet_wf _ _ h)

theorem memSets_wf (cs : List Host.Cell) : ∀ {m : List Host.Cell}, Memory.wf m = true →
    Memory.wf (cs.foldl (fun m c => memSet m c.1 c.2) m) = true := by
  induction cs with
  | nil => intro m h; exact h
  | cons c cs ih => intro m h; exact ih (memSet_wf _ _ h)

theorem memWfFrom_filter (p : Host.Cell → Bool) {lo : Nat} {m : List Host.Cell} (h : memWfFrom lo m = true) :
    memWfFrom lo (m.filter p) = true := by
  induction m generalizing lo with
  | nil => rfl
  | cons c t ih =>
    obtain ⟨k, v⟩ := c
    simp only [memWfFrom, Bool.and_eq_true, decide_eq_true_eq] at h
    simp only [List.filter_cons]
    split
    · simp only [memWfFrom, Bool.and_eq_true, decide_eq_true_eq]
      exact ⟨h.1, ih h.2⟩
    · exact memWfFrom_mono (by omega) (ih h.2)

/-- Dropping cells keeps the canonical form of memory. -/
theorem memFilter_wf (p : Host.Cell → Bool) {m : List Host.Cell} (h : Memory.wf m = true) : Memory.wf (m.filter p) = true :=
  memWfFrom_filter p h

theorem replaceFirst_length {α : Type} (p : α → Bool) (f : α → α) (l : List α) : (replaceFirst p f l).length = l.length := by
  induction l with
  | nil => rfl
  | cons a l ih => simp only [replaceFirst]; split <;> simp [ih]

end Sys2Proof.Machine
end

