-- ==== Sys2Proof/Laws/Local.lean ====
section
/-! SUPPORT. What the share of a header on a pier leaves as it was, one lemma for each operation: a share works on memory,
piers, quoins, counters and held records, and on nothing that `Fixed` names; it keeps the canonical form of memory and the
bound on the records held (R498). -/

namespace Sys2Proof.Machine

/-- What a share's work never touches. -/
structure Fixed where
  pending : List Instr
  tick : Nat
  power : Power
  func : Func
  cxl : Vector CxlPort 8
  ports : Vector Port 2
  skovs : Vector Skov 2
  queues : List Queue
  waitingSubs : List WaitingSub
  requests : List Request
  promises : Table
  commit : Table
  accepts : Table
  flash0 : List Host.Cell
  flash1 : List Host.Cell
  session : Option Session
  log0 : List (List Byte)
  log1 : List (List Byte)

abbrev State.fixed (s : State) : Fixed :=
  ⟨s.pending, s.tick, s.power, s.func, s.cxl, s.ports, s.skovs, s.queues, s.waitingSubs, s.requests, s.promises, s.commit, s.accepts,
    s.flash0, s.flash1, s.session, s.log0, s.log1⟩

structure Local (r t : State) : Prop where
  fixed : t.fixed = r.fixed
  wf : Memory.wf r.mem = true → Memory.wf t.mem = true
  cap : r.held.length ≤ Config.heldCap → t.held.length ≤ Config.heldCap

theorem Local.refl (s : State) : Local s s := ⟨rfl, id, id⟩

theorem Local.same {r s t : State} (h : Local r s) (hf : t.fixed = s.fixed) (hm : t.mem = s.mem) (hh : t.held = s.held) : Local r t :=
  ⟨hf.trans h.1, by rw [hm]; exact h.2, by rw [hh]; exact h.3⟩

theorem local_foldl {α : Type} {r : State} (f : State → α → State) (hf : ∀ t a, Local r t → Local r (f t a)) (l : List α) :
    ∀ {s : State}, Local r s → Local r (l.foldl f s) := by
  induction l with
  | nil => intro s h; exact h
  | cons a l ih => intro s h; exact ih (hf _ _ h)

theorem Local.setMem {r s : State} (m : List Host.Cell) (h : Local r s) (hm : Memory.wf s.mem = true → Memory.wf m = true) :
    Local r { s with mem := m } := ⟨h.1, fun w => hm (h.2 w), h.3⟩

theorem local_ite {r a b : State} (c : Prop) [Decidable c] (ha : Local r a) (hb : Local r b) : Local r (if c then a else b) := by
  split <;> assumption

/-! ## Ops -/

theorem State.updPier_loc {ref s : State} (p : PierId) (f : Pier → Pier) (h : Local ref s) : Local ref (State.updPier s p f) := by
  unfold State.updPier
  try dsimp only
  repeat' first
    | with_reducible assumption
    | with_reducible apply local_ite
    | split
    | (apply Local.same (by assumption) <;> with_reducible rfl)

theorem State.updQuoin_loc {ref s : State} (q : QuoinId) (f : Quoin → Quoin) (h : Local ref s) : Local ref (State.updQuoin s q f) := by
  unfold State.updQuoin
  try dsimp only
  repeat' first
    | with_reducible assumption
    | with_reducible apply local_ite
    | split
    | (apply Local.same (by assumption) <;> with_reducible rfl)

theorem State.takeFree_loc {ref s : State} (h : Local ref s) : Local ref (State.takeFree s).2 := by
  unfold State.takeFree
  try dsimp only
  repeat' first
    | with_reducible assumption
    | with_reducible apply local_ite
    | split
    | (apply Local.same (by assumption) <;> with_reducible rfl)

theorem State.bump_loc {ref s : State} (reg n : Nat) (h : Local ref s) : Local ref (State.bump s reg n) := by
  unfold State.bump
  try dsimp only
  repeat' first
    | with_reducible assumption
    | with_reducible apply local_ite
    | split
    | (apply Local.same (by assumption) <;> with_reducible rfl)

theorem State.bumpPier_loc {ref s : State} (p : PierId) (k n : Nat) (h : Local ref s) : Local ref (State.bumpPier s p k n) := by
  unfold State.bumpPier
  try dsimp only
  repeat' first
    | with_reducible assumption
    | with_reducible apply State.bump_loc

theorem State.log_loc {ref s : State} (rec : Record) (h : Local ref s) : Local ref (s.log rec) := by
  unfold State.log
  split
  · exact h
  · split
    · exact ⟨h.1, h.2, fun w => by simpa [replaceFirst_length] using h.3 w⟩
    · split
      · rename_i hl
        exact ⟨h.1, h.2, fun _ => by simp only [List.length_append, List.length_singleton]; omega⟩
      · exact h.same rfl rfl rfl

theorem State.event_loc {ref s : State} (code arg : Nat) (h : Local ref s) : Local ref (State.event s code arg) := by
  unfold State.event
  try dsimp only
  repeat' first
    | with_reducible assumption
    | with_reducible apply State.log_loc

theorem State.readLine_loc {ref s : State} (p : PierId) (line : Nat) (h : Local ref s) : Local ref (State.readLine s p line) := by
  unfold State.readLine
  try dsimp only
  repeat' first
    | with_reducible assumption
    | with_reducible apply State.updPier_loc
    | with_reducible apply local_ite
    | split
    | (apply Local.same (by assumption) <;> with_reducible rfl)
    | (apply Local.same; (on_goal 1 => first | with_reducible apply State.updPier_loc); rotate_left; with_reducible rfl; with_reducible rfl; with_reducible rfl)

theorem State.demandLine_loc {ref s : State} (p : PierId) (line : Nat) (h : Local ref s) : Local ref (State.demandLine s p line) := by
  unfold State.demandLine
  try dsimp only
  repeat' first
    | with_reducible assumption
    | with_reducible apply State.bumpPier_loc
    | with_reducible apply State.readLine_loc
    | with_reducible apply local_ite
    | split
    | (apply Local.same (by assumption) <;> with_reducible rfl)
    | (apply Local.same; (on_goal 1 => first | with_reducible apply State.bumpPier_loc | with_reducible apply State.readLine_loc); rotate_left; with_reducible rfl; with_reducible rfl; with_reducible rfl)

theorem State.demandLines_loc {ref s : State} (p : PierId) (ls : List Nat) (h : Local ref s) : Local ref (State.demandLines s p ls) := by
  unfold State.demandLines
  try dsimp only
  repeat' first
    | with_reducible assumption
    | with_reducible apply State.demandLine_loc
    | with_reducible apply local_foldl
    | (intro _ _ _; dsimp only)
    | intro _ _ _

theorem State.trowelLine_loc {ref s : State} (p : PierId) (line : Nat) (h : Local ref s) : Local ref (State.trowelLine s p line) := by
  unfold State.trowelLine
  try dsimp only
  repeat' first
    | with_reducible assumption
    | with_reducible apply State.updPier_loc
    | with_reducible apply local_ite
    | split
    | (apply Local.same (by assumption) <;> with_reducible rfl)
    | (apply Local.same; (on_goal 1 => first | with_reducible apply State.updPier_loc); rotate_left; with_reducible rfl; with_reducible rfl; with_reducible rfl)

theorem State.trowelLines_loc {ref s : State} (p : PierId) (ls : List Nat) (h : Local ref s) : Local ref (State.trowelLines s p ls) := by
  unfold State.trowelLines
  try dsimp only
  repeat' first
    | with_reducible assumption
    | with_reducible apply State.trowelLine_loc
    | with_reducible apply local_foldl
    | (intro _ _ _; dsimp only)
    | intro _ _ _
    | with_reducible apply local_ite
    | split
    | (apply Local.same (by assumption) <;> with_reducible rfl)
    | (apply Local.same; (on_goal 1 => first | with_reducible apply State.trowelLine_loc); rotate_left; with_reducible rfl; with_reducible rfl; with_reducible rfl)

theorem State.dirtyLine_loc {ref s : State} (p : PierId) (line : Nat) (h : Local ref s) : Local ref (State.dirtyLine s p line) := by
  unfold State.dirtyLine
  try dsimp only
  repeat' first
    | with_reducible assumption
    | with_reducible apply State.updPier_loc

theorem State.staleLine_loc {ref s : State} (p : PierId) (line : Nat) (h : Local ref s) : Local ref (State.staleLine s p line) := by
  unfold State.staleLine
  try dsimp only
  repeat' first
    | with_reducible assumption
    | with_reducible apply State.updPier_loc
    | with_reducible apply local_ite

theorem State.channelLine_loc {ref s : State} (p : PierId) (line : Nat) (new : List Host.Cell) (h : Local ref s) : Local ref (State.channelLine s p line new) := by
  unfold State.channelLine
  try dsimp only
  repeat' first
    | with_reducible assumption
    | with_reducible apply State.updPier_loc
    | with_reducible apply local_ite
    | split
    | (apply Local.same (by assumption) <;> with_reducible rfl)
    | (apply Local.same; (on_goal 1 => first | with_reducible apply State.updPier_loc); rotate_left; with_reducible rfl; with_reducible rfl; with_reducible rfl)

theorem State.cacheWrite_loc {ref s : State} (via : WriteVia) (p : PierId) (line : Nat) (new : List Host.Cell) (whole : Bool) (h : Local ref s) : Local ref (State.cacheWrite s via p line new whole) := by
  unfold State.cacheWrite
  have h1 := State.staleLine_loc p line h
  cases via
  · exact State.channelLine_loc _ _ _ (State.dirtyLine_loc _ _ (local_ite _ h1 (State.readLine_loc _ _ h1)))
  · exact local_ite _ (State.dirtyLine_loc _ _ h1) (State.channelLine_loc _ _ _ h1)
  · exact State.updPier_loc _ _ h1

theorem State.writePart_loc {ref s : State} (via : WriteVia) (full : List Nat) (a : Nat) (bs : List Byte) (h : Local ref s) :
    Local ref (State.writePart s via full a bs) := by
  unfold State.writePart
  lift_lets
  intro ls ok whole new s1
  have hc : Local ref s1 := local_foldl _ (fun t l ht => by split; exact State.cacheWrite_loc _ _ _ _ _ ht; exact ht) _ h
  have hm : Memory.wf s.mem = true → Memory.wf new = true := memSets_wf _
  clear_value new s1
  exact ⟨hc.1, fun w => hm (h.2 w), hc.3⟩

theorem State.writeBytes_loc {ref s : State} (via : WriteVia) (a : Nat) (bs : List Byte) (h : Local ref s) : Local ref (State.writeBytes s via a bs) :=
  State.writePart_loc _ _ _ _ h

theorem State.writeWord_loc {ref s : State} (via : WriteVia) (a n v : Nat) (h : Local ref s) : Local ref (State.writeWord s via a n v) := by
  unfold State.writeWord
  try dsimp only
  repeat' first
    | with_reducible assumption
    | with_reducible apply State.writeBytes_loc

theorem State.deliver_loc {ref s : State} (d : Domain) (h : Local ref s) : Local ref (State.deliver s d) := by
  unfold State.deliver
  try dsimp only
  repeat' first
    | with_reducible assumption
    | with_reducible apply local_ite
    | split
    | (apply Local.same (by assumption) <;> with_reducible rfl)

theorem State.powerEvent_loc {ref s : State} (n cause : Nat) (h : Local ref s) : Local ref (State.powerEvent s n cause) := by
  unfold State.powerEvent
  try dsimp only
  repeat' first
    | with_reducible assumption
    | with_reducible apply State.event_loc
    | with_reducible apply local_ite
    | split
    | (apply Local.same (by assumption) <;> with_reducible rfl)
    | (apply Local.same; (on_goal 1 => first | with_reducible apply State.event_loc); rotate_left; with_reducible rfl; with_reducible rfl; with_reducible rfl)

theorem State.runChange_loc {ref s t : State} (h : Local ref t) : Local ref (State.runChange s t) := by
  unfold State.runChange
  exact local_ite _ h (State.powerEvent_loc _ _ h)

theorem State.wakePier_loc {ref s : State} (p : PierId) (h : Local ref s) : Local ref (State.wakePier s p) := by
  unfold State.wakePier
  exact local_ite _ h (local_ite _ (State.updPier_loc _ _ h) (State.deliver_loc _ (State.runChange_loc (State.updPier_loc _ _ h))))

theorem State.wakeCourse_loc {ref s : State} (c : CourseId) (h : Local ref s) : Local ref (State.wakeCourse s c) := by
  unfold State.wakeCourse
  try dsimp only
  repeat' first
    | with_reducible assumption
    | with_reducible apply State.updPier_loc
    | with_reducible apply State.deliver_loc
    | with_reducible apply State.wakePier_loc
    | with_reducible apply local_ite

theorem State.turnEdge_loc {ref s : State} (e dir n : Nat) (h : Local ref s) : Local ref (State.turnEdge s e dir n) := by
  unfold State.turnEdge
  try dsimp only
  repeat' first
    | with_reducible assumption
    | with_reducible apply local_ite
    | split
    | (apply Local.same (by assumption) <;> with_reducible rfl)

theorem State.rotateEdge_loc {ref s : State} (e dir : Nat) (h : Local ref s) : Local ref (State.rotateEdge s e dir).2 := by
  unfold State.rotateEdge
  try dsimp only
  repeat' first
    | with_reducible assumption
    | with_reducible apply State.turnEdge_loc
    | with_reducible apply local_ite
    | split
    | (apply Local.same (by assumption) <;> with_reducible rfl)
    | (apply Local.same; (on_goal 1 => first | with_reducible apply State.turnEdge_loc); rotate_left; with_reducible rfl; with_reducible rfl; with_reducible rfl)

theorem State.sendPackets_loc {ref s : State} (path : List (Nat × Nat)) (n : Nat) (h : Local ref s) : Local ref (State.sendPackets s path n) := by
  unfold State.sendPackets
  try dsimp only
  repeat' first
    | with_reducible assumption
    | with_reducible apply State.turnEdge_loc
    | with_reducible apply local_foldl
    | (intro _ _ _; dsimp only)
    | intro _ _ _
    | with_reducible apply local_ite
    | split
    | (apply Local.same (by assumption) <;> with_reducible rfl)
    | (apply Local.same; (on_goal 1 => first | with_reducible apply State.turnEdge_loc); rotate_left; with_reducible rfl; with_reducible rfl; with_reducible rfl)

theorem State.remoteRead_loc {ref s : State} (p r : PierId) (n : Nat) (h : Local ref s) : Local ref (State.remoteRead s p r n) := by
  unfold State.remoteRead
  exact local_ite _ h (State.sendPackets_loc _ _ (State.sendPackets_loc _ _ (State.wakePier_loc _ h)))

theorem State.fetchFar_loc {ref s : State} (p : PierId) (a n : Nat) (h : Local ref s) : Local ref (State.fetchFar s p a n) := by
  unfold State.fetchFar
  refine local_foldl _ (fun t l ht => ?_) _ h
  split
  · exact State.remoteRead_loc _ _ _ ht
  · exact ht

theorem State.keyArrive_loc {ref s : State} (d : PierId) (op : KeyOp) (h : Local ref s) : Local ref (State.keyArrive s d op) := by
  unfold State.keyArrive
  try dsimp only
  repeat' first
    | with_reducible assumption
    | with_reducible apply State.updPier_loc
    | with_reducible apply State.wakePier_loc
    | with_reducible apply local_ite
    | split
    | (apply Local.same (by assumption) <;> with_reducible rfl)
    | (apply Local.same; (on_goal 1 => first | with_reducible apply State.updPier_loc | with_reducible apply State.wakePier_loc); rotate_left; with_reducible rfl; with_reducible rfl; with_reducible rfl)

theorem State.keyTravel_loc {ref s : State} (es : List (Nat × Nat)) (last : Nat) (d : PierId) (op : KeyOp) (h : Local ref s) :
    Local ref (State.keyTravel es last d op s) := by
  induction es generalizing s last with
  | nil => exact State.keyArrive_loc _ _ h
  | cons e es ih =>
    simp only [State.keyTravel]
    exact local_ite _ ((State.rotateEdge_loc e.1 e.2 h).same rfl rfl rfl) (ih _ (State.rotateEdge_loc _ _ h))

theorem State.sendKey_loc {ref s : State} (src : KeyFrom) (key kind operand : Nat) (answer : TasAnswer) (h : Local ref s) : Local ref (State.sendKey s src key kind operand answer) := by
  unfold State.sendKey
  cases src
  · exact local_ite _ (State.keyArrive_loc _ _ h) (State.keyTravel_loc _ _ _ _ h)
  · exact State.keyTravel_loc _ _ _ _ h

theorem State.releaseLink_loc {ref s : State} (i : Nat) (retired : Bool) (h : Local ref s) : Local ref (State.releaseLink s i retired) := by
  unfold State.releaseLink
  exact local_foldl _ (fun _ _ ht => local_ite _ (State.keyTravel_loc _ _ _ _ ht) (State.keyTravel_loc _ _ _ _ ht)) _ (h.same rfl rfl rfl)

theorem State.takeOut_loc {ref s : State} (u : SUnit) (h : Local ref s) : Local ref (s.takeOut u) := by
  cases u
  case mason p k => exact local_ite ((s.pier p).masonSpare == 10) h (State.updPier_loc _ _ h)
  all_goals first
    | exact h
    | (unfold State.takeOut; dsimp only; exact State.updPier_loc _ _ h)
    | (unfold State.takeOut; dsimp only; exact State.updQuoin_loc _ _ h)

theorem State.startSounding_loc {ref s : State} (u : SUnit) (margin : Bool) (h : Local ref s) : Local ref (s.startSounding u margin) := by
  unfold State.startSounding
  dsimp only
  exact local_ite _ (h.same rfl rfl rfl) (State.bump_loc _ _ (State.takeOut_loc u (h.same rfl rfl rfl)))

/-! ## Operands -/

theorem State.noteRuns_loc {ref s : State} (e : Env) (ls : List (Nat × Nat)) (h : Local ref s) : Local ref (State.noteRuns s e ls) := by
  unfold State.noteRuns
  try dsimp only
  repeat' first
    | with_reducible assumption
    | with_reducible apply State.updPier_loc
    | with_reducible apply local_foldl
    | (intro _ _ _; dsimp only)
    | intro _ _ _
    | with_reducible apply local_ite
    | split
    | (apply Local.same (by assumption) <;> with_reducible rfl)
    | (apply Local.same; (on_goal 1 => first | with_reducible apply State.updPier_loc); rotate_left; with_reducible rfl; with_reducible rfl; with_reducible rfl)

theorem State.engineLines_loc {ref s : State} (e : Env) (ls : List (Nat × Nat)) (h : Local ref s) : Local ref (State.engineLines s e ls) := by
  unfold State.engineLines
  try dsimp only
  repeat' first
    | with_reducible assumption
    | with_reducible apply State.demandLines_loc
    | with_reducible apply State.noteRuns_loc
    | with_reducible apply local_ite
    | split
    | (apply Local.same (by assumption) <;> with_reducible rfl)
    | (apply Local.same; (on_goal 1 => first | with_reducible apply State.demandLines_loc | with_reducible apply State.noteRuns_loc); rotate_left; with_reducible rfl; with_reducible rfl; with_reducible rfl)

theorem State.putCode_loc {ref s : State} (via : WriteVia) (full : List Nat) (l : Loc) (code : Nat) (h : Local ref s) :
    Local ref (State.putCode s via full l code) := by
  unfold State.putCode
  exact local_ite _ (State.writePart_loc _ _ _ _ h) (State.writePart_loc _ _ _ _ h)

theorem State.putPart_loc {ref s : State} (via : WriteVia) (full : List Nat) (l : Loc) (comp : Option Nat) (ok : Bool) (code err : Nat)
    (h : Local ref s) : Local ref (State.putPart s via full l comp ok code err) := by
  unfold State.putPart
  have h1 := local_ite (ok = true) (State.putCode_loc via full l code h) h
  dsimp only
  split
  · exact State.writePart_loc _ _ _ _ h1
  · exact h1

theorem State.putElem_loc {ref s : State} (via : WriteVia) (l : Loc) (code err : Nat) (h : Local ref s) : Local ref (State.putElem s via l code err) :=
  State.putPart_loc _ _ _ _ _ _ _ h

theorem State.anomaly_loc {ref s : State} (e : Env) (k n addr : Nat) (h : Local ref s) : Local ref (State.anomaly s e k n addr) := by
  unfold State.anomaly
  try dsimp only
  repeat' first
    | with_reducible assumption
    | with_reducible apply State.log_loc

theorem Put.start_loc {ref s : State} (met : Met) (h : Local ref s) : Local ref (Put.start s met).s := by
  unfold Put.start
  try dsimp only
  repeat' first
    | with_reducible assumption

theorem State.account_loc {ref s : State} (e : Env) (m : Met) (h : Local ref s) : Local ref (State.account s e m) := by
  unfold State.account
  dsimp only
  have h1 : Local ref (match m.absent with
      | some a => (s.bumpPier e.p kAbsent 1).anomaly e kAbsent 1 a
      | none => s) := by
    split
    · exact State.anomaly_loc _ _ _ _ (State.bumpPier_loc _ _ _ h)
    · exact h
  have h2 : Local ref (match m.foreign with
      | some a => ((match m.absent with
          | some a => (s.bumpPier e.p kAbsent 1).anomaly e kAbsent 1 a
          | none => s).bumpPier e.p kForeign 1).anomaly e kForeign 1 a
      | none => (match m.absent with
          | some a => (s.bumpPier e.p kAbsent 1).anomaly e kAbsent 1 a
          | none => s)) := by
    cases m.foreign with
    | none => exact h1
    | some a => exact State.anomaly_loc _ _ _ _ (State.bumpPier_loc _ _ _ h1)
  cases m.poison with
  | nil => exact h2
  | cons a l => exact State.log_loc _ (State.bumpPier_loc _ _ _ h2)

/-! ## Flags -/

theorem State.setFlushed_loc {ref s : State} (p : PierId) (stream : Nat) (h : Local ref s) : Local ref (State.setFlushed s p stream) := by
  unfold State.setFlushed
  try dsimp only
  repeat' first
    | with_reducible assumption
    | with_reducible apply State.updPier_loc

theorem State.flushedIf_loc {ref s : State} (p : PierId) (stream : Nat) (b : Bool) (h : Local ref s) : Local ref (State.flushedIf s p stream b) := by
  unfold State.flushedIf
  try dsimp only
  repeat' first
    | with_reducible assumption
    | with_reducible apply State.setFlushed_loc
    | with_reducible apply local_ite

theorem State.setNonfinite_loc {ref s : State} (p : PierId) (stream : Nat) (nonfin sat : Bool) (h : Local ref s) : Local ref (State.setNonfinite s p stream nonfin sat) := by
  unfold State.setNonfinite
  try dsimp only
  repeat' first
    | with_reducible assumption
    | with_reducible apply State.updPier_loc

theorem State.courseAnomaly_loc {ref s : State} (p : PierId) (layout : Bool) (cs : List Nat) (n : Nat) (h : Local ref s) : Local ref (State.courseAnomaly s p layout cs n) := by
  unfold State.courseAnomaly
  try dsimp only
  repeat' first
    | with_reducible assumption
    | with_reducible apply State.bump_loc
    | with_reducible apply local_foldl
    | (intro _ _ _; dsimp only)
    | intro _ _ _

theorem State.combineStat_loc {ref s : State} (epoch seq : Nat) (f : StatFig) (h : Local ref s) : Local ref (State.combineStat s epoch seq f) := by
  unfold State.combineStat
  try dsimp only
  repeat' first
    | with_reducible assumption
    | with_reducible apply State.bumpPier_loc
    | with_reducible apply State.writeBytes_loc
    | with_reducible apply local_ite

theorem State.combineSparse_loc {ref s : State} (epoch seq : Nat) (f : SparseFig) (h : Local ref s) : Local ref (State.combineSparse s epoch seq f) := by
  unfold State.combineSparse
  dsimp only
  exact local_ite _ h (local_ite _ (State.bumpPier_loc _ _ _ h) (State.writeBytes_loc _ _ _ h))

theorem State.sparseCount_loc {ref s : State} (e : Env) (k n : Nat) (h : Local ref s) : Local ref (State.sparseCount s e k n) := by
  unfold State.sparseCount
  try dsimp only
  repeat' first
    | with_reducible assumption
    | with_reducible apply State.bumpPier_loc
    | with_reducible apply State.anomaly_loc
    | with_reducible apply local_ite

theorem Out.of_loc {ref s : State} (h : Local ref s) : Local ref (Out.of s).s := by
  unfold Out.of
  try dsimp only
  repeat' first
    | with_reducible assumption

theorem State.settled_loc {ref s : State} (p : PierId) (run : Bool → Out) (h : ∀ mix, Local ref (run mix).s) :
    Local ref (State.settled s p run).s := by
  unfold State.settled
  dsimp only
  split
  · exact h true
  · exact h false

theorem State.readLines_loc {ref s : State} (e : Env) (via : WriteVia) (met : Met) (h : Local ref s) : Local ref (State.readLines s e via met) := by
  cases via
  · exact State.engineLines_loc e met.fetched h
  · exact State.trowelLines_loc e.p met.lines h
  · exact h

theorem Put.one_loc {ref : State} (e : Env) (via : WriteVia) (any : Bool) (tid : Nat) (a : Put) (w : Wr) (h : Local ref a.s) :
    Local ref (Put.one e via any tid a w).s := by
  unfold Put.one
  split
  · exact h
  · dsimp -zeta only
    lift_lets
    extract_lets
    repeat' first
      | assumption
      | (with_reducible apply State.putPart_loc; assumption)
      | split
      | dsimp only

theorem Put.run_loc {ref : State} (e : Env) (via : WriteVia) (any : Bool) (tid : Nat) (a : Put) (ws : List Wr) (h : Local ref a.s) :
    Local ref (Put.run e via any tid a ws).s := by
  unfold Put.run
  generalize hb : ({ a with full := fullLines ws } : Put) = b
  have h' : Local ref b.s := by rw [← hb]; exact h
  clear hb h
  induction ws generalizing b with
  | nil => exact h'
  | cons w ws ih => exact ih _ (Put.one_loc _ _ _ _ _ _ h')

theorem Put.close_loc {ref : State} (e : Env) (a : Put) (h : Local ref a.s) : Local ref (a.close e) := by
  have h' : Local ref (a.stale.foldl (fun st x =>
    (st.bumpPier x.1 kStaleGrad 1).anomaly { e with p := x.1 } kStaleGrad 1 x.2) a.s) :=
    local_foldl _ (fun _ _ ht => State.anomaly_loc _ _ _ _ (State.bumpPier_loc _ _ _ ht)) _ h
  exact h'.same rfl rfl rfl

theorem State.settle_loc {ref s : State} (e : Env) (via : WriteVia) (any : Bool) (tid : Nat) (met : Met) (ws : List Wr) (h : Local ref s) : Local ref (State.settle s e via any tid met ws).s := by
  simp only [State.settle, Out.of]
  exact State.account_loc _ _ (Put.close_loc _ _ (Put.run_loc _ _ _ _ _ _ (Put.start_loc _ (State.readLines_loc _ _ _ h))))

/-! ## Tables -/

/-! ## Lists -/

theorem State.putHome_loc {ref s : State} (p : PierId) (via : WriteVia) (a : Nat) (bs : List Byte) (h : Local ref s) : Local ref (State.putHome s p via a bs) := by
  unfold State.putHome
  try dsimp only
  repeat' first
    | with_reducible assumption
    | with_reducible apply State.writeBytes_loc
    | with_reducible apply local_foldl
    | (intro _ _ _; dsimp only)
    | intro _ _ _
    | with_reducible apply local_ite

theorem State.putLists_loc {ref s : State} (p : PierId) (a cap : Nat) (bs : List (Nat × Nat)) (h : Local ref s) : Local ref (State.putLists s p a cap bs) := by
  unfold State.putLists
  try dsimp only
  repeat' first
    | with_reducible assumption
    | with_reducible apply State.putHome_loc

theorem State.putCount_loc {ref s : State} (p : PierId) (a n : Nat) (h : Local ref s) : Local ref (State.putCount s p a n) := by
  unfold State.putCount
  try dsimp only
  repeat' first
    | with_reducible assumption
    | with_reducible apply State.putHome_loc

/-! ## Product -/

theorem State.fillBed_loc {ref s : State} (p : PierId) (ls : List (Nat × Nat)) (h : Local ref s) : Local ref (State.fillBed s p ls) := by
  unfold State.fillBed
  try dsimp only
  repeat' first
    | with_reducible assumption
    | with_reducible apply State.updPier_loc

theorem State.addJob_loc {ref s : State} (p : PierId) (q : QKey) (body : JobBody) (wall : Option (Fin 4)) (h : Local ref s) : Local ref (State.addJob s p q body wall) := by
  unfold State.addJob
  try dsimp only
  repeat' first
    | with_reducible assumption
    | with_reducible apply State.updPier_loc

/-- What each step of a fold keeps, the fold keeps. -/
theorem foldl_keeps {α β : Type} (P : β → Prop) (f : β → α → β) (hf : ∀ b a, P b → P (f b a)) (l : List α) :
    ∀ {b : β}, P b → P (l.foldl f b) := by
  induction l with
  | nil => intro b h; exact h
  | cons a l ih => intro b h; exact ih (hf _ _ h)

@[simp] theorem State.drainTile_put (s : State) (e : Env) (pr : Prod) (g : Region) (core : Nat) (cells : List Cell) (acc : Acc) :
    (s.drainTile e pr g core cells acc).2.put = acc.put := by
  unfold State.drainTile
  split
  rfl

theorem State.auditBlock_loc {ref s : State} (e : Env) (pr : Prod) (pl : Plan) (t : DTile) (band j : Nat) (acc : Acc)
    (h : Local ref acc.put.s) : Local ref (s.auditBlock e pr pl t band j acc).put.s := by
  unfold State.auditBlock
  dsimp -zeta only
  lift_lets
  intros
  split <;> exact h

theorem State.auditPart_loc {ref s : State} (e : Env) (pr : Prod) (pl : Plan) (acc : Acc) (h : Local ref acc.put.s) :
    Local ref (s.auditPart e pr pl acc).put.s := by
  unfold State.auditPart
  split
  · exact h
  · refine foldl_keeps (fun a : Acc => Local ref a.put.s) _ (fun b t hb => ?_) _ h
    refine foldl_keeps (fun a : Acc => Local ref a.put.s) _ (fun b y hb => ?_) _ hb
    dsimp only
    split
    · exact hb
    · exact foldl_keeps (fun a : Acc => Local ref a.put.s) _ (fun b j hb => State.auditBlock_loc _ _ _ _ _ _ _ hb) _ hb

theorem State.runPart_loc {ref s : State} (e : Env) (pr : Prod) (mix : Bool) (parts : Nat) (pl : Plan) (acc : Acc) (h : Local ref acc.put.s) :
    Local ref (s.runPart e pr mix parts pl acc).put.s := by
  unfold State.runPart
  extract_lets n acc1 fig acc2 r acc3
  have h2 : Local ref acc2.put.s := by
    dsimp only [acc2]
    split
    · exact h
    · exact h
  clear_value acc2
  have hr : Local ref r.2.put.s := by
    refine foldl_keeps (fun a : List (Nat × List Drained) × Acc => Local ref a.2.put.s) _ (fun b i hb => ?_) _ h2
    dsimp only
    split
    · exact hb
    · simpa only [State.drainTile_put] using hb
  clear_value r
  have h3 : Local ref acc3.put.s := State.auditPart_loc _ _ _ _ hr
  clear_value acc3
  exact State.fillBed_loc _ _ (Put.run_loc _ _ _ _ _ _ (Put.run_loc _ _ _ _ _ _ h3))

theorem State.runPlans_loc {ref s : State} (e : Env) (pr : Prod) (mix : Bool) (pls : List Plan) (acc : Acc) (h : Local ref acc.put.s) :
    Local ref (s.runPlans e pr mix pls acc).put.s := by
  unfold State.runPlans
  refine foldl_keeps (fun a : Acc => Local ref a.put.s) _ (fun b i hb => ?_) _ h
  dsimp only
  split
  · exact hb
  · refine State.runPart_loc _ _ _ _ _ _ ?_
    split <;> exact hb

theorem State.productAnomalies_loc {ref s : State} (e : Env) (pr : Prod) (pls : List Plan) (h : Local ref s) : Local ref (State.productAnomalies s e pr pls) := by
  unfold State.productAnomalies
  try dsimp only
  repeat' first
    | with_reducible assumption
    | with_reducible apply State.courseAnomaly_loc
    | with_reducible apply local_foldl
    | (intro _ _ _; dsimp only)
    | intro _ _ _
    | with_reducible apply local_ite
    | split
    | (apply Local.same (by assumption) <;> with_reducible rfl)
    | (apply Local.same; (on_goal 1 => first | with_reducible apply State.courseAnomaly_loc); rotate_left; with_reducible rfl; with_reducible rfl; with_reducible rfl)

theorem State.productRun_loc {ref s : State} (e : Env) (mix : Bool) (h : Local ref s) : Local ref (State.productRun s e mix).1.s := by
  unfold State.productRun
  generalize s.product e mix = y
  obtain ⟨pr, sb, sc, sd, meta_⟩ := y
  dsimp -zeta only
  lift_lets
  intro hd pls writes s1 lists src1 figB src2 figD met00 met0 met s2
  have h2 : Local ref s2 := State.engineLines_loc _ _ (State.productAnomalies_loc _ _ _ h)
  clear_value s2 met figB figD
  intro packs mapAt acc a s3
  have ha : Local ref acc.put.s := State.runPlans_loc _ _ _ _ _ h2
  clear_value acc
  have h3 : Local ref s3 := Put.close_loc _ _ ha
  clear_value s3
  intro s4 s5
  have h5 : Local ref s5 := local_ite _ (State.putHome_loc _ _ _ _ (State.updPier_loc _ _ h3)) (State.updPier_loc _ _ h3)
  clear_value s5
  intro side inOrder src4 fig s6 s7 s8
  have h6 : Local ref s6 := State.setNonfinite_loc _ _ _ _ h5
  have h8 : Local ref s8 := State.bumpPier_loc _ _ _ (local_ite _ (State.bumpPier_loc _ _ _ h6) h6)
  clear_value s8
  intro s9 s10 s11 s12 s13 s14
  have h13 : Local ref s13 := State.bumpPier_loc _ _ _ (State.bumpPier_loc _ _ _ (State.bumpPier_loc _ _ _ (State.bumpPier_loc _ _ _
    (State.sparseCount_loc _ _ _ (State.sparseCount_loc _ _ _ (State.sparseCount_loc _ _ _ h8))))))
  clear_value s13
  have h14 : Local ref s14 := local_ite _ (State.addJob_loc _ _ _ _ h13) h13
  clear_value s14
  intros
  exact State.account_loc _ _ h14

theorem State.productShare_loc {ref s : State} (e : Env) (h : Local ref s) : Local ref (State.productShare s e).s :=
  State.settled_loc _ _ fun mix => State.productRun_loc _ mix h

/-! ## Rows -/

theorem State.vectorAnomalies_loc {ref s : State} (e : Env) (srcs : List Tens) (d : Tens) (words : Option Tens) (cs : List Nat) (u32ok : Bool) (h : Local ref s) : Local ref (State.vectorAnomalies s e srcs d words cs u32ok) := by
  unfold State.vectorAnomalies
  try dsimp only
  repeat' first
    | with_reducible assumption
    | with_reducible apply State.courseAnomaly_loc
    | with_reducible apply local_ite
    | split
    | (apply Local.same (by assumption) <;> with_reducible rfl)
    | (apply Local.same; (on_goal 1 => first | with_reducible apply State.courseAnomaly_loc); rotate_left; with_reducible rfl; with_reducible rfl; with_reducible rfl)

theorem State.rowShare_loc {ref s : State} (e : Env) (srcs : List Tens) (d : Tens) (words : Option Tens) (meta_ : List (Option Nat)) (f : Nat → Nat → Nat → Nat → RowOut) (h : Local ref s) : Local ref (State.rowShare s e srcs d words meta_ f).s := by
  unfold State.rowShare
  try dsimp only
  repeat' first
    | with_reducible assumption
    | with_reducible apply State.bumpPier_loc
    | with_reducible apply State.anomaly_loc
    | with_reducible apply State.flushedIf_loc
    | with_reducible apply State.settle_loc
    | with_reducible apply State.vectorAnomalies_loc
    | with_reducible apply local_foldl
    | (intro _ _ _; dsimp only)
    | intro _ _ _
    | with_reducible apply local_ite
    | split
    | (apply Local.same (by assumption) <;> with_reducible rfl)
    | (apply Local.same; (on_goal 1 => first | with_reducible apply State.bumpPier_loc | with_reducible apply State.anomaly_loc | with_reducible apply State.flushedIf_loc | with_reducible apply State.settle_loc | with_reducible apply State.vectorAnomalies_loc); rotate_left; with_reducible rfl; with_reducible rfl; with_reducible rfl)

theorem State.rownormRun_loc {ref s : State} (e : Env) (mix : Bool) (h : Local ref s) : Local ref (State.rownormRun s e mix).s := by
  unfold State.rownormRun
  try dsimp only
  repeat' first
    | with_reducible assumption
    | with_reducible apply State.anomaly_loc
    | with_reducible apply State.rowShare_loc
    | with_reducible apply local_foldl
    | (intro _ _ _; dsimp only)
    | intro _ _ _
    | with_reducible apply local_ite
    | split
    | (apply Local.same (by assumption) <;> with_reducible rfl)
    | (apply Local.same; (on_goal 1 => first | with_reducible apply State.anomaly_loc | with_reducible apply State.rowShare_loc); rotate_left; with_reducible rfl; with_reducible rfl; with_reducible rfl)

theorem State.rownormShare_loc {ref s : State} (e : Env) (h : Local ref s) : Local ref (State.rownormShare s e).s :=
  State.settled_loc _ _ fun mix => State.rownormRun_loc _ mix h

theorem State.rowsoftmaxRun_loc {ref s : State} (e : Env) (mix : Bool) (h : Local ref s) : Local ref (State.rowsoftmaxRun s e mix).s := by
  unfold State.rowsoftmaxRun
  try dsimp only
  repeat' first
    | with_reducible assumption
    | with_reducible apply State.anomaly_loc
    | with_reducible apply State.rowShare_loc
    | with_reducible apply local_ite
    | split
    | (apply Local.same (by assumption) <;> with_reducible rfl)
    | (apply Local.same; (on_goal 1 => first | with_reducible apply State.anomaly_loc | with_reducible apply State.rowShare_loc); rotate_left; with_reducible rfl; with_reducible rfl; with_reducible rfl)

theorem State.rowsoftmaxShare_loc {ref s : State} (e : Env) (h : Local ref s) : Local ref (State.rowsoftmaxShare s e).s :=
  State.settled_loc _ _ fun mix => State.rowsoftmaxRun_loc _ mix h

theorem State.actRun_loc {ref s : State} (e : Env) (fs : List FusedEl) (mix : Bool) (h : Local ref s) : Local ref (State.actRun s e fs mix).s := by
  unfold State.actRun
  try dsimp only
  repeat' first
    | with_reducible assumption
    | with_reducible apply State.anomaly_loc
    | with_reducible apply Put.start_loc
    | with_reducible apply State.rowShare_loc
    | with_reducible apply local_foldl
    | (intro _ _ _; dsimp only)
    | intro _ _ _
    | with_reducible apply local_ite
    | split
    | (apply Local.same (by assumption) <;> with_reducible rfl)
    | (apply Local.same; (on_goal 1 => first | with_reducible apply State.anomaly_loc | with_reducible apply Put.start_loc | with_reducible apply State.rowShare_loc); rotate_left; with_reducible rfl; with_reducible rfl; with_reducible rfl)

theorem State.actFused_loc {ref s : State} (e : Env) (fs : List FusedEl) (h : Local ref s) : Local ref (State.actFused s e fs).s :=
  State.settled_loc _ _ fun mix => State.actRun_loc _ _ mix h

theorem State.dmaskRun_loc {ref s : State} (e : Env) (mix : Bool) (h : Local ref s) : Local ref (State.dmaskRun s e mix).s := by
  unfold State.dmaskRun
  try dsimp only
  repeat' first
    | with_reducible assumption
    | with_reducible apply State.anomaly_loc
    | with_reducible apply State.rowShare_loc
    | with_reducible apply local_ite
    | split
    | (apply Local.same (by assumption) <;> with_reducible rfl)
    | (apply Local.same; (on_goal 1 => first | with_reducible apply State.anomaly_loc | with_reducible apply State.rowShare_loc); rotate_left; with_reducible rfl; with_reducible rfl; with_reducible rfl)

theorem State.dmaskShare_loc {ref s : State} (e : Env) (h : Local ref s) : Local ref (State.dmaskShare s e).s :=
  State.settled_loc _ _ fun mix => State.dmaskRun_loc _ mix h

theorem State.reduceRun_loc {ref s : State} (e : Env) (mix : Bool) (h : Local ref s) : Local ref (State.reduceRun s e mix).s := by
  unfold State.reduceRun
  try dsimp only
  repeat' first
    | with_reducible assumption
    | with_reducible apply State.anomaly_loc
    | with_reducible apply State.rowShare_loc
    | with_reducible apply local_foldl
    | (intro _ _ _; dsimp only)
    | intro _ _ _
    | with_reducible apply local_ite
    | split
    | (apply Local.same (by assumption) <;> with_reducible rfl)
    | (apply Local.same; (on_goal 1 => first | with_reducible apply State.anomaly_loc | with_reducible apply State.rowShare_loc); rotate_left; with_reducible rfl; with_reducible rfl; with_reducible rfl)

theorem State.reduceShare_loc {ref s : State} (e : Env) (h : Local ref s) : Local ref (State.reduceShare s e).s :=
  State.settled_loc _ _ fun mix => State.reduceRun_loc _ mix h

theorem State.wakeHomes_loc {ref s : State} (lines : List Nat) (h : Local ref s) : Local ref (State.wakeHomes s lines) := by
  unfold State.wakeHomes
  try dsimp only
  repeat' first
    | with_reducible assumption
    | with_reducible apply State.wakePier_loc
    | with_reducible apply local_foldl
    | (intro _ _ _; dsimp only)
    | intro _ _ _
    | with_reducible apply local_ite
    | split
    | (apply Local.same (by assumption) <;> with_reducible rfl)
    | (apply Local.same; (on_goal 1 => first | with_reducible apply State.wakePier_loc); rotate_left; with_reducible rfl; with_reducible rfl; with_reducible rfl)

theorem State.moveRead_loc {ref s : State} (u : Bool) (l : Nat) (h : Local ref s) : Local ref (State.moveRead s u l) := by
  unfold State.moveRead
  try dsimp only
  repeat' first
    | with_reducible assumption
    | with_reducible apply State.demandLine_loc
    | with_reducible apply State.trowelLine_loc
    | with_reducible apply local_ite
    | split
    | (apply Local.same (by assumption) <;> with_reducible rfl)
    | (apply Local.same; (on_goal 1 => first | with_reducible apply State.demandLine_loc | with_reducible apply State.trowelLine_loc); rotate_left; with_reducible rfl; with_reducible rfl; with_reducible rfl)

theorem State.movePackets_loc {ref s : State} (ps : List (Nat × Nat)) (h : Local ref s) : Local ref (State.movePackets s ps) := by
  unfold State.movePackets
  try dsimp only
  repeat' first
    | with_reducible assumption
    | with_reducible apply State.sendPackets_loc
    | with_reducible apply local_foldl
    | (intro _ _ _; dsimp only)
    | intro _ _ _
    | with_reducible apply local_ite
    | split
    | (apply Local.same (by assumption) <;> with_reducible rfl)
    | (apply Local.same; (on_goal 1 => first | with_reducible apply State.sendPackets_loc); rotate_left; with_reducible rfl; with_reducible rfl; with_reducible rfl)

theorem out_ite {ref : State} {a b : Out} (c : Prop) [Decidable c] (ha : Local ref a.s) (hb : Local ref b.s) :
    Local ref (if c then a else b).s := by
  split <;> assumption

theorem State.copyShare_loc {ref s : State} (e : Env) (mv : Bool) (a0 d0 : Tens) (h : Local ref s) :
    Local ref (State.copyShare s e mv a0 d0).s := by
  unfold State.copyShare
  lift_lets
  intro a d1 d ov tiles coreOf u cs met s0
  have h0 : Local ref s0 := State.vectorAnomalies_loc _ _ _ _ _ _ h
  clear_value s0
  intro rec sa r
  have hr : Local ref r.put.s := by
    refine foldl_keeps (fun a : CopyAcc => Local ref a.put.s) _ (fun b i hb => ?_) _ h0
    dsimp only
    split
    · exact hb
    · have h1 := fun ls => local_ite (mv = true)
        (local_foldl (fun (s : State) l => s.moveRead u l) (fun _ _ ht => State.moveRead_loc _ _ ht) ls (State.wakeHomes_loc ls hb))
        (State.demandLines_loc e.p ls hb)
      exact Put.run_loc _ _ _ _ _ _ (local_ite _ (State.wakeHomes_loc _ (h1 _)) (h1 _))
  clear_value r
  intro s1 s2 s3 s4
  have h3 : Local ref s3 := State.flushedIf_loc _ _ _ (State.updPier_loc _ _ (Put.close_loc _ _ hr))
  clear_value s3
  have h4 : Local ref s4 := State.noteRuns_loc _ _ (local_ite _ (State.movePackets_loc _ h3) h3)
  intros
  exact out_ite _ (State.account_loc _ _ (State.log_loc _ (State.bumpPier_loc _ _ _ h0))) (State.account_loc _ _ h4)

theorem State.tcopyShare_loc {ref s : State} (e : Env) (h : Local ref s) : Local ref (State.tcopyShare s e).s :=
  State.copyShare_loc _ _ _ _ h

theorem State.moveShare_loc {ref s : State} (e : Env) (h : Local ref s) : Local ref (State.moveShare s e).s :=
  State.copyShare_loc _ _ _ _ h

/-! ## Trowel -/

theorem State.putRuntime_loc {ref s : State} (p : PierId) (x : PEntry) (h : Local ref s) : Local ref (State.putRuntime s p x) := by
  unfold State.putRuntime
  try dsimp only
  repeat' first
    | with_reducible assumption
    | with_reducible apply State.putHome_loc

theorem State.putFp_loc {ref s : State} (p : PierId) (t : Tens) (fpOff shard v f : Nat) (h : Local ref s) : Local ref (State.putFp s p t fpOff shard v f) := by
  unfold State.putFp
  try dsimp only
  repeat' first
    | with_reducible assumption
    | with_reducible apply State.putHome_loc

theorem State.dropPending_loc {ref s : State} (e : Env) (x : PEntry) (h : Local ref s) : Local ref (State.dropPending s e x).1 := by
  unfold State.dropPending
  try dsimp only
  repeat' first
    | with_reducible assumption
    | with_reducible apply State.bumpPier_loc
    | with_reducible apply State.anomaly_loc
    | with_reducible apply State.putRuntime_loc

theorem State.updSettle_loc {ref s : State} (e : Env) (u : Upd) (met : Met) (os : List ElOut) (h : Local ref s) : Local ref (State.updSettle s e u met os).s := by
  unfold State.updSettle
  try dsimp only
  repeat' first
    | with_reducible assumption
    | with_reducible apply State.flushedIf_loc
    | with_reducible apply State.settle_loc

theorem State.scanCount_loc {ref s : State} (e : Env) (sc : Scan) (h : Local ref s) : Local ref (State.scanCount s e sc) := by
  unfold State.scanCount
  try dsimp only
  repeat' first
    | with_reducible assumption
    | with_reducible apply State.sparseCount_loc

theorem State.updStale_loc {ref s : State} (e : Env) (x : Option PEntry) (h : Local ref s) : Local ref (s.updStale e x).1 := by
  unfold State.updStale
  split
  · split
    · exact State.dropPending_loc _ _ h
    · exact h
  · exact h

theorem State.updateAccum_loc {ref s : State} (e : Env) (mix : Bool) (d a : Tens) (x : Option PEntry) (sc : Scan) (els : List Placed) (met : Met)
    (fig : List SparseFig) (h : Local ref s) : Local ref (s.updateAccum e mix d a x sc els met fig).s := by
  unfold State.updateAccum
  lift_lets
  intro v met1
  split
  · exact State.account_loc _ _ (State.scanCount_loc _ _ h)
  · split
    · exact State.account_loc _ _ (State.bumpPier_loc _ _ _ (State.scanCount_loc _ _ h))
    · intros
      exact State.putRuntime_loc _ _ (State.flushedIf_loc _ _ _ (State.settle_loc _ _ _ _ _ _ (State.scanCount_loc _ _ h)))

theorem State.updateApply_loc {ref s : State} (e : Env) (d a : Tens) (x : Option PEntry) (sc : Scan) (els : List Placed) (met : Met)
    (fig : List SparseFig) (h : Local ref s) : Local ref (s.updateApply e d a x sc els met fig).s := by
  unfold State.updateApply
  generalize s.hyper e.p (fld e.h.imm 7 0) = y
  obtain ⟨k, km⟩ := y
  dsimp -zeta only
  lift_lets
  intros
  dsimp only
  refine State.updPier_loc _ _ (State.updSettle_loc _ _ _ _ (State.scanCount_loc _ _ (State.bumpPier_loc _ _ _ ?_)))
  exact local_ite _ h (State.bumpPier_loc _ _ _ h)

theorem State.updateFast_loc {ref s : State} (e : Env) (mix : Bool) (d a : Tens) (m : Met) (h : Local ref s) :
    Local ref (State.updateFast s e mix d a m).s := by
  unfold State.updateFast
  lift_lets
  intro p x s1
  have h1 : Local ref s1 := local_ite _ (State.bumpPier_loc _ _ _ h) h
  clear_value s1 x
  intro r
  have hr : Local ref r.1 := State.updStale_loc _ _ h1
  clear_value r
  intros
  refine out_ite _ (State.account_loc _ _ (State.bumpPier_loc _ _ _ h1)) ?_
  refine out_ite _ ?_ ?_
  rotate_left
  refine out_ite _ ?_ ?_
  rotate_right
  · exact State.account_loc _ _ (State.anomaly_loc _ _ _ _ (State.bumpPier_loc _ _ _ hr))
  · exact State.updateApply_loc _ _ _ _ _ _ _ _ hr
  · exact State.updateAccum_loc _ _ _ _ _ _ _ _ _ hr

theorem State.updateSlow_loc {ref s : State} (e : Env) (d a : Tens) (m : Met) (port : Fin 8) (h : Local ref s) :
    Local ref (State.updateSlow s e d a m port).s := by
  unfold State.updateSlow
  lift_lets
  intro hh p v slot x frozen s1
  have h1 : Local ref s1 := local_ite _ (State.bumpPier_loc _ _ _ h) h
  clear_value s1 frozen
  refine out_ite _ (State.account_loc _ _ (State.bumpPier_loc _ _ _ h1)) ?_
  generalize s1.paramEls p d = y
  obtain ⟨els, sc⟩ := y
  exact State.account_loc _ _ (State.flushedIf_loc _ _ _ (State.updQuoin_loc _ _ (State.scanCount_loc _ _ (State.trowelLines_loc _ _ h1))))

theorem State.updateRun_loc {ref s : State} (e : Env) (mix : Bool) (h : Local ref s) : Local ref (State.updateRun s e mix).s := by
  unfold State.updateRun
  dsimp only
  split
  · exact State.updateSlow_loc _ _ _ _ _ h
  · exact State.updateFast_loc _ _ _ _ _ h

theorem State.updateShare_loc {ref s : State} (e : Env) (h : Local ref s) : Local ref (State.updateShare s e).s :=
  State.settled_loc _ _ fun mix => State.updateRun_loc _ mix h

theorem State.putNorm_loc {ref s : State} (p : PierId) (layer epoch w g u : Nat) (h : Local ref s) : Local ref (State.putNorm s p layer epoch w g u) := by
  unfold State.putNorm
  try dsimp only
  repeat' first
    | with_reducible assumption
    | with_reducible apply State.putHome_loc
    | with_reducible apply local_ite

/-! ## Tiles -/

theorem State.advanceWalk_loc {ref s : State} (p : PierId) (w : Walk) (h : Local ref s) : Local ref (State.advanceWalk s p w) := by
  unfold State.advanceWalk
  try dsimp only
  repeat' first
    | with_reducible assumption
    | with_reducible apply State.updPier_loc
    | with_reducible apply local_ite
    | split
    | (apply Local.same (by assumption) <;> with_reducible rfl)
    | (apply Local.same; (on_goal 1 => first | with_reducible apply State.updPier_loc); rotate_left; with_reducible rfl; with_reducible rfl; with_reducible rfl)

theorem State.advanceWalks_loc {ref s : State} (p : PierId) (h : Local ref s) : Local ref (State.advanceWalks s p) := by
  unfold State.advanceWalks
  try dsimp only
  repeat' first
    | with_reducible assumption
    | with_reducible apply State.advanceWalk_loc
    | with_reducible apply local_foldl
    | (intro _ _ _; dsimp only)
    | intro _ _ _
    | with_reducible apply local_ite
    | split
    | (apply Local.same (by assumption) <;> with_reducible rfl)
    | (apply Local.same; (on_goal 1 => first | with_reducible apply State.advanceWalk_loc); rotate_left; with_reducible rfl; with_reducible rfl; with_reducible rfl)

theorem State.tileLoaded_loc {ref s : State} (p : PierId) (course stream : Nat) (h : Local ref s) : Local ref (State.tileLoaded s p course stream) := by
  unfold State.tileLoaded
  try dsimp only
  repeat' first
    | with_reducible assumption
    | with_reducible apply State.updPier_loc
    | with_reducible apply State.advanceWalks_loc
    | with_reducible apply local_ite
    | split
    | (apply Local.same (by assumption) <;> with_reducible rfl)
    | (apply Local.same; (on_goal 1 => first | with_reducible apply State.updPier_loc | with_reducible apply State.advanceWalks_loc); rotate_left; with_reducible rfl; with_reducible rfl; with_reducible rfl)

theorem State.stateArrival_loc {ref s : State} (p : PierId) (course stream row : Nat) (h : Local ref s) : Local ref (State.stateArrival s p course stream row) := by
  unfold State.stateArrival
  try dsimp only
  repeat' first
    | with_reducible assumption
    | with_reducible apply State.updPier_loc
    | with_reducible apply State.advanceWalks_loc
    | with_reducible apply local_ite
    | split
    | (apply Local.same (by assumption) <;> with_reducible rfl)
    | (apply Local.same; (on_goal 1 => first | with_reducible apply State.updPier_loc | with_reducible apply State.advanceWalks_loc); rotate_left; with_reducible rfl; with_reducible rfl; with_reducible rfl)

theorem State.scanClose_loc {ref s : State} (p : PierId) (course stream : Nat) (h : Local ref s) : Local ref (State.scanClose s p course stream) := by
  unfold State.scanClose
  try dsimp only
  repeat' first
    | with_reducible assumption
    | with_reducible apply State.updPier_loc
    | with_reducible apply State.advanceWalks_loc
    | with_reducible apply local_ite
    | split
    | (apply Local.same (by assumption) <;> with_reducible rfl)
    | (apply Local.same; (on_goal 1 => first | with_reducible apply State.updPier_loc | with_reducible apply State.advanceWalks_loc); rotate_left; with_reducible rfl; with_reducible rfl; with_reducible rfl)

theorem State.nextSlot_loc {ref s : State} (p : PierId) (h : Local ref s) : Local ref (State.nextSlot s p) := by
  unfold State.nextSlot
  try dsimp only
  repeat' first
    | with_reducible assumption
    | with_reducible apply State.updPier_loc
    | with_reducible apply State.advanceWalks_loc
    | with_reducible apply local_ite
    | split
    | (apply Local.same (by assumption) <;> with_reducible rfl)
    | (apply Local.same; (on_goal 1 => first | with_reducible apply State.updPier_loc | with_reducible apply State.advanceWalks_loc); rotate_left; with_reducible rfl; with_reducible rfl; with_reducible rfl)

/-! ## Chisel -/

theorem State.topkRun_loc {ref s : State} (e : Env) (mix : Bool) (h : Local ref s) : Local ref (State.topkRun s e mix).s := by
  unfold State.topkRun
  try dsimp only
  repeat' first
    | with_reducible assumption
    | with_reducible apply State.bumpPier_loc
    | with_reducible apply State.flushedIf_loc
    | with_reducible apply State.settle_loc
    | with_reducible apply State.vectorAnomalies_loc
    | with_reducible apply local_foldl
    | (intro _ _ _; dsimp only)
    | intro _ _ _
    | with_reducible apply local_ite
    | split
    | (apply Local.same (by assumption) <;> with_reducible rfl)
    | (apply Local.same; (on_goal 1 => first | with_reducible apply State.bumpPier_loc | with_reducible apply State.flushedIf_loc | with_reducible apply State.settle_loc | with_reducible apply State.vectorAnomalies_loc); rotate_left; with_reducible rfl; with_reducible rfl; with_reducible rfl)

theorem State.topkShare_loc {ref s : State} (e : Env) (h : Local ref s) : Local ref (State.topkShare s e).s :=
  State.settled_loc _ _ fun mix => State.topkRun_loc _ mix h

theorem State.packRun_loc {ref s : State} (e : Env) (mix : Bool) (h : Local ref s) : Local ref (State.packRun s e mix).s := by
  unfold State.packRun
  lift_lets
  intro hd target a d0 flush lists sc dest d a1 pr f blocks coreOf cs met badFmt badLay s1 s2
  have h1 : Local ref s1 := local_ite _ (State.courseAnomaly_loc _ _ _ _ h) h
  have h2 : Local ref s2 := local_ite _ (State.courseAnomaly_loc _ _ _ _ h1) h1
  clear_value s1 s2
  intro writes packs mapAt acc0
  have h0 : Local ref acc0.put.s := State.demandLines_loc _ _ h2
  clear_value acc0
  intro r
  have hr : Local ref r.put.s := by
    refine foldl_keeps (fun a : PackAcc => Local ref a.put.s) _ (fun b i hb => ?_) _ h0
    dsimp only
    split
    · exact hb
    · exact Put.run_loc _ _ _ _ _ _ (State.demandLines_loc _ _ hb)
  clear_value r
  intro losses sb figA sx fig s3 s4 s5 s6 s7 s8
  have h4 : Local ref s4 := State.noteRuns_loc _ _ (State.flushedIf_loc _ _ _ (Put.close_loc _ _ hr))
  clear_value s4
  have h5 : Local ref s5 := local_ite _ (State.putHome_loc _ _ _ _ h4) h4
  clear_value s5
  have h7 : Local ref s7 := State.bumpPier_loc _ _ _ (State.sparseCount_loc _ _ _ (State.scanCount_loc _ _ h5))
  clear_value s7
  exact State.account_loc _ _ (local_ite _ (State.addJob_loc _ _ _ _ h7) h7)

theorem State.packShare_loc {ref s : State} (e : Env) (h : Local ref s) : Local ref (State.packShare s e).s :=
  State.settled_loc _ _ fun mix => State.packRun_loc _ mix h

theorem State.moveBlocks_loc {ref s : State} (s0 : State) (p : PierId) (t : Tens) (ms : List (Nat × Option Nat)) (h : Local ref s) :
    Local ref (State.moveBlocks s s0 p t ms) := by
  unfold State.moveBlocks
  dsimp only
  exact local_ite _ h (local_foldl _ (fun _ _ ht => State.putHome_loc _ _ _ _ ht) _ h)

theorem State.passAccount_loc {ref s : State} (e : Env) (seen : Bool × Bool) (m : Met) (h : Local ref s) : Local ref (State.passAccount s e seen m) := by
  unfold State.passAccount
  try dsimp only
  repeat' first
    | with_reducible assumption
    | with_reducible apply State.account_loc
    | with_reducible apply local_ite
    | split
    | (apply Local.same (by assumption) <;> with_reducible rfl)
    | (apply Local.same; (on_goal 1 => first | with_reducible apply State.account_loc); rotate_left; with_reducible rfl; with_reducible rfl; with_reducible rfl)

theorem State.finish_loc {ref s : State} (p : PierId) (t : Tens) (h : Local ref s) : Local ref (State.finish s p t).1 :=
  State.putCount_loc _ _ _ (State.putLists_loc _ _ _ _ (State.moveBlocks_loc _ _ _ _ h))

theorem State.maskShare_loc {ref s : State} (e : Env) (prune : Bool) (h : Local ref s) : Local ref (State.maskShare s e prune).s := by
  unfold State.maskShare
  try dsimp only
  repeat' first
    | with_reducible assumption
    | with_reducible apply State.bumpPier_loc
    | with_reducible apply State.trowelLines_loc
    | with_reducible apply State.account_loc
    | with_reducible apply State.flushedIf_loc
    | with_reducible apply State.sparseCount_loc
    | with_reducible apply Out.of_loc
    | with_reducible apply State.addJob_loc
    | with_reducible apply State.dropPending_loc
    | with_reducible apply local_foldl
    | intro _ _ _
    | with_reducible apply local_ite
    | split

theorem State.pruneShare_loc {ref s : State} (e : Env) (h : Local ref s) : Local ref (State.pruneShare s e).s := by
  unfold State.pruneShare
  try dsimp only
  repeat' first
    | with_reducible assumption
    | with_reducible apply State.maskShare_loc

theorem State.regrowShare_loc {ref s : State} (e : Env) (h : Local ref s) : Local ref (State.regrowShare s e).s := by
  unfold State.regrowShare
  try dsimp only
  repeat' first
    | with_reducible assumption
    | with_reducible apply State.maskShare_loc

theorem State.rewrite_loc {ref s : State} (p : PierId) (r : RewriteJob) (h : Local ref s) : Local ref (State.rewrite s p r) := by
  unfold State.rewrite
  lift_lets
  intro d keep s1 cap s2 s3 s4 s5
  have h1 : Local ref s1 := local_foldl _ (fun _ _ ht => State.moveBlocks_loc _ _ _ _ ht) _ h
  clear_value s1
  have h5 : Local ref s5 :=
    State.bumpPier_loc _ _ _ (State.putCount_loc _ _ _ (State.putHome_loc _ _ _ _ (State.putLists_loc _ _ _ _ h1)))
  clear_value s5
  split
  · exact State.putFp_loc _ _ _ _ _ _ h5
  · exact h5

/-! ## Replicas -/

theorem State.copyShard_loc {ref s : State} (t : Tens) (shard : Nat) (src dst : PierId) (h : Local ref s) : Local ref (State.copyShard s t shard src dst) := by
  unfold State.copyShard
  try dsimp only
  repeat' first
    | with_reducible assumption
    | with_reducible apply State.putElem_loc
    | with_reducible apply local_foldl
    | (intro _ _ _; dsimp only)
    | intro _ _ _
    | with_reducible apply local_ite
    | split

theorem State.sendShard_loc {ref s : State} (t : Tens) (shard : Nat) (src dst : PierId) (h : Local ref s) : Local ref (State.sendShard s t shard src dst) := by
  unfold State.sendShard
  try dsimp only
  repeat' first
    | with_reducible assumption
    | with_reducible apply State.wakePier_loc
    | with_reducible apply State.sendPackets_loc
    | with_reducible apply State.copyShard_loc
    | with_reducible apply local_ite
    | split
    | (apply Local.same (by assumption) <;> with_reducible rfl)
    | (apply Local.same; (on_goal 1 => first | with_reducible apply State.wakePier_loc | with_reducible apply State.sendPackets_loc | with_reducible apply State.copyShard_loc); rotate_left; with_reducible rfl; with_reducible rfl; with_reducible rfl)

theorem State.storeFpBy_loc {ref s : State} (s0 : State) (p : PierId) (t : Tens) (shard v f : Nat) (h : Local ref s) :
    Local ref (State.storeFpBy s s0 p t shard v f) := by
  unfold State.storeFpBy
  split
  · exact State.putFp_loc _ _ _ _ _ _ h
  · exact h

theorem State.storeFp_loc {ref s : State} (p : PierId) (t : Tens) (shard v f : Nat) (h : Local ref s) : Local ref (State.storeFp s p t shard v f) :=
  State.storeFpBy_loc _ _ _ _ _ _ h

theorem State.replicaRecord_loc {ref s : State} (p : PierId) (severity response tid shard : Nat) (h : Local ref s) : Local ref (State.replicaRecord s p severity response tid shard) := by
  unfold State.replicaRecord
  try dsimp only
  repeat' first
    | with_reducible assumption
    | with_reducible apply State.log_loc

theorem State.diverge_loc {ref s : State} (p : PierId) (t : Tens) (shard v : Nat) (h : Local ref s) : Local ref (State.diverge s p t shard v) := by
  unfold State.diverge
  lift_lets
  intro t1 own stored reps
  clear_value t1 own stored reps
  refine local_ite _ (local_foldl _ (fun _ _ ht =>
    State.replicaRecord_loc _ _ _ _ _ (State.bumpPier_loc _ _ _ (State.storeFpBy_loc _ _ _ _ _ _ (State.sendShard_loc _ _ _ _ ht)))) _ h) ?_
  split
  · refine State.replicaRecord_loc _ _ _ _ _ (State.bumpPier_loc _ _ _ ?_)
    split
    · exact State.startSounding_loc _ _ (State.updPier_loc _ _ (State.writeBytes_loc _ _ _ h))
    · exact State.storeFpBy_loc _ _ _ _ _ _ (State.sendShard_loc _ _ _ _ (State.writeBytes_loc _ _ _ h))
  · exact State.replicaRecord_loc _ _ _ _ _ (State.bumpPier_loc _ _ _ h)

theorem State.finishRepair_loc {ref s : State} (p : PierId) (x : Repair) (h : Local ref s) : Local ref (State.finishRepair s p x) := by
  unfold State.finishRepair
  extract_lets s1
  have h1 : Local ref s1 := State.updPier_loc _ _ h
  clear_value s1
  split
  · exact State.storeFp_loc _ _ _ _ _ (State.sendShard_loc _ _ _ _ h1)
  · exact h1

theorem State.regionSounded_loc {ref s : State} (p : PierId) (u : SUnit) (swap : Bool) (h : Local ref s) : Local ref (State.regionSounded s p u swap) := by
  unfold State.regionSounded
  try dsimp only
  repeat' first
    | with_reducible assumption
    | with_reducible apply State.updPier_loc
    | with_reducible apply State.finishRepair_loc
    | with_reducible apply local_foldl
    | (intro _ _ _; dsimp only)
    | intro _ _ _
    | with_reducible apply local_ite
    | split
    | (apply Local.same (by assumption) <;> with_reducible rfl)
    | (apply Local.same; (on_goal 1 => first | with_reducible apply State.updPier_loc | with_reducible apply State.finishRepair_loc); rotate_left; with_reducible rfl; with_reducible rfl; with_reducible rfl)

theorem State.swapDone_loc {ref s : State} (p : PierId) (h : Local ref s) : Local ref (State.swapDone s p) := by
  unfold State.swapDone
  try dsimp only
  repeat' first
    | with_reducible assumption
    | with_reducible apply State.finishRepair_loc
    | with_reducible apply local_foldl
    | (intro _ _ _; dsimp only)
    | intro _ _ _
    | with_reducible apply local_ite
    | split
    | (apply Local.same (by assumption) <;> with_reducible rfl)
    | (apply Local.same; (on_goal 1 => first | with_reducible apply State.finishRepair_loc); rotate_left; with_reducible rfl; with_reducible rfl; with_reducible rfl)

theorem State.recheck_loc {ref s : State} (p : PierId) (tid shard : Nat) (h : Local ref s) : Local ref (State.recheck s p tid shard) := by
  unfold State.recheck
  try dsimp only
  repeat' first
    | with_reducible assumption
    | with_reducible apply State.diverge_loc
    | with_reducible apply local_ite
    | split

theorem State.copyList_loc {ref s : State} (p : PierId) (d : Tens) (v : Nat) (h : Local ref s) : Local ref (State.copyList s p d v).1 := by
  unfold State.copyList
  try dsimp only
  repeat' first
    | with_reducible assumption
    | with_reducible apply State.putHome_loc
    | with_reducible apply local_ite
    | split

theorem State.broadcast_loc {ref s : State} (p : PierId) (t : Tens) (v : Nat) (d : Tens) (f : Nat × Nat) (h : Local ref s) :
    Local ref (State.broadcast s p t v d f) := by
  unfold State.broadcast
  extract_lets s1
  have h1 : Local ref s1 := local_foldl _ (fun _ _ ht =>
    State.updPier_loc _ _ (State.storeFp_loc _ _ _ _ _ (State.sendShard_loc _ _ _ _ ht))) _ h
  clear_value s1
  intros
  exact local_ite _ (State.diverge_loc _ _ _ _ h1) h1

theorem State.closeEntry_loc {ref s : State} (p : PierId) (t : Tens) (j : ApplyJob) (h : Local ref s) : Local ref (State.closeEntry s p t j) := by
  unfold State.closeEntry
  try dsimp only
  repeat' first
    | with_reducible assumption
    | with_reducible apply State.putRuntime_loc
    | with_reducible apply State.putFp_loc
    | with_reducible apply State.putNorm_loc
    | with_reducible apply local_foldl
    | (intro _ _ _; dsimp only)
    | intro _ _ _
    | with_reducible apply local_ite
    | split

theorem State.shardDone_loc {ref s : State} (p : PierId) (x : DeferEntry) (h : Local ref s) : Local ref (State.shardDone s p x) := by
  unfold State.shardDone
  try dsimp only
  repeat' first
    | with_reducible assumption
    | with_reducible apply State.sendKey_loc
    | with_reducible apply State.putRuntime_loc
    | with_reducible apply local_ite
    | split

theorem State.drainAccum_loc {ref s : State} (q : QuoinId) (e : Env) (x : DeferEntry) (d a : Tens) (y : Option PEntry)
    (els : List Placed) (h : Local ref s) : Local ref (s.drainAccum q e x d a y els) := by
  unfold State.drainAccum
  lift_lets
  intro p v
  split
  · exact h
  · split
    · exact local_ite _ (State.bumpPier_loc _ _ _ h) h
    intros
    exact State.putRuntime_loc _ _ (State.flushedIf_loc _ _ _ (State.settle_loc _ _ _ _ _ _ h))

theorem State.drainLast_loc {ref s : State} (q : QuoinId) (x : DeferEntry) (d : Tens) (h : Local ref s) : Local ref (State.drainLast s q x d) := by
  unfold State.drainLast
  try dsimp only
  repeat' first
    | with_reducible assumption
    | with_reducible apply State.updPier_loc
    | with_reducible apply State.putRuntime_loc
    | with_reducible apply State.putFp_loc
    | with_reducible apply State.putNorm_loc
    | with_reducible apply State.shardDone_loc
    | with_reducible apply local_foldl
    | (intro _ _ _; dsimp only)
    | intro _ _ _
    | with_reducible apply local_ite
    | split

theorem State.drainApply_loc {ref s : State} (q : QuoinId) (e : Env) (x : DeferEntry) (d a : Tens) (y : Option PEntry)
    (els : List Placed) (h : Local ref s) : Local ref (s.drainApply q e x d a y els) := by
  unfold State.drainApply
  lift_lets
  intro p v first ok u0 u1 u s1 s2
  have h1 : Local ref s1 := local_ite _ (State.bumpPier_loc _ _ _ h) h
  have h2 : Local ref s2 := local_ite _ (State.bumpPier_loc _ _ _ h1) h1
  clear_value s1 s2
  intros
  refine local_ite _ (State.drainLast_loc _ _ _ ?_) ?_
  all_goals exact State.updQuoin_loc _ _ (State.flushedIf_loc _ _ _ (State.settle_loc _ _ _ _ _ _ h2))

theorem State.drainEntry_loc {ref s : State} (q : QuoinId) (x : DeferEntry) (h : Local ref s) : Local ref (s.drainEntry q x) := by
  unfold State.drainEntry
  extract_lets p d a src e first y0 r again s1 pend s2
  have hr : Local ref r.1 := by
    clear_value y0
    cases y0 with
    | none => exact h
    | some y =>
      dsimp only [r]
      split
      · exact State.dropPending_loc _ _ h
      · exact h
  have h1 : Local ref s1 := local_ite _ (State.anomaly_loc _ _ _ _ (State.bumpPier_loc _ _ _ hr)) hr
  
  have h2 : Local ref s2 := local_ite _ (State.updQuoin_loc _ _ h1) h1
  intros
  exact local_ite _ (State.drainAccum_loc _ _ _ _ _ _ _ h2)
    (local_ite _ (local_ite _ (State.updQuoin_loc _ _ h2) h2) (State.drainApply_loc _ _ _ _ _ _ _ h2))

theorem State.dropEntry_loc {ref s : State} (q : QuoinId) (gone : Bool) (x : DeferEntry) (h : Local ref s) :
    Local ref (State.dropEntry s q gone x) := by
  unfold State.dropEntry
  extract_lets p e src s1
  have h1 : Local ref s1 := State.log_loc _ (State.bump_loc _ _ h)
  clear_value s1
  exact local_ite _ (State.shardDone_loc _ _ h1) h1

theorem State.dropAll_loc {ref : State} (q : QuoinId) (xs : List DeferEntry) : ∀ {s : State} (gone : Bool), Local ref s →
    Local ref (State.dropAll s q gone xs) := by
  induction xs with
  | nil => intro s gone h; exact h
  | cons x xs ih => intro s gone h; exact ih _ (State.dropEntry_loc _ _ _ h)

theorem State.drainDefer_loc {ref s : State} (q : QuoinId) (h : Local ref s) : Local ref (s.drainDefer q) := by
  unfold State.drainDefer
  split
  · exact h
  · extract_lets
    exact local_ite _ h (local_ite _ (State.updQuoin_loc _ _ (State.dropEntry_loc _ _ _ (State.updQuoin_loc _ _ h)))
      (State.drainEntry_loc _ _ (State.updQuoin_loc _ _ h)))

theorem State.dropEntries_loc {ref s : State} (q : QuoinId) (port : Nat) (h : Local ref s) : Local ref (State.dropEntries s q port) :=
  State.dropAll_loc _ _ _ (State.updQuoin_loc _ _ h)

/-! ## Export -/

theorem State.checkRecords_loc {ref s : State} (p : PierId) (v : Nat) (rs : List ExpRec) (h : Local ref s) : Local ref (State.checkRecords s p v rs) := by
  unfold State.checkRecords
  try dsimp only
  repeat' first
    | with_reducible assumption
    | with_reducible apply State.diverge_loc
    | with_reducible apply local_foldl
    | (intro _ _ _; dsimp only)
    | intro _ _ _
    | with_reducible apply local_ite
    | split
    | (apply Local.same (by assumption) <;> with_reducible rfl)
    | (apply Local.same; (on_goal 1 => first | with_reducible apply State.diverge_loc); rotate_left; with_reducible rfl; with_reducible rfl; with_reducible rfl)

theorem State.exportWrite_loc {ref s : State} (e : Env) (h : Local ref s) : Local ref (State.exportWrite s e).s := by
  unfold State.exportWrite
  extract_lets p a d met all slow cap fit out base met1 fits met2 st short
  have hs : Local ref st := local_ite _ (State.putHome_loc _ _ _ _ h) h
  clear_value st
  exact State.bumpPier_loc _ _ _ hs

theorem State.exportShare_loc {ref s : State} (e : Env) (h : Local ref s) : Local ref (State.exportShare s e).s := by
  unfold State.exportShare
  extract_lets w
  have hw : Local ref w.s := State.exportWrite_loc e h
  clear_value w
  exact State.account_loc _ _ (State.checkRecords_loc _ _ _ hw)

theorem State.ckptFar_loc {ref s : State} (p : PierId) (a : Tens) (h : Local ref s) : Local ref (State.ckptFar s p a) := by
  unfold State.ckptFar
  try dsimp only
  repeat' first
    | with_reducible assumption
    | with_reducible apply State.fetchFar_loc
    | with_reducible apply local_foldl
    | (intro _ _ _; dsimp only)
    | intro _ _ _
    | with_reducible apply local_ite
    | split
    | (apply Local.same (by assumption) <;> with_reducible rfl)
    | (apply Local.same; (on_goal 1 => first | with_reducible apply State.fetchFar_loc); rotate_left; with_reducible rfl; with_reducible rfl; with_reducible rfl)

theorem State.ckptWrite_loc {ref s : State} (e : Env) (h : Local ref s) : Local ref (State.ckptWrite s e).s := by
  unfold State.ckptWrite
  generalize s.ckptRegion e.p = br
  obtain ⟨base, size⟩ := br
  dsimp -zeta only
  extract_lets p a words met parts all skipped fit short body fits met1 nb s1 s2 st met2 bad
  have h2 : Local ref s2 := State.sendPackets_loc _ _ (State.wakePier_loc _ (State.ckptFar_loc _ _ (State.readLines_loc _ _ _ h)))
  clear_value s2
  have hs : Local ref st := local_ite _ (State.writeBytes_loc _ _ _ (State.writeBytes_loc _ _ _ h2)) h2
  clear_value st bad
  dsimp only
  exact local_ite _ (State.bumpPier_loc _ _ _ hs) hs

theorem State.ckptShare_loc {ref s : State} (e : Env) (h : Local ref s) : Local ref (State.ckptShare s e).s := by
  unfold State.ckptShare
  extract_lets p a w run st
  have hs : Local ref st := State.checkRecords_loc _ _ _ (State.ckptWrite_loc e h)
  clear_value st run w
  exact State.account_loc _ _ (State.updPier_loc _ _ hs)

theorem State.drainAbandon_loc {ref s : State} (p : PierId) (h : Local ref s) : Local ref (State.drainAbandon s p) := by
  unfold State.drainAbandon
  try dsimp only
  repeat' first
    | with_reducible assumption
    | with_reducible apply State.updPier_loc
    | with_reducible apply State.bumpPier_loc
    | with_reducible apply State.log_loc

theorem State.ckptDrained_loc {ref s : State} (p : PierId) (h : Local ref s) : Local ref (State.ckptDrained s p) := by
  unfold State.ckptDrained
  split
  · exact h
  · refine local_ite _ h ?_
    split
    · exact State.drainAbandon_loc _ h
    · generalize s.ckptRegion p = br
      obtain ⟨base, size⟩ := br
      dsimp -zeta only
      extract_lets home nb s1 s2 s3 s4
      have h2 : Local ref s2 := State.trowelLines_loc _ _ (State.sendPackets_loc _ _ (State.wakePier_loc _ (State.wakePier_loc _ h)))
      clear_value s2
      have h3 : Local ref s3 := by
        dsimp only [s3]
        split
        · exact State.account_loc _ _ h2
        · exact h2
      clear_value s3
      exact State.updPier_loc _ _ (State.writeBytes_loc _ _ _ (State.writeBytes_loc _ _ _ h3))

/-! ## Runs -/

theorem State.headerAnomaly_loc {ref s : State} (p : PierId) (hd : Header) (h : Local ref s) : Local ref (s.headerAnomaly p hd) :=
  State.log_loc _ (State.bumpPier_loc _ _ _ h)

end Sys2Proof.Machine
end

