-- ==== Sys2Proof/Laws/Up.lean ====
section
/-! SUPPORT. The relation `Up` between the state before a command and after it, one lemma a function that acts on the whole
module: the queue of commands stays, a sound state stays sound, the flash devices stay unless the command may write them. -/


namespace Sys2Proof.Machine

/-- What a command may do to the state as a whole: the queue of commands stays, a sound state stays sound, and the flash
devices stay unless `w` lets them change. -/
structure Up (w : Prop) (r t : State) : Prop where
  pending : t.pending = r.pending
  flash : ¬w → t.flash0 = r.flash0 ∧ t.flash1 = r.flash1
  sound : Sound r → Sound t

/-- The fields that `Up` is about, but memory and the held records. -/
structure Core where
  pending : List Instr
  flash0 : List Host.Cell
  flash1 : List Host.Cell
  func : Func
  power : Power
  tick : Nat
  skovs : Vector Skov 2

abbrev State.core (s : State) : Core := ⟨s.pending, s.flash0, s.flash1, s.func, s.power, s.tick, s.skovs⟩

theorem Up.refl (w : Prop) (s : State) : Up w s s := ⟨rfl, fun _ => ⟨rfl, rfl⟩, id⟩

theorem Up.of {w : Prop} {r s t : State} (h : Up w r s) (hc : t.core = s.core) (hm : Memory.wf s.mem = true → Memory.wf t.mem = true)
    (hh : s.held.length ≤ Config.heldCap → t.held.length ≤ Config.heldCap) : Up w r t := by
  simp only [State.core, Core.mk.injEq] at hc
  obtain ⟨h1, h2, h3, h4, h5, h6, h7⟩ := hc
  refine ⟨h1.trans h.1, fun hw => ⟨h2.trans (h.2 hw).1, h3.trans (h.2 hw).2⟩, fun hs => ?_⟩
  have hs := h.3 hs
  exact ⟨hm hs.1, hh hs.2.1, by simpa only [State.skov, h7] using hs.2.2.1, by rw [h4]; exact hs.2.2.2.1,
    by rw [h4]; exact hs.2.2.2.2.1, by rw [h5]; exact hs.2.2.2.2.2.1, by rw [h6]; exact hs.2.2.2.2.2.2⟩

theorem Up.same {w : Prop} {r s t : State} (h : Up w r s) (hc : t.core = s.core) (hm : t.mem = s.mem) (hh : t.held = s.held) :
    Up w r t := h.of hc (by rw [hm]; exact id) (by rw [hh]; exact id)

theorem Up.loc {w : Prop} {r s t : State} (h : Up w r s) (l : Local s t) : Up w r t := by
  have hf := l.fixed
  simp only [State.fixed, Fixed.mk.injEq] at hf
  refine h.of ?_ l.2 l.3
  simp only [State.core, hf]

theorem Up.trans {w : Prop} {r s t : State} (h : Up w r s) (l : Up w s t) : Up w r t :=
  ⟨l.1.trans h.1, fun hw => ⟨(l.2 hw).1.trans (h.2 hw).1, (l.2 hw).2.trans (h.2 hw).2⟩, fun hs => l.3 (h.3 hs)⟩

theorem up_foldl {w : Prop} {α : Type} {r : State} (f : State → α → State) (hf : ∀ t a, Up w r t → Up w r (f t a)) (l : List α) :
    ∀ {s : State}, Up w r s → Up w r (l.foldl f s) := by
  induction l with
  | nil => intro s h; exact h
  | cons a l ih => intro s h; exact ih (hf _ _ h)

theorem up_ite {w : Prop} {r a b : State} (c : Prop) [Decidable c] (ha : Up w r a) (hb : Up w r b) : Up w r (if c then a else b) := by
  split <;> assumption

theorem State.updSkov_up {w : Prop} {ref s : State} (d : Bool) (f : Skov → Skov) (hf : ∀ k, (f k).active = k.active) (hu : Up w ref s) :
    Up w ref (s.updSkov d f) := by
  refine ⟨hu.1, hu.2, fun hs => ?_⟩
  obtain ⟨h1, h2, h3, h4⟩ := hu.3 hs
  refine ⟨h1, h2, ?_, h4⟩
  cases d <;> simpa [State.skov, State.updSkov, skovIx, Vector.getElem_set, hf] using h3

theorem up_snd {w : Prop} {α : Type} {r : State} {a b : α × State} (c : Prop) [Decidable c] (ha : Up w r a.2) (hb : Up w r b.2) :
    Up w r (if c then a else b).2 := by
  split <;> assumption


/-- A state that differs in its function and power fields, in range still. -/
theorem Up.func {w : Prop} {r s t : State} (h : Up w r s) (hp : t.pending = s.pending) (hf : t.flash0 = s.flash0 ∧ t.flash1 = s.flash1)
    (hm : Memory.wf s.mem = true → Memory.wf t.mem = true) (hh : t.held = s.held) (ht : t.tick = s.tick) (hk : t.skovs = s.skovs)
    (h6 : s.func.state ≤ 6 → t.func.state ≤ 6) (hs : s.func.slot ≤ 2 → t.func.slot ≤ 2)
    (hr : (s.power.regulators = true → s.power.standby = true) → t.power.regulators = true → t.power.standby = true) : Up w r t := by
  refine ⟨hp.trans h.1, fun hw => ⟨hf.1.trans (h.2 hw).1, hf.2.trans (h.2 hw).2⟩, fun hr' => ?_⟩
  have hs' := h.3 hr'
  exact ⟨hm hs'.1, by rw [hh]; exact hs'.2.1, by simpa only [State.skov, hk] using hs'.2.2.1, h6 hs'.2.2.2.1,
    hs hs'.2.2.2.2.1, hr hs'.2.2.2.2.2.1, by rw [ht]; exact hs'.2.2.2.2.2.2⟩
/-! ## Ops -/

theorem State.updPort_up {w : Prop} {ref s : State} (p : PortId) (f : Port → Port) (hu : Up w ref s) : Up w ref (State.updPort s p f) := by
  unfold State.updPort
  try dsimp only
  repeat' first
    | with_reducible assumption
    | with_reducible apply up_ite
    | split
    | (apply Up.same (by assumption) <;> with_reducible rfl)

theorem State.updCxl_up {w : Prop} {ref s : State} (q : Fin 8) (f : CxlPort → CxlPort) (hu : Up w ref s) : Up w ref (State.updCxl s q f) := by
  unfold State.updCxl
  try dsimp only
  repeat' first
    | with_reducible assumption
    | with_reducible apply up_ite
    | split
    | (apply Up.same (by assumption) <;> with_reducible rfl)

theorem State.send_up {w : Prop} {ref s : State} (p : PortId) (m : OutMsg) (hu : Up w ref s) : Up w ref (State.send s p m) := by
  unfold State.send
  try dsimp only
  repeat' first
    | with_reducible assumption
    | with_reducible apply State.updPort_up
    | (with_reducible refine Up.loc ?_ (State.bump_loc _ _ (Local.refl _)))
    | with_reducible apply up_ite

theorem State.sendFree_up {w : Prop} {ref s : State} (p : PortId) (m : OutMsg) (hu : Up w ref s) : Up w ref (State.sendFree s p m) := by
  unfold State.sendFree
  try dsimp only
  repeat' first
    | with_reducible assumption
    | with_reducible apply State.updPort_up
    | with_reducible apply up_ite

theorem State.answerRead_up {w : Prop} {ref s : State} (src : Source) (status n v : Nat) (hu : Up w ref s) : Up w ref (State.answerRead s src status n v) := by
  unfold State.answerRead
  split
  · exact State.send_up _ _ hu
  · exact hu.loc (State.bump_loc _ _ (Local.refl _))
  · exact hu.loc (State.updPier_loc _ _ (Local.refl _))
  · exact State.updSkov_up _ _ (fun _ => rfl) hu

theorem State.answerWrite_up {w : Prop} {ref s : State} (src : Source) (status : Nat) (hu : Up w ref s) : Up w ref (State.answerWrite s src status) := by
  unfold State.answerWrite
  split
  · exact State.send_up _ _ hu
  · exact hu.loc (State.bump_loc _ _ (Local.refl _))
  · exact hu.loc (State.updPier_loc _ _ (Local.refl _))
  · exact State.updSkov_up _ _ (fun _ => rfl) hu

/-! ## Queues -/

theorem State.setQueue_up {w : Prop} {ref s : State} (q : QKey) (es : List QEntry) (hu : Up w ref s) : Up w ref (State.setQueue s q es) := by
  unfold State.setQueue
  try dsimp only
  repeat' first
    | with_reducible assumption
    | with_reducible apply up_ite
    | split
    | (apply Up.same (by assumption) <;> with_reducible rfl)

theorem State.updHead_up {w : Prop} {ref s : State} (q : QKey) (f : QEntry → QEntry) (hu : Up w ref s) : Up w ref (State.updHead s q f) := by
  unfold State.updHead
  try dsimp only
  repeat' first
    | with_reducible assumption
    | with_reducible apply State.setQueue_up
    | with_reducible apply up_ite
    | split

theorem State.popHead_up {w : Prop} {ref s : State} (q : QKey) (hu : Up w ref s) : Up w ref (State.popHead s q) := by
  unfold State.popHead
  try dsimp only
  repeat' first
    | with_reducible assumption
    | with_reducible apply State.setQueue_up

theorem State.jobDone_up {w : Prop} {ref s : State} (q : QKey) (lines : List Nat) (figs : List SparseFig) (hu : Up w ref s) : Up w ref (State.jobDone s q lines figs) := by
  unfold State.jobDone
  try dsimp only
  repeat' first
    | with_reducible assumption
    | with_reducible apply State.updHead_up

/-! ## Tiles -/

theorem State.beginWalks_loc {ref s : State} (e : Env) (h : Local ref s) : Local ref (s.beginWalks e) := by
  unfold State.beginWalks
  exact State.updPier_loc _ _ h

/-! ## Replicas -/

theorem State.closeApply_up {w : Prop} {ref s : State} (p : PierId) (j : ApplyJob) (hu : Up w ref s) : Up w ref (State.closeApply s p j) := by
  unfold State.closeApply
  try dsimp only
  repeat' first
    | with_reducible assumption
    | (with_reducible refine Up.loc ?_ (State.updPier_loc _ _ (Local.refl _)))
    | with_reducible apply State.jobDone_up
    | (with_reducible refine Up.loc ?_ (State.passAccount_loc _ _ _ (Local.refl _)))
    | (with_reducible refine Up.loc ?_ (State.copyList_loc _ _ _ (Local.refl _)))
    | (with_reducible refine Up.loc ?_ (State.broadcast_loc _ _ _ _ _ (Local.refl _)))
    | (with_reducible refine Up.loc ?_ (State.closeEntry_loc _ _ _ (Local.refl _)))
    | with_reducible apply up_foldl
    | (intro _ _ _; dsimp only)
    | intro _ _ _
    | with_reducible apply up_ite
    | split
    | (apply Up.same (by assumption) <;> with_reducible rfl)
    | (apply Up.same; (on_goal 1 => first | (with_reducible refine Up.loc ?_ (State.updPier_loc _ _ (Local.refl _))) | with_reducible apply State.jobDone_up | (with_reducible refine Up.loc ?_ (State.passAccount_loc _ _ _ (Local.refl _))) | (with_reducible refine Up.loc ?_ (State.copyList_loc _ _ _ (Local.refl _))) | (with_reducible refine Up.loc ?_ (State.broadcast_loc _ _ _ _ _ (Local.refl _))) | (with_reducible refine Up.loc ?_ (State.closeEntry_loc _ _ _ (Local.refl _)))); rotate_left; with_reducible rfl; with_reducible rfl; with_reducible rfl)

theorem State.placeEntry_up {w : Prop} {ref s : State} (q : QuoinId) (hu : Up w ref s) : Up w ref (State.placeEntry s q) := by
  unfold State.placeEntry
  split
  · exact hu
  · refine up_ite _ hu ?_
    exact State.jobDone_up _ _ _ ((hu.loc (State.updQuoin_loc _ _ (Local.refl _))).loc (State.putHome_loc _ _ _ _ (Local.refl _)))

theorem State.passDone_up {w : Prop} {ref s : State} (e : Env) (seen : Bool × Bool) (met : Met) (lines : List Nat) (figs : List SparseFig) (hu : Up w ref s) : Up w ref (State.passDone s e seen met lines figs) := by
  unfold State.passDone
  try dsimp only
  repeat' first
    | with_reducible assumption
    | with_reducible apply State.updHead_up
    | with_reducible apply State.jobDone_up
    | (with_reducible refine Up.loc ?_ (State.passAccount_loc _ _ _ (Local.refl _)))
    | with_reducible apply up_ite
    | split
    | (apply Up.same (by assumption) <;> with_reducible rfl)
    | (apply Up.same; (on_goal 1 => first | with_reducible apply State.updHead_up | with_reducible apply State.jobDone_up | (with_reducible refine Up.loc ?_ (State.passAccount_loc _ _ _ (Local.refl _)))); rotate_left; with_reducible rfl; with_reducible rfl; with_reducible rfl)

theorem State.finishPass_up {w : Prop} {ref s : State} (p : PierId) (q : QKey) (hu : Up w ref s) : Up w ref (State.finishPass s p q) := by
  unfold State.finishPass
  split
  · exact State.passDone_up _ _ _ _ _ (hu.loc (State.updPier_loc _ _ (State.sparseCount_loc _ _ _ (State.finish_loc _ _ (Local.refl _)))))
  · exact hu

theorem State.maskRewrite_up {w : Prop} {ref s : State} (p : PierId) (q : QKey) (hu : Up w ref s) : Up w ref (State.maskRewrite s p q) := by
  unfold State.maskRewrite
  split
  · exact State.passDone_up _ _ _ _ _ (hu.loc (State.updPier_loc _ _ (State.rewrite_loc _ _ (Local.refl _))))
  · exact hu

/-! ## Export -/

theorem State.ckptWritten_up {w : Prop} {ref s : State} (p : PierId) (hu : Up w ref s) : Up w ref (State.ckptWritten s p) := by
  unfold State.ckptWritten
  split
  · exact hu
  · refine up_ite _ hu ?_
    generalize s.ckptRegion p = br
    obtain ⟨base, _⟩ := br
    dsimp -zeta only
    lift_lets
    intro nb s1 s2 s3
    have h2 : Local s s2 := State.updPier_loc _ _
      (local_ite _ (Local.refl _) (State.writeBytes_loc _ _ _ (State.sendPackets_loc _ _ (State.wakePier_loc _ (Local.refl _)))))
    clear_value s2
    have h3 : Up w ref s3 := State.jobDone_up _ _ _ (hu.loc h2)
    clear_value s3
    exact up_ite _ h3 (up_ite _ (h3.loc (State.drainAbandon_loc _ (Local.refl _)))
      (h3.loc (State.updPier_loc _ _ (Local.refl _))))

/-! ## Headers -/

theorem State.requestStep_up {w : Prop} {ref s : State} (n status : Nat) (hu : Up w ref s) : Up w ref (State.requestStep s n status) := by
  unfold State.requestStep
  try dsimp only
  repeat' first
    | with_reducible assumption
    | with_reducible apply up_ite
    | split
    | (apply Up.same (by assumption) <;> with_reducible rfl)

theorem State.badUnit_up {w : Prop} {ref s : State} (h : Header) (o : Origin) (at_ : PierId ⊕ PortId) (hu : Up w ref s) : Up w ref (State.badUnit s h o at_) := by
  unfold State.badUnit
  try dsimp only
  repeat' first
    | with_reducible assumption
    | (with_reducible refine Up.loc ?_ (State.bump_loc _ _ (Local.refl _)))
    | (with_reducible refine Up.loc ?_ (State.bumpPier_loc _ _ _ (Local.refl _)))
    | (with_reducible refine Up.loc ?_ (State.log_loc _ (Local.refl _)))
    | (with_reducible refine Up.loc ?_ (State.wakePier_loc _ (Local.refl _)))
    | with_reducible apply State.send_up
    | with_reducible apply State.requestStep_up
    | with_reducible apply up_ite
    | split
    | (apply Up.same (by assumption) <;> with_reducible rfl)
    | (apply Up.same; (on_goal 1 => first | (with_reducible refine Up.loc ?_ (State.bump_loc _ _ (Local.refl _))) | (with_reducible refine Up.loc ?_ (State.bumpPier_loc _ _ _ (Local.refl _))) | (with_reducible refine Up.loc ?_ (State.log_loc _ (Local.refl _))) | (with_reducible refine Up.loc ?_ (State.wakePier_loc _ (Local.refl _))) | with_reducible apply State.send_up | with_reducible apply State.requestStep_up); rotate_left; with_reducible rfl; with_reducible rfl; with_reducible rfl)

theorem State.enter_up {w : Prop} {ref s : State} (h : Header) (o : Origin) (hu : Up w ref s) : Up w ref (State.enter s h o) := by
  unfold State.enter
  lift_lets
  intro q s1 s2
  have h1 : Up w ref s1 := State.setQueue_up _ _ hu
  clear_value s1
  have h2 : Up w ref s2 := up_ite _ (h1.loc (State.updPier_loc _ _ (Local.refl _))) h1
  clear_value s2
  split
  · exact h2.same rfl rfl rfl
  · exact h2

theorem State.submitHeader_up {w : Prop} {ref s : State} (h : Header) (o : Origin) (at_ : PierId ⊕ PortId) (ack : Option Source) (hu : Up w ref s) :
    Up w ref (s.submitHeader h o at_ ack).1 := by
  unfold State.submitHeader
  have h1 : Up w ref (s.sendPackets (s.submitPath at_ h.unit) 1) := hu.loc (State.sendPackets_loc _ _ (Local.refl _))
  dsimp only
  split
  · exact State.badUnit_up _ _ _ hu
  · split
    · exact State.enter_up _ _ h1
    · exact h1.same rfl rfl rfl

theorem State.enqueueWaiting_up {w : Prop} {ref s : State} (q : QKey) (hu : Up w ref s) : Up w ref (State.enqueueWaiting s q) := by
  unfold State.enqueueWaiting
  try dsimp only
  repeat' first
    | with_reducible assumption
    | with_reducible apply State.answerWrite_up
    | with_reducible apply State.enter_up
    | with_reducible apply up_ite
    | split
    | (apply Up.same (by assumption) <;> with_reducible rfl)
    | (apply Up.same; (on_goal 1 => first | with_reducible apply State.answerWrite_up | with_reducible apply State.enter_up); rotate_left; with_reducible rfl; with_reducible rfl; with_reducible rfl)

theorem State.dropBed_loc {ref s : State} (u : Nat) (lines : Option (List Nat)) (h : Local ref s) : Local ref (s.dropBed u lines) := by
  unfold State.dropBed
  refine local_foldl _ (fun _ _ ht => ?_) _ h
  split
  · exact ht
  · exact State.updPier_loc _ _ ht

theorem State.meet_up {w : Prop} {ref s : State} (e : Env) (hu : Up w ref s) : Up w ref (State.meet s e) := by
  unfold State.meet
  try dsimp only
  repeat' first
    | with_reducible assumption
    | (with_reducible refine Up.loc ?_ (State.updPier_loc _ _ (Local.refl _)))
    | with_reducible apply up_foldl
    | (intro _ _ _; dsimp only)
    | intro _ _ _
    | with_reducible apply up_ite
    | split
    | (apply Up.same (by assumption) <;> with_reducible rfl)
    | (apply Up.same; (on_goal 1 => first | (with_reducible refine Up.loc ?_ (State.updPier_loc _ _ (Local.refl _)))); rotate_left; with_reducible rfl; with_reducible rfl; with_reducible rfl)

theorem State.descend_up {w : Prop} {ref s : State} (q : QKey) (h : Header) (p : PierId) (hu : Up w ref s) : Up w ref (State.descend s q h p) := by
  unfold State.descend
  try dsimp only
  repeat' first
    | with_reducible assumption
    | (with_reducible refine Up.loc ?_ (State.updPier_loc _ _ (Local.refl _)))
    | with_reducible apply up_foldl
    | (intro _ _ _; dsimp only)
    | intro _ _ _
    | with_reducible apply up_ite
    | split
    | (apply Up.same (by assumption) <;> with_reducible rfl)
    | (apply Up.same; (on_goal 1 => first | (with_reducible refine Up.loc ?_ (State.updPier_loc _ _ (Local.refl _)))); rotate_left; with_reducible rfl; with_reducible rfl; with_reducible rfl)

theorem State.startShare_up {w : Prop} {ref s : State} (e : Env) (hu : Up w ref s) : Up w ref (State.startShare s e) := by
  unfold State.startShare
  try dsimp only
  repeat' first
    | with_reducible assumption
    | (with_reducible refine Up.loc ?_ (State.wakePier_loc _ (Local.refl _)))
    | (with_reducible refine Up.loc ?_ (State.wakeCourse_loc _ (Local.refl _)))
    | (with_reducible refine Up.loc ?_ (State.sendPackets_loc _ _ (Local.refl _)))
    | (with_reducible refine Up.loc ?_ (State.addJob_loc _ _ _ _ (Local.refl _)))
    | (with_reducible refine Up.loc ?_ (State.beginWalks_loc _ (Local.refl _)))
    | with_reducible apply State.meet_up
    | with_reducible apply up_foldl
    | (intro _ _ _; dsimp only)
    | intro _ _ _
    | with_reducible apply up_ite
    | split
    | (apply Up.same (by assumption) <;> with_reducible rfl)
    | (apply Up.same; (on_goal 1 => first | (with_reducible refine Up.loc ?_ (State.wakePier_loc _ (Local.refl _))) | (with_reducible refine Up.loc ?_ (State.wakeCourse_loc _ (Local.refl _))) | (with_reducible refine Up.loc ?_ (State.sendPackets_loc _ _ (Local.refl _))) | (with_reducible refine Up.loc ?_ (State.addJob_loc _ _ _ _ (Local.refl _))) | (with_reducible refine Up.loc ?_ (State.beginWalks_loc _ (Local.refl _))) | with_reducible apply State.meet_up); rotate_left; with_reducible rfl; with_reducible rfl; with_reducible rfl)

theorem State.beginShare_up {w : Prop} {ref s : State} (q : QKey) (x : QEntry) (p : PierId) (hu : Up w ref s) : Up w ref (State.beginShare s q x p) := by
  unfold State.beginShare
  try dsimp only
  repeat' first
    | with_reducible assumption
    | with_reducible apply State.updHead_up
    | with_reducible apply State.descend_up
    | with_reducible apply State.startShare_up
    | with_reducible apply up_ite
    | split
    | (apply Up.same (by assumption) <;> with_reducible rfl)
    | (apply Up.same; (on_goal 1 => first | with_reducible apply State.updHead_up | with_reducible apply State.descend_up | with_reducible apply State.startShare_up); rotate_left; with_reducible rfl; with_reducible rfl; with_reducible rfl)

theorem State.beginShares_up {w : Prop} {ref s : State} (q : QKey) (hu : Up w ref s) : Up w ref (State.beginShares s q) := by
  unfold State.beginShares
  try dsimp only
  repeat' first
    | with_reducible assumption
    | with_reducible apply State.beginShare_up
    | with_reducible apply up_foldl
    | (intro _ _ _; dsimp only)
    | intro _ _ _
    | with_reducible apply up_ite
    | split
    | (apply Up.same (by assumption) <;> with_reducible rfl)
    | (apply Up.same; (on_goal 1 => first | with_reducible apply State.beginShare_up); rotate_left; with_reducible rfl; with_reducible rfl; with_reducible rfl)

theorem State.failHeader_up {w : Prop} {ref s : State} (q : QKey) (h : Header) (p : PierId) (hu : Up w ref s) : Up w ref (State.failHeader s q h p) := by
  unfold State.failHeader
  try dsimp only
  repeat' first
    | with_reducible assumption
    | (with_reducible refine Up.loc ?_ (State.log_loc _ (Local.refl _)))
    | with_reducible apply State.updHead_up

theorem State.fetchOps_up {w : Prop} {ref s : State} (p : PierId) (ops : List Tens) (hu : Up w ref s) : Up w ref (State.fetchOps s p ops) := by
  unfold State.fetchOps
  try dsimp only
  repeat' first
    | with_reducible assumption
    | (with_reducible refine Up.loc ?_ (State.fetchFar_loc _ _ _ (Local.refl _)))
    | with_reducible apply up_foldl
    | (intro _ _ _; dsimp only)
    | intro _ _ _
    | with_reducible apply up_ite
    | split
    | (apply Up.same (by assumption) <;> with_reducible rfl)
    | (apply Up.same; (on_goal 1 => first | (with_reducible refine Up.loc ?_ (State.fetchFar_loc _ _ _ (Local.refl _)))); rotate_left; with_reducible rfl; with_reducible rfl; with_reducible rfl)

theorem State.startHeader_up {w : Prop} {ref s : State} (q : QKey) (h : Header) (p : PierId) (v : Nat) (ops : List Tens) (hu : Up w ref s) :
    Up w ref (s.startHeader q h p v ops) := by
  unfold State.startHeader
  extract_lets ps tid bound s1 s2
  have h2 : Up w ref s2 := up_foldl _ (fun _ _ ht => State.fetchOps_up _ _ ht) _ (State.fetchOps_up _ _ hu)
  clear_value s2
  exact State.updHead_up _ _ (h2.same rfl rfl rfl)

theorem State.decodeHead_up {w : Prop} {ref s : State} (q : QKey) (hu : Up w ref s) : Up w ref (State.decodeHead s q) := by
  unfold State.decodeHead
  try dsimp only
  repeat' first
    | with_reducible assumption
    | with_reducible apply State.updHead_up
    | (with_reducible refine Up.loc ?_ (State.headerAnomaly_loc _ _ (Local.refl _)))
    | (with_reducible refine Up.loc ?_ (State.dropBed_loc _ _ (Local.refl _)))
    | with_reducible apply State.beginShares_up
    | with_reducible apply State.failHeader_up
    | with_reducible apply State.startHeader_up
    | with_reducible apply up_ite
    | split
    | (apply Up.same (by assumption) <;> with_reducible rfl)
    | (apply Up.same; (on_goal 1 => first | with_reducible apply State.updHead_up | (with_reducible refine Up.loc ?_ (State.headerAnomaly_loc _ _ (Local.refl _))) | (with_reducible refine Up.loc ?_ (State.dropBed_loc _ _ (Local.refl _))) | with_reducible apply State.beginShares_up | with_reducible apply State.failHeader_up | with_reducible apply State.startHeader_up); rotate_left; with_reducible rfl; with_reducible rfl; with_reducible rfl)

theorem State.runShare_loc {ref : State} {share : State → Env → Out} (hs : ∀ {ref t : State} (e : Env), Local ref t → Local ref (share t e).s) (q : QKey)
    (x : QEntry) (a : State × QEntry) (p : PierId) (h : Local ref a.1) : Local ref (State.runShare share q x a p).1 := by
  unfold State.runShare
  dsimp only
  split
  · exact State.headerAnomaly_loc _ _ h
  · exact hs _ h

theorem State.know_loc {ref s : State} (p : PierId) (t : Tens) (h : Local ref s) : Local ref (s.know p t) := by
  unfold State.know
  exact local_ite _ h (State.updPier_loc _ _ h)

theorem State.afterShare_loc {ref s : State} (q : QKey) (x : QEntry) (p : PierId) (h : Local ref s) :
    Local ref (s.afterShare q x p) := by
  unfold State.afterShare
  extract_lets hd s1
  have h1 : Local ref s1 := State.updPier_loc _ _ h
  clear_value s1
  split
  all_goals first | exact h1 | exact State.know_loc _ _ h1 | exact State.updPier_loc _ _ h1

theorem State.abandonShares_up {w : Prop} {ref s : State} (q : QKey) (hu : Up w ref s) : Up w ref (State.abandonShares s q) := by
  unfold State.abandonShares
  try dsimp only
  repeat' first
    | with_reducible assumption
    | (with_reducible refine Up.loc ?_ (State.updPier_loc _ _ (Local.refl _)))
    | with_reducible apply up_foldl
    | (intro _ _ _; dsimp only)
    | intro _ _ _
    | with_reducible apply up_ite
    | split
    | (apply Up.same (by assumption) <;> with_reducible rfl)
    | (apply Up.same; (on_goal 1 => first | (with_reducible refine Up.loc ?_ (State.updPier_loc _ _ (Local.refl _)))); rotate_left; with_reducible rfl; with_reducible rfl; with_reducible rfl)

theorem State.runOp_up {w : Prop} {ref s : State} {share : State → Env → Out} (hs : ∀ {ref t : State} (e : Env), Local ref t → Local ref (share t e).s) (q : QKey) (op : Nat) (hu : Up w ref s) : Up w ref (s.runOp q op share) := by
  unfold State.runOp
  split
  · exact hu
  · split
    · exact hu
    · lift_lets
      intro s1
      have h1 : Up w ref s1 := State.beginShares_up _ hu
      clear_value s1
      split
      · exact h1
      · rename_i x _
        lift_lets
        intro left turn ps
        have h2 : ∀ (a : State × QEntry), Local s1 a.1 → Local s1 (ps.foldl (fun (a : State × QEntry) p => State.runShare share q x a p) a).1 := by
          clear_value ps
          induction ps with
          | nil => exact fun _ h => h
          | cons p ps ih => exact fun a h => ih _ (State.runShare_loc hs _ _ _ _ h)
        have h2 := h2 (s1, x) (Local.refl _)
        revert h2
        generalize ps.foldl (fun (a : State × QEntry) p => State.runShare share q x a p) (s1, x) = r
        obtain ⟨s2, y⟩ := r
        intro h2
        exact State.updHead_up _ _ ((h1.loc h2).loc (local_foldl _ (fun _ _ ht => State.afterShare_loc _ _ _ ht) _ (Local.refl _)))

theorem State.runProduct_up {w : Prop} {ref s : State} (q : QKey) (op : Nat) (hu : Up w ref s) : Up w ref (s.runProduct q op) := by
  unfold State.runProduct
  extract_lets s1
  have h1 : Up w ref s1 := State.runOp_up (fun _ h => State.productShare_loc _ h) _ _ hu
  clear_value s1
  split
  · exact up_ite _ h1 (State.setQueue_up _ _ h1)
  · exact h1

theorem State.actShare_loc {ref s : State} (e : Env) (h : Local ref s) : Local ref (State.actShare s e).s :=
  State.actFused_loc e _ h

theorem State.noShare_loc {ref s : State} (e : Env) (h : Local ref s) : Local ref (s.noShare e).s := h

theorem State.runSignal_up {w : Prop} {ref s : State} (q : QKey) (hu : Up w ref s) : Up w ref (State.runSignal s q) := by
  unfold State.runSignal
  try dsimp only
  repeat' first
    | with_reducible assumption
    | (with_reducible refine Up.loc ?_ (State.sendKey_loc _ _ _ _ _ (Local.refl _)))
    | with_reducible apply State.updHead_up
    | (with_reducible refine Up.loc ?_ (State.headerAnomaly_loc _ _ (Local.refl _)))
    | with_reducible apply State.beginShares_up
    | (with_reducible refine Up.loc ?_ (State.afterShare_loc _ _ _ (Local.refl _)))
    | with_reducible apply up_foldl
    | (intro _ _ _; dsimp only)
    | intro _ _ _
    | with_reducible apply up_ite
    | split
    | (apply Up.same (by assumption) <;> with_reducible rfl)
    | (apply Up.same; (on_goal 1 => first | (with_reducible refine Up.loc ?_ (State.sendKey_loc _ _ _ _ _ (Local.refl _))) | with_reducible apply State.updHead_up | (with_reducible refine Up.loc ?_ (State.headerAnomaly_loc _ _ (Local.refl _))) | with_reducible apply State.beginShares_up | (with_reducible refine Up.loc ?_ (State.afterShare_loc _ _ _ (Local.refl _)))); rotate_left; with_reducible rfl; with_reducible rfl; with_reducible rfl)

theorem State.tableReady_up {w : Prop} {ref s : State} (q : QKey) (hu : Up w ref s) : Up w ref (State.tableReady s q) := by
  unfold State.tableReady
  try dsimp only
  repeat' first
    | with_reducible assumption
    | with_reducible apply State.updHead_up
    | with_reducible apply up_ite
    | split

theorem State.leave_up {w : Prop} {ref s : State} (q : QKey) (hu : Up w ref s) : Up w ref (State.leave s q) := by
  unfold State.leave
  try dsimp only
  repeat' first
    | with_reducible assumption
    | (with_reducible refine Up.loc ?_ (State.updPier_loc _ _ (Local.refl _)))
    | with_reducible apply State.popHead_up
    | with_reducible apply up_ite
    | split
    | (apply Up.same (by assumption) <;> with_reducible rfl)
    | (apply Up.same; (on_goal 1 => first | (with_reducible refine Up.loc ?_ (State.updPier_loc _ _ (Local.refl _))) | with_reducible apply State.popHead_up); rotate_left; with_reducible rfl; with_reducible rfl; with_reducible rfl)

theorem State.closeHeader_up {w : Prop} {ref s : State} (x : QEntry) (hu : Up w ref s) : Up w ref (State.closeHeader s x) := by
  unfold State.closeHeader
  try dsimp only
  repeat' first
    | with_reducible assumption
    | (with_reducible refine Up.loc ?_ (State.combineStat_loc _ _ _ (Local.refl _)))
    | (with_reducible refine Up.loc ?_ (State.combineSparse_loc _ _ _ (Local.refl _)))
    | (with_reducible refine Up.loc ?_ (State.dropBed_loc _ _ (Local.refl _)))
    | with_reducible apply up_foldl
    | (intro _ _ _; dsimp only)
    | intro _ _ _
    | with_reducible apply up_ite
    | split
    | (apply Up.same (by assumption) <;> with_reducible rfl)
    | (apply Up.same; (on_goal 1 => first | (with_reducible refine Up.loc ?_ (State.combineStat_loc _ _ _ (Local.refl _))) | (with_reducible refine Up.loc ?_ (State.combineSparse_loc _ _ _ (Local.refl _))) | (with_reducible refine Up.loc ?_ (State.dropBed_loc _ _ (Local.refl _)))); rotate_left; with_reducible rfl; with_reducible rfl; with_reducible rfl)

theorem State.reportHeader_up {w : Prop} {ref s : State} (x : QEntry) (hu : Up w ref s) : Up w ref (State.reportHeader s x) := by
  unfold State.reportHeader
  try dsimp only
  repeat' first
    | with_reducible assumption
    | (with_reducible refine Up.loc ?_ (State.bump_loc _ _ (Local.refl _)))
    | with_reducible apply State.send_up
    | with_reducible apply State.requestStep_up
    | with_reducible apply State.badUnit_up
    | with_reducible apply up_foldl
    | (intro _ _ _; dsimp only)
    | intro _ _ _
    | with_reducible apply up_ite
    | split
    | (apply Up.same (by assumption) <;> with_reducible rfl)
    | (apply Up.same; (on_goal 1 => first | (with_reducible refine Up.loc ?_ (State.bump_loc _ _ (Local.refl _))) | with_reducible apply State.send_up | with_reducible apply State.requestStep_up | with_reducible apply State.badUnit_up); rotate_left; with_reducible rfl; with_reducible rfl; with_reducible rfl)

theorem State.completeHead_up {w : Prop} {ref s : State} (q : QKey) (hu : Up w ref s) : Up w ref (State.completeHead s q) := by
  unfold State.completeHead
  try dsimp only
  repeat' first
    | with_reducible assumption
    | (with_reducible refine Up.loc ?_ (State.sendKey_loc _ _ _ _ _ (Local.refl _)))
    | with_reducible apply State.updHead_up
    | with_reducible apply State.leave_up
    | with_reducible apply State.closeHeader_up
    | with_reducible apply State.reportHeader_up
    | with_reducible apply up_ite
    | split
    | (apply Up.same (by assumption) <;> with_reducible rfl)
    | (apply Up.same; (on_goal 1 => first | (with_reducible refine Up.loc ?_ (State.sendKey_loc _ _ _ _ _ (Local.refl _))) | with_reducible apply State.updHead_up | with_reducible apply State.leave_up | with_reducible apply State.closeHeader_up | with_reducible apply State.reportHeader_up); rotate_left; with_reducible rfl; with_reducible rfl; with_reducible rfl)

theorem State.signalled_up {w : Prop} {ref s : State} (q : QKey) (hu : Up w ref s) : Up w ref (State.signalled s q) := by
  unfold State.signalled
  try dsimp only
  repeat' first
    | with_reducible assumption
    | with_reducible apply State.jobDone_up
    | with_reducible apply State.leave_up
    | with_reducible apply State.reportHeader_up
    | with_reducible apply up_ite
    | split
    | (apply Up.same (by assumption) <;> with_reducible rfl)
    | (apply Up.same; (on_goal 1 => first | with_reducible apply State.jobDone_up | with_reducible apply State.leave_up | with_reducible apply State.reportHeader_up); rotate_left; with_reducible rfl; with_reducible rfl; with_reducible rfl)

/-! ## Courses -/

theorem State.loadStore_up {w : Prop} {ref s : State} (c : CoreId) (hu : Up w ref s) : Up w ref (State.loadStore s c) := by
  unfold State.loadStore
  try dsimp only
  repeat' first
    | with_reducible assumption
    | (with_reducible refine Up.loc ?_ (State.updPier_loc _ _ (Local.refl _)))
    | with_reducible apply up_ite

theorem State.courseSleep_up {w : Prop} {ref s : State} (c : CourseId) (hu : Up w ref s) : Up w ref (State.courseSleep s c) := by
  unfold State.courseSleep
  try dsimp only
  repeat' first
    | with_reducible assumption
    | (with_reducible refine Up.loc ?_ (State.updPier_loc _ _ (Local.refl _)))
    | with_reducible apply up_ite

theorem State.cleanCxl_up {w : Prop} {ref s : State} (p : PierId) (hu : Up w ref s) : Up w ref (State.cleanCxl s p) := by
  unfold State.cleanCxl
  try dsimp only
  repeat' first
    | with_reducible assumption
    | (with_reducible refine Up.loc ?_ (State.updPier_loc _ _ (Local.refl _)))

theorem State.pierSleep_up {w : Prop} {ref s : State} (p : PierId) (hu : Up w ref s) : Up w ref (State.pierSleep s p) := by
  unfold State.pierSleep
  try dsimp only
  repeat' first
    | with_reducible assumption
    | (with_reducible refine Up.loc ?_ (State.updPier_loc _ _ (Local.refl _)))
    | (with_reducible refine Up.loc ?_ (State.runChange_loc  (Local.refl _)))
    | with_reducible apply State.cleanCxl_up
    | with_reducible apply up_ite
    | split
    | (apply Up.same (by assumption) <;> with_reducible rfl)
    | (apply Up.same; (on_goal 1 => first | (with_reducible refine Up.loc ?_ (State.updPier_loc _ _ (Local.refl _))) | (with_reducible refine Up.loc ?_ (State.runChange_loc  (Local.refl _))) | with_reducible apply State.cleanCxl_up); rotate_left; with_reducible rfl; with_reducible rfl; with_reducible rfl)

theorem State.stirTick_up {w : Prop} {ref s : State} (p : PierId) (hu : Up w ref s) : Up w ref (State.stirTick s p) := by
  unfold State.stirTick
  try dsimp only
  repeat' first
    | with_reducible assumption
    | (with_reducible refine Up.loc ?_ (State.updPier_loc _ _ (Local.refl _)))
    | with_reducible apply up_foldl
    | (intro _ _ _; dsimp only)
    | intro _ _ _
    | with_reducible apply up_ite
    | split
    | (apply Up.same (by assumption) <;> with_reducible rfl)
    | (apply Up.same; (on_goal 1 => first | (with_reducible refine Up.loc ?_ (State.updPier_loc _ _ (Local.refl _)))); rotate_left; with_reducible rfl; with_reducible rfl; with_reducible rfl)

theorem State.pierWake_up {w : Prop} {ref s : State} (p : PierId) (hu : Up w ref s) : Up w ref (State.pierWake s p) := by
  unfold State.pierWake
  try dsimp only
  repeat' first
    | with_reducible assumption
    | (with_reducible refine Up.loc ?_ (State.wakePier_loc _ (Local.refl _)))
    | with_reducible apply up_ite

theorem State.courseWake_up {w : Prop} {ref s : State} (c : CourseId) (hu : Up w ref s) : Up w ref (State.courseWake s c) := by
  unfold State.courseWake
  try dsimp only
  repeat' first
    | with_reducible assumption
    | (with_reducible refine Up.loc ?_ (State.wakeCourse_loc _ (Local.refl _)))
    | with_reducible apply up_ite

/-! ## Keystones -/

theorem State.tasElement_up {w : Prop} {ref s : State} (t : Tens) (q : QKey) (prior : Nat) (hu : Up w ref s) : Up w ref (State.tasElement s t q prior) := by
  unfold State.tasElement
  try dsimp only
  repeat' first
    | with_reducible assumption
    | (with_reducible refine Up.loc ?_ (State.settle_loc _ _ _ _ _ _ (Local.refl _)))
    | with_reducible apply State.jobDone_up
    | with_reducible apply up_ite
    | split
    | (apply Up.same (by assumption) <;> with_reducible rfl)
    | (apply Up.same; (on_goal 1 => first | (with_reducible refine Up.loc ?_ (State.settle_loc _ _ _ _ _ _ (Local.refl _))) | with_reducible apply State.jobDone_up); rotate_left; with_reducible rfl; with_reducible rfl; with_reducible rfl)

theorem State.backTo_up {w : Prop} {ref s : State} (src : Source) (p : PierId) (hu : Up w ref s) : Up w ref (State.backTo s src p) := by
  unfold State.backTo
  try dsimp only
  repeat' first
    | with_reducible assumption
    | (with_reducible refine Up.loc ?_ (State.sendPackets_loc _ _ (Local.refl _)))
    | with_reducible apply up_ite
    | split
    | (apply Up.same (by assumption) <;> with_reducible rfl)
    | (apply Up.same; (on_goal 1 => first | (with_reducible refine Up.loc ?_ (State.sendPackets_loc _ _ (Local.refl _)))); rotate_left; with_reducible rfl; with_reducible rfl; with_reducible rfl)

theorem State.tasHome_up {w : Prop} {ref s : State} (q : QKey) (p : PierId) (hu : Up w ref s) : Up w ref (State.tasHome s q p) := by
  unfold State.tasHome
  try dsimp only
  repeat' first
    | with_reducible assumption
    | (with_reducible refine Up.loc ?_ (State.wakePier_loc _ (Local.refl _)))
    | (with_reducible refine Up.loc ?_ (State.sendPackets_loc _ _ (Local.refl _)))
    | with_reducible apply up_ite
    | split
    | (apply Up.same (by assumption) <;> with_reducible rfl)
    | (apply Up.same; (on_goal 1 => first | (with_reducible refine Up.loc ?_ (State.wakePier_loc _ (Local.refl _))) | (with_reducible refine Up.loc ?_ (State.sendPackets_loc _ _ (Local.refl _)))); rotate_left; with_reducible rfl; with_reducible rfl; with_reducible rfl)

theorem State.answerTas_up {w : Prop} {ref s : State} (p : PierId) (a : TasAnswer) (prior : Nat) (hu : Up w ref s) : Up w ref (State.answerTas s p a prior) := by
  unfold State.answerTas
  try dsimp only
  repeat' first
    | with_reducible assumption
    | with_reducible apply State.answerRead_up
    | with_reducible apply State.answerWrite_up
    | with_reducible apply State.signalled_up
    | with_reducible apply State.tasElement_up
    | with_reducible apply State.backTo_up
    | with_reducible apply State.tasHome_up
    | with_reducible apply up_ite
    | split
    | (apply Up.same (by assumption) <;> with_reducible rfl)
    | (apply Up.same; (on_goal 1 => first | with_reducible apply State.answerRead_up | with_reducible apply State.answerWrite_up | with_reducible apply State.signalled_up | with_reducible apply State.tasElement_up | with_reducible apply State.backTo_up | with_reducible apply State.tasHome_up); rotate_left; with_reducible rfl; with_reducible rfl; with_reducible rfl)

theorem State.refuseTas_up {w : Prop} {ref s : State} (a : TasAnswer) (hu : Up w ref s) : Up w ref (State.refuseTas s a) := by
  unfold State.refuseTas
  try dsimp only
  repeat' first
    | with_reducible assumption
    | with_reducible apply State.answerRead_up
    | with_reducible apply State.answerWrite_up
    | with_reducible apply State.updHead_up
    | with_reducible apply State.jobDone_up
    | with_reducible apply State.signalled_up
    | with_reducible apply up_ite
    | split
    | (apply Up.same (by assumption) <;> with_reducible rfl)
    | (apply Up.same; (on_goal 1 => first | with_reducible apply State.answerRead_up | with_reducible apply State.answerWrite_up | with_reducible apply State.updHead_up | with_reducible apply State.jobDone_up | with_reducible apply State.signalled_up); rotate_left; with_reducible rfl; with_reducible rfl; with_reducible rfl)

theorem State.refuseKeys_up {w : Prop} {ref s : State} (p : PierId) (hu : Up w ref s) : Up w ref (State.refuseKeys s p) := by
  unfold State.refuseKeys
  try dsimp only
  repeat' first
    | with_reducible assumption
    | (with_reducible refine Up.loc ?_ (State.updPier_loc _ _ (Local.refl _)))
    | with_reducible apply State.refuseTas_up
    | with_reducible apply up_foldl
    | (intro _ _ _; dsimp only)
    | intro _ _ _
    | with_reducible apply up_ite
    | split
    | (apply Up.same (by assumption) <;> with_reducible rfl)
    | (apply Up.same; (on_goal 1 => first | (with_reducible refine Up.loc ?_ (State.updPier_loc _ _ (Local.refl _))) | with_reducible apply State.refuseTas_up); rotate_left; with_reducible rfl; with_reducible rfl; with_reducible rfl)

theorem State.mapEvent_up {w : Prop} {ref s : State} (p : PierId) (hu : Up w ref s) : Up w ref (State.mapEvent s p) := by
  unfold State.mapEvent
  try dsimp only
  repeat' first
    | with_reducible assumption
    | (with_reducible refine Up.loc ?_ (State.event_loc _ _ (Local.refl _)))

theorem State.spareRecord_up {w : Prop} {ref s : State} (unitKind unit die new old : Nat) (hu : Up w ref s) : Up w ref (State.spareRecord s unitKind unit die new old) := by
  unfold State.spareRecord
  try dsimp only
  repeat' first
    | with_reducible assumption
    | (with_reducible refine Up.loc ?_ (State.log_loc _ (Local.refl _)))

theorem State.evacuate_up {w : Prop} {ref s : State} (p : PierId) (l : Nat) (hu : Up w ref s) : Up w ref (State.evacuate s p l) := by
  unfold State.evacuate
  try dsimp only
  repeat' first
    | with_reducible assumption
    | (with_reducible refine Up.loc ?_ (State.updPier_loc _ _ (Local.refl _)))
    | with_reducible apply State.mapEvent_up

theorem State.degrade_up {w : Prop} {ref s : State} (p : PierId) (hu : Up w ref s) : Up w ref (State.degrade s p) := by
  have h1 : Up w ref (s.updPier p fun pr => { pr with spareStatus := pr.spareStatus ||| 0x100_0000 }) :=
    hu.loc (State.updPier_loc _ _ (Local.refl _))
  exact h1.same rfl rfl rfl

theorem State.channelLasting_up {w : Prop} {ref s : State} (p : PierId) (phys : Nat) (hu : Up w ref s) : Up w ref (State.channelLasting s p phys).2 := by
  unfold State.channelLasting
  try dsimp only
  repeat' first
    | with_reducible assumption
    | (with_reducible refine Up.loc ?_ (State.updPier_loc _ _ (Local.refl _)))
    | with_reducible apply State.evacuate_up
    | with_reducible apply State.degrade_up
    | with_reducible apply up_ite
    | split

theorem State.noteRepair_up {w : Prop} {ref s : State} (p : PierId) (unit : Nat) (delay : Nat → Nat) (hu : Up w ref s) : Up w ref (State.noteRepair s p unit delay) := by
  unfold State.noteRepair
  try dsimp only
  repeat' first
    | with_reducible assumption
    | with_reducible apply up_ite
    | split
    | (apply Up.same (by assumption) <;> with_reducible rfl)

theorem State.evacuationSwitch_up {w : Prop} {ref s : State} (p : PierId) (hu : Up w ref s) : Up w ref (State.evacuationSwitch s p) := by
  unfold State.evacuationSwitch
  refine up_ite _ hu ?_
  extract_lets l old new w1 next s1 n s2 s3
  have h1 : Up w ref s1 := hu.loc (State.updPier_loc _ _ (Local.refl _))
  clear_value s1
  have h2 : Up w ref s2 := State.mapEvent_up _ (State.spareRecord_up _ _ _ _ _ (h1.same rfl rfl rfl))
  clear_value s2
  have h3 : Up w ref s3 := State.noteRepair_up _ _ _ (h2.loc (State.swapDone_loc _ (Local.refl _)))
  clear_value s3 next
  cases next with
  | some _ => exact State.channelLasting_up _ _ h3
  | none => exact h3

theorem State.stepTest_up {w : Prop} {ref s : State} (hu : Up w ref s) : Up w ref (State.stepTest s) := by
  unfold State.stepTest
  try dsimp only
  repeat' first
    | with_reducible assumption
    | with_reducible apply State.evacuationSwitch_up
    | with_reducible apply up_foldl
    | intro _ _ _
    | with_reducible apply up_ite
    | split
    | (apply Up.same (by assumption) <;> with_reducible rfl)

theorem State.stepAdvance_up {w : Prop} {ref s : State} (hu : Up w ref s) : Up w ref (State.stepAdvance s) := by
  unfold State.stepAdvance
  split
  · exact hu
  · lift_lets
    intro s1 s2
    have h1 : Up w ref s1 := up_foldl _ (fun _ _ ht => ht.loc (State.updPier_loc _ _ (Local.refl _))) _ hu
    clear_value s1
    have h2 : Up w ref s2 := up_foldl _ (fun _ _ ht => ht.loc (State.updQuoin_loc _ _ (Local.refl _))) _ h1
    clear_value s2
    exact up_ite _ hu (State.stepTest_up (h2.same rfl rfl rfl))

theorem State.keySeen_up {w : Prop} {ref s : State} (k : Nat) (hu : Up w ref s) : Up w ref (State.keySeen s k) := by
  unfold State.keySeen
  try dsimp only
  repeat' first
    | with_reducible assumption
    | with_reducible apply State.updPort_up
    | with_reducible apply up_foldl
    | (intro _ _ _; dsimp only)
    | intro _ _ _
    | with_reducible apply up_ite
    | split
    | (apply Up.same (by assumption) <;> with_reducible rfl)

theorem State.keyApply_up {w : Prop} {ref s : State} (key : Nat) (c : KeyCycle) (now arriving : List KeyOp) (hu : Up w ref s) : Up w ref (State.keyApply s key c now arriving) := by
  unfold State.keyApply
  try dsimp only
  repeat' first
    | with_reducible assumption
    | (with_reducible refine Up.loc ?_ (State.updPier_loc _ _ (Local.refl _)))
    | with_reducible apply State.answerTas_up
    | with_reducible apply State.stepTest_up
    | with_reducible apply State.keySeen_up
    | with_reducible apply up_foldl
    | (intro _ _ _; dsimp only)
    | intro _ _ _
    | with_reducible apply up_ite
    | split
    | (apply Up.same (by assumption) <;> with_reducible rfl)
    | (apply Up.same; (on_goal 1 => first | (with_reducible refine Up.loc ?_ (State.updPier_loc _ _ (Local.refl _))) | with_reducible apply State.answerTas_up | with_reducible apply State.stepTest_up | with_reducible apply State.keySeen_up); rotate_left; with_reducible rfl; with_reducible rfl; with_reducible rfl)

theorem State.keyUpdate_up {w : Prop} {ref s : State} (key : Nat) (hu : Up w ref s) : Up w ref (State.keyUpdate s key) := by
  unfold State.keyUpdate
  try dsimp only
  repeat' first
    | with_reducible assumption
    | (with_reducible refine Up.loc ?_ (State.wakePier_loc _ (Local.refl _)))
    | with_reducible apply State.refuseKeys_up
    | with_reducible apply State.keyApply_up
    | with_reducible apply up_ite
    | split
    | (apply Up.same (by assumption) <;> with_reducible rfl)
    | (apply Up.same; (on_goal 1 => first | (with_reducible refine Up.loc ?_ (State.wakePier_loc _ (Local.refl _))) | with_reducible apply State.refuseKeys_up | with_reducible apply State.keyApply_up); rotate_left; with_reducible rfl; with_reducible rfl; with_reducible rfl)

theorem State.keyDeferredStep_up {w : Prop} {ref s : State} (key : Nat) (hu : Up w ref s) : Up w ref (State.keyDeferredStep s key) := by
  unfold State.keyDeferredStep
  try dsimp only
  repeat' first
    | with_reducible assumption
    | with_reducible apply State.keyApply_up
    | with_reducible apply up_ite
    | split
    | (apply Up.same (by assumption) <;> with_reducible rfl)
    | (apply Up.same; (on_goal 1 => first | with_reducible apply State.keyApply_up); rotate_left; with_reducible rfl; with_reducible rfl; with_reducible rfl)

theorem State.keyTas_up {w : Prop} {ref s : State} (key : Nat) (hu : Up w ref s) : Up w ref (State.keyTas s key) := by
  unfold State.keyTas
  try dsimp only
  repeat' first
    | with_reducible assumption
    | with_reducible apply State.keyApply_up
    | with_reducible apply up_ite
    | split
    | (apply Up.same (by assumption) <;> with_reducible rfl)
    | (apply Up.same; (on_goal 1 => first | with_reducible apply State.keyApply_up); rotate_left; with_reducible rfl; with_reducible rfl; with_reducible rfl)

/-! ## Regs -/

theorem State.regRead_up {w : Prop} {ref s : State} (p : PierId) (off : Nat) (hu : Up w ref s) : Up w ref (State.regRead s p off).2 := by
  unfold State.regRead
  try dsimp only
  repeat' first
    | with_reducible assumption
    | with_reducible apply up_ite
    | split
    | (apply Up.same (by assumption) <;> with_reducible rfl)

theorem State.regWrite_up {w : Prop} {ref s : State} (p : PierId) (off v : Nat) (hu : Up w ref s) : Up w ref (State.regWrite s p off v) := by
  unfold State.regWrite
  dsimp only
  split
  · exact up_ite _ (hu.loc (State.updPier_loc _ _ (Local.refl _))) (up_ite _ (hu.loc (State.updPier_loc _ _ (Local.refl _))) hu)
  · exact up_ite _ (State.updSkov_up _ _ (fun _ => rfl) hu) hu
  · exact hu

theorem State.hostTrip_up {w : Prop} {ref s : State} (src : Source) (p : PierId) (hu : Up w ref s) : Up w ref (State.hostTrip s src p) := by
  unfold State.hostTrip
  try dsimp only
  repeat' first
    | with_reducible assumption
    | (with_reducible refine Up.loc ?_ (State.sendPackets_loc _ _ (Local.refl _)))
    | with_reducible apply State.backTo_up
    | with_reducible apply up_ite
    | split
    | (apply Up.same (by assumption) <;> with_reducible rfl)
    | (apply Up.same; (on_goal 1 => first | (with_reducible refine Up.loc ?_ (State.sendPackets_loc _ _ (Local.refl _))) | with_reducible apply State.backTo_up); rotate_left; with_reducible rfl; with_reducible rfl; with_reducible rfl)

theorem State.keyStore_up {w : Prop} {ref s : State} (src : Source) (p : PierId) (key kind v : Nat) (hu : Up w ref s) : Up w ref (State.keyStore s src p key kind v) := by
  unfold State.keyStore
  try dsimp only
  repeat' first
    | with_reducible assumption
    | (with_reducible refine Up.loc ?_ (State.sendKey_loc _ _ _ _ _ (Local.refl _)))
    | with_reducible apply State.answerWrite_up
    | with_reducible apply up_ite
    | split
    | (apply Up.same (by assumption) <;> with_reducible rfl)
    | (apply Up.same; (on_goal 1 => first | (with_reducible refine Up.loc ?_ (State.sendKey_loc _ _ _ _ _ (Local.refl _))) | with_reducible apply State.answerWrite_up); rotate_left; with_reducible rfl; with_reducible rfl; with_reducible rfl)

theorem State.keyWrite_up {w : Prop} {ref s : State} (src : Source) (p : PierId) (off : Nat) (data : List Byte) (hu : Up w ref s) : Up w ref (State.keyWrite s src p off data) := by
  unfold State.keyWrite
  try dsimp only
  repeat' first
    | with_reducible assumption
    | (with_reducible refine Up.loc ?_ (State.bumpPier_loc _ _ _ (Local.refl _)))
    | with_reducible apply State.answerWrite_up
    | with_reducible apply State.hostTrip_up
    | with_reducible apply State.keyStore_up
    | with_reducible apply up_ite
    | split
    | (apply Up.same (by assumption) <;> with_reducible rfl)
    | (apply Up.same; (on_goal 1 => first | (with_reducible refine Up.loc ?_ (State.bumpPier_loc _ _ _ (Local.refl _))) | with_reducible apply State.answerWrite_up | with_reducible apply State.hostTrip_up | with_reducible apply State.keyStore_up); rotate_left; with_reducible rfl; with_reducible rfl; with_reducible rfl)

theorem State.keyRead_up {w : Prop} {ref s : State} (src : Source) (p : PierId) (off n : Nat) (hu : Up w ref s) : Up w ref (State.keyRead s src p off n) := by
  unfold State.keyRead
  try dsimp only
  repeat' first
    | with_reducible assumption
    | (with_reducible refine Up.loc ?_ (State.bumpPier_loc _ _ _ (Local.refl _)))
    | (with_reducible refine Up.loc ?_ (State.sendKey_loc _ _ _ _ _ (Local.refl _)))
    | with_reducible apply State.answerRead_up
    | with_reducible apply State.hostTrip_up
    | with_reducible apply up_ite
    | split
    | (apply Up.same (by assumption) <;> with_reducible rfl)
    | (apply Up.same; (on_goal 1 => first | (with_reducible refine Up.loc ?_ (State.bumpPier_loc _ _ _ (Local.refl _))) | (with_reducible refine Up.loc ?_ (State.sendKey_loc _ _ _ _ _ (Local.refl _))) | with_reducible apply State.answerRead_up | with_reducible apply State.hostTrip_up); rotate_left; with_reducible rfl; with_reducible rfl; with_reducible rfl)

theorem State.lineWrite_up {w : Prop} {ref s : State} (src : Source) (p : PierId) (off : Nat) (data : List Byte) (hu : Up w ref s) : Up w ref (State.lineWrite s src p off data) := by
  unfold State.lineWrite
  try dsimp only
  repeat' first
    | with_reducible assumption
    | (with_reducible refine Up.loc ?_ (State.updPier_loc _ _ (Local.refl _)))
    | (with_reducible refine Up.loc ?_ (State.bumpPier_loc _ _ _ (Local.refl _)))
    | with_reducible apply State.answerWrite_up
    | with_reducible apply State.submitHeader_up
    | with_reducible apply up_ite
    | split
    | (apply Up.same (by assumption) <;> with_reducible rfl)
    | (apply Up.same; (on_goal 1 => first | (with_reducible refine Up.loc ?_ (State.updPier_loc _ _ (Local.refl _))) | (with_reducible refine Up.loc ?_ (State.bumpPier_loc _ _ _ (Local.refl _))) | with_reducible apply State.answerWrite_up | with_reducible apply State.submitHeader_up); rotate_left; with_reducible rfl; with_reducible rfl; with_reducible rfl)

theorem State.lineTake_up {w : Prop} {ref s : State} (p : PierId) (off n : Nat) (hu : Up w ref s) : Up w ref (State.lineTake s p off n).2 := by
  unfold State.lineTake
  try dsimp only
  repeat' first
    | with_reducible assumption
    | (with_reducible refine Up.loc ?_ (State.updPier_loc _ _ (Local.refl _)))
    | with_reducible apply up_foldl
    | (intro _ _ _; dsimp only)
    | intro _ _ _
    | with_reducible apply up_ite
    | split
    | (apply Up.same (by assumption) <;> with_reducible rfl)
    | (apply Up.same; (on_goal 1 => first | (with_reducible refine Up.loc ?_ (State.updPier_loc _ _ (Local.refl _)))); rotate_left; with_reducible rfl; with_reducible rfl; with_reducible rfl)

theorem State.lineRead_up {w : Prop} {ref s : State} (src : Source) (p : PierId) (off n : Nat) (hu : Up w ref s) : Up w ref (State.lineRead s src p off n) := by
  unfold State.lineRead
  try dsimp only
  repeat' first
    | with_reducible assumption
    | with_reducible apply State.answerRead_up
    | with_reducible apply State.lineTake_up
    | with_reducible apply up_ite
    | split
    | (apply Up.same (by assumption) <;> with_reducible rfl)
    | (apply Up.same; (on_goal 1 => first | with_reducible apply State.answerRead_up | with_reducible apply State.lineTake_up); rotate_left; with_reducible rfl; with_reducible rfl; with_reducible rfl)

theorem State.controlWrite_up {w : Prop} {ref s : State} (src : Source) (p : PierId) (off : Nat) (data : List Byte) (hu : Up w ref s) : Up w ref (State.controlWrite s src p off data) := by
  unfold State.controlWrite
  try dsimp only
  repeat' first
    | with_reducible assumption
    | (with_reducible refine Up.loc ?_ (State.wakePier_loc _ (Local.refl _)))
    | with_reducible apply State.answerWrite_up
    | with_reducible apply State.regWrite_up
    | with_reducible apply State.hostTrip_up
    | with_reducible apply State.keyWrite_up
    | with_reducible apply State.lineWrite_up
    | with_reducible apply up_ite
    | split
    | (apply Up.same (by assumption) <;> with_reducible rfl)
    | (apply Up.same; (on_goal 1 => first | (with_reducible refine Up.loc ?_ (State.wakePier_loc _ (Local.refl _))) | with_reducible apply State.answerWrite_up | with_reducible apply State.regWrite_up | with_reducible apply State.hostTrip_up | with_reducible apply State.keyWrite_up | with_reducible apply State.lineWrite_up); rotate_left; with_reducible rfl; with_reducible rfl; with_reducible rfl)

theorem State.controlRead_up {w : Prop} {ref s : State} (src : Source) (p : PierId) (off n : Nat) (hu : Up w ref s) : Up w ref (State.controlRead s src p off n) := by
  unfold State.controlRead
  try dsimp only
  repeat' first
    | with_reducible assumption
    | (with_reducible refine Up.loc ?_ (State.wakePier_loc _ (Local.refl _)))
    | with_reducible apply State.answerRead_up
    | with_reducible apply State.regRead_up
    | with_reducible apply State.hostTrip_up
    | with_reducible apply State.keyRead_up
    | with_reducible apply State.lineRead_up
    | with_reducible apply up_ite
    | split
    | (apply Up.same (by assumption) <;> with_reducible rfl)
    | (apply Up.same; (on_goal 1 => first | (with_reducible refine Up.loc ?_ (State.wakePier_loc _ (Local.refl _))) | with_reducible apply State.answerRead_up | with_reducible apply State.regRead_up | with_reducible apply State.hostTrip_up | with_reducible apply State.keyRead_up | with_reducible apply State.lineRead_up); rotate_left; with_reducible rfl; with_reducible rfl; with_reducible rfl)

theorem State.hostRead_up {w : Prop} {ref s : State} (port : PortId) (a n : Nat) (hu : Up w ref s) : Up w ref (s.hostRead port a n).2.2 := by
  unfold State.hostRead
  try dsimp only
  repeat' first
    | with_reducible assumption
    | (with_reducible refine Up.loc ?_ (State.bumpPier_loc _ _ _ (Local.refl _)))
    | (with_reducible refine Up.loc ?_ (State.demandLines_loc _ _ (Local.refl _)))
    | (with_reducible refine Up.loc ?_ (State.wakePier_loc _ (Local.refl _)))
    | (with_reducible refine Up.loc ?_ (State.sendPackets_loc _ _ (Local.refl _)))
    | with_reducible apply up_ite
    | split
    | (apply Up.same (by assumption) <;> with_reducible rfl)
    | (apply Up.same; (on_goal 1 => first | (with_reducible refine Up.loc ?_ (State.bumpPier_loc _ _ _ (Local.refl _))) | (with_reducible refine Up.loc ?_ (State.demandLines_loc _ _ (Local.refl _))) | (with_reducible refine Up.loc ?_ (State.wakePier_loc _ (Local.refl _))) | (with_reducible refine Up.loc ?_ (State.sendPackets_loc _ _ (Local.refl _)))); rotate_left; with_reducible rfl; with_reducible rfl; with_reducible rfl)

theorem State.hostWrite_up {w : Prop} {ref s : State} (port : PortId) (a : Nat) (data : List Byte) (hu : Up w ref s) : Up w ref (State.hostWrite s port a data).2 := by
  unfold State.hostWrite
  try dsimp only
  repeat' first
    | with_reducible assumption
    | (with_reducible refine Up.loc ?_ (State.writeBytes_loc _ _ _ (Local.refl _)))
    | (with_reducible refine Up.loc ?_ (State.wakePier_loc _ (Local.refl _)))
    | (with_reducible refine Up.loc ?_ (State.sendPackets_loc _ _ (Local.refl _)))
    | with_reducible apply up_ite
    | split
    | (apply Up.same (by assumption) <;> with_reducible rfl)
    | (apply Up.same; (on_goal 1 => first | (with_reducible refine Up.loc ?_ (State.writeBytes_loc _ _ _ (Local.refl _))) | (with_reducible refine Up.loc ?_ (State.wakePier_loc _ (Local.refl _))) | (with_reducible refine Up.loc ?_ (State.sendPackets_loc _ _ (Local.refl _)))); rotate_left; with_reducible rfl; with_reducible rfl; with_reducible rfl)

theorem State.accessRead_up {w : Prop} {ref s : State} (src : Source) (a n : Nat) (hu : Up w ref s) : Up w ref (State.accessRead s src a n) := by
  unfold State.accessRead
  split
  · exact State.controlRead_up _ _ _ _ hu
  · exact State.answerRead_up _ _ _ _ (State.hostRead_up _ _ _ hu)

theorem State.accessWrite_up {w : Prop} {ref s : State} (src : Source) (a : Nat) (data : List Byte) (hu : Up w ref s) : Up w ref (State.accessWrite s src a data) := by
  unfold State.accessWrite
  try dsimp only
  repeat' first
    | with_reducible assumption
    | with_reducible apply State.answerWrite_up
    | with_reducible apply State.controlWrite_up
    | with_reducible apply State.hostWrite_up
    | with_reducible apply up_ite
    | split
    | (apply Up.same (by assumption) <;> with_reducible rfl)
    | (apply Up.same; (on_goal 1 => first | with_reducible apply State.answerWrite_up | with_reducible apply State.controlWrite_up | with_reducible apply State.hostWrite_up); rotate_left; with_reducible rfl; with_reducible rfl; with_reducible rfl)

theorem State.hold_up {w : Prop} {ref s : State} (p : PortId) (m : List Byte) (hu : Up w ref s) : Up w ref (State.hold s p m) := by
  unfold State.hold
  try dsimp only
  repeat' first
    | with_reducible assumption
    | with_reducible apply State.updPort_up

/-! ## Memory -/

theorem State.poisonLine_up {w : Prop} {ref s : State} (line : Nat) (hu : Up w ref s) : Up w ref (State.poisonLine s line) := by
  unfold State.poisonLine
  try dsimp only
  repeat' first
    | with_reducible assumption
    | with_reducible apply up_ite
    | split
    | (apply Up.same (by assumption) <;> with_reducible rfl)

theorem State.eccCount_up {w : Prop} {ref s : State} (x : EccPlace) (sp : Spot) (corrected : Bool) (hu : Up w ref s) : Up w ref (State.eccCount s x sp corrected) := by
  unfold State.eccCount
  try dsimp only
  repeat' first
    | with_reducible assumption
    | (with_reducible refine Up.loc ?_ (State.bump_loc _ _ (Local.refl _)))
    | (with_reducible refine Up.loc ?_ (State.bumpPier_loc _ _ _ (Local.refl _)))
    | with_reducible apply up_ite
    | split

theorem State.eccRecord_up {w : Prop} {ref s : State} (sp : Spot) (cls severity response d0 d1 : Nat) (hu : Up w ref s) : Up w ref (State.eccRecord s sp cls severity response d0 d1) := by
  unfold State.eccRecord
  try dsimp only
  repeat' first
    | with_reducible assumption
    | (with_reducible refine Up.loc ?_ (State.log_loc _ (Local.refl _)))

theorem State.onSpare_up {w : Prop} {ref s : State} (p : PierId) (line : Nat) (hu : Up w ref s) : Up w ref (State.onSpare s p line).2 := by
  unfold State.onSpare
  try dsimp only
  repeat' first
    | with_reducible assumption
    | with_reducible apply up_ite
    | split
    | (apply Up.same (by assumption) <;> with_reducible rfl)

theorem State.rewriteLine_up {w : Prop} {ref s : State} (x : EccPlace) (hu : Up w ref s) : Up w ref (State.rewriteLine s x) := by
  unfold State.rewriteLine
  try dsimp only
  repeat' first
    | with_reducible assumption
    | (with_reducible refine Up.loc ?_ (State.updPier_loc _ _ (Local.refl _)))
    | with_reducible apply up_ite
    | split
    | (apply Up.same (by assumption) <;> with_reducible rfl)
    | (apply Up.same; (on_goal 1 => first | (with_reducible refine Up.loc ?_ (State.updPier_loc _ _ (Local.refl _)))); rotate_left; with_reducible rfl; with_reducible rfl; with_reducible rfl)

theorem State.soundSpot_up {w : Prop} {ref s : State} (sp : Spot) (hu : Up w ref s) : Up w ref (State.soundSpot s sp) := by
  unfold State.soundSpot
  try dsimp only
  repeat' first
    | with_reducible assumption
    | (with_reducible refine Up.loc ?_ (State.startSounding_loc _ _ (Local.refl _)))
    | with_reducible apply up_ite
    | split
    | (apply Up.same (by assumption) <;> with_reducible rfl)
    | (apply Up.same; (on_goal 1 => first | (with_reducible refine Up.loc ?_ (State.startSounding_loc _ _ (Local.refl _)))); rotate_left; with_reducible rfl; with_reducible rfl; with_reducible rfl)

theorem State.firstResponse_up {w : Prop} {ref s : State} (x : EccPlace) (hu : Up w ref s) : Up w ref (s.firstResponse x).s := by
  unfold State.firstResponse
  cases x
  case gddr p a =>
    dsimp only
    have h1 : Up w ref (s.onSpare p (lineOf a)).2 := State.onSpare_up _ _ hu
    split
    · exact h1
    · exact State.poisonLine_up _ h1
  case checkLine p ch line => exact up_foldl _ (fun _ _ ht => up_ite _ (State.poisonLine_up _ ht) ht) _ (hu.loc (State.takeFree_loc (Local.refl _)))
  case accumulator c q =>
    dsimp only
    have h1 : Up w ref s.takeFree.2 := hu.loc (State.takeFree_loc (Local.refl _))
    split
    · exact up_ite _ (State.updHead_up _ _ h1) h1
    · exact h1
  case mortar p a =>
    dsimp only
    split
    · split
      · exact State.poisonLine_up _ hu
      · (dsimp only; exact hu.loc (State.updPier_loc _ _ (Local.refl _)))
    · exact hu
  case masonL2 p k a d => cases d; exact hu; exact State.poisonLine_up _ hu
  case cxlPoison q a => exact up_ite _ (State.poisonLine_up _ hu) hu
  all_goals first
    | exact hu
    | (dsimp only; exact hu.loc (State.updPier_loc _ _ (Local.refl _)))

theorem State.codeword_up {w : Prop} {ref s : State} (x : EccPlace) (res : EccResult) (hu : Up w ref s) : Up w ref (State.codeword s x res) := by
  unfold State.codeword
  refine up_ite _ hu ?_
  dsimp only
  split
  · exact hu
  · exact State.soundSpot_up _ (State.eccRecord_up _ _ _ _ _ _ (hu.loc (State.updPier_loc _ _ (Local.refl _))))
  · exact State.firstResponse_up _ hu
  · exact State.soundSpot_up _ (State.eccRecord_up _ _ _ _ _ _ (State.eccCount_up _ _ _ (State.rewriteLine_up _ hu)))
  · exact State.soundSpot_up _ (State.eccRecord_up _ _ _ _ _ _ (State.firstResponse_up _ (State.eccCount_up _ _ _ hu)))

theorem State.repointPoison_up {w : Prop} {ref s : State} (x : EccPlace) (res : EccResult) (hu : Up w ref s) : Up w ref (State.repointPoison s x res) := by
  unfold State.repointPoison
  try dsimp only
  repeat' first
    | with_reducible assumption
    | with_reducible apply State.poisonLine_up
    | with_reducible apply up_ite
    | split
    | (apply Up.same (by assumption) <;> with_reducible rfl)
    | (apply Up.same; (on_goal 1 => first | with_reducible apply State.poisonLine_up); rotate_left; with_reducible rfl; with_reducible rfl; with_reducible rfl)

theorem State.repointLine_up {w : Prop} {ref s : State} (u : RepointUnit) (line : Nat) (res : EccResult) (hu : Up w ref s) : Up w ref (State.repointLine s u line res) := by
  unfold State.repointLine
  try dsimp only
  repeat' first
    | with_reducible assumption
    | (with_reducible refine Up.loc ?_ (State.updPier_loc _ _ (Local.refl _)))
    | (with_reducible refine Up.loc ?_ (State.bumpPier_loc _ _ _ (Local.refl _)))
    | with_reducible apply State.codeword_up
    | with_reducible apply State.repointPoison_up
    | with_reducible apply up_ite
    | split
    | (apply Up.same (by assumption) <;> with_reducible rfl)
    | (apply Up.same; (on_goal 1 => first | (with_reducible refine Up.loc ?_ (State.updPier_loc _ _ (Local.refl _))) | (with_reducible refine Up.loc ?_ (State.bumpPier_loc _ _ _ (Local.refl _))) | with_reducible apply State.codeword_up | with_reducible apply State.repointPoison_up); rotate_left; with_reducible rfl; with_reducible rfl; with_reducible rfl)

theorem State.retrain_up {w : Prop} {ref s : State} (p : PierId) (ch : Nat) (hu : Up w ref s) : Up w ref (State.retrain s p ch) := by
  unfold State.retrain
  try dsimp only
  repeat' first
    | with_reducible assumption
    | (with_reducible refine Up.loc ?_ (State.updPier_loc _ _ (Local.refl _)))
    | with_reducible apply up_ite

theorem State.runAhead_up {w : Prop} {ref s : State} (p : PierId) (a : Nat) (codeError : Bool) (hu : Up w ref s) : Up w ref (State.runAhead s p a codeError) := by
  unfold State.runAhead
  try dsimp only
  repeat' first
    | with_reducible assumption
    | (with_reducible refine Up.loc ?_ (State.updPier_loc _ _ (Local.refl _)))
    | (with_reducible refine Up.loc ?_ (State.bumpPier_loc _ _ _ (Local.refl _)))
    | with_reducible apply up_ite
    | split

theorem State.copyDone_up {w : Prop} {ref s : State} (p : PierId) (hu : Up w ref s) : Up w ref (State.copyDone s p) := by
  unfold State.copyDone
  try dsimp only
  repeat' first
    | with_reducible assumption
    | (with_reducible refine Up.loc ?_ (State.updPier_loc _ _ (Local.refl _)))
    | with_reducible apply State.mapEvent_up
    | with_reducible apply State.evacuationSwitch_up
    | with_reducible apply up_ite

theorem State.cxlArrive_up {w : Prop} {ref s : State} (q : Fin 8) (dev : CxlDevice) (hu : Up w ref s) : Up w ref (State.cxlArrive s q dev) := by
  unfold State.cxlArrive
  try dsimp only
  repeat' first
    | with_reducible assumption
    | with_reducible apply State.updCxl_up
    | (with_reducible refine Up.loc ?_ (State.log_loc _ (Local.refl _)))
    | (with_reducible refine Up.loc ?_ (State.event_loc _ _ (Local.refl _)))
    | with_reducible apply up_ite

theorem State.cxlGone_up {w : Prop} {ref s : State} (q : Fin 8) (surprise : Bool) (hu : Up w ref s) : Up w ref (State.cxlGone s q surprise) := by
  unfold State.cxlGone
  try dsimp only
  repeat' first
    | with_reducible assumption
    | with_reducible apply State.updCxl_up
    | (with_reducible refine Up.loc ?_ (State.event_loc _ _ (Local.refl _)))

theorem State.drainPort_up {w : Prop} {ref : State} (q : Fin 8) : ∀ (n : Nat) {s : State}, Up w ref s → Up w ref (State.drainPort q n s)
  | 0, _, hu => hu
  | n + 1, _, hu => up_ite _ hu (State.drainPort_up q n ((State.placeEntry_up _ hu).loc (State.drainDefer_loc _ (Local.refl _))))

theorem State.dropWindow_up {w : Prop} {ref s : State} (q : Fin 8) (hu : Up w ref s) : Up w ref (State.dropWindow s q) := by
  unfold State.dropWindow
  try dsimp only
  repeat' first
    | with_reducible assumption
    | (with_reducible refine Up.loc ?_ (State.updPier_loc _ _ (Local.refl _)))

theorem State.cxlOrderly_up {w : Prop} {ref s : State} (q : Fin 8) (hu : Up w ref s) : Up w ref (State.cxlOrderly s q) := by
  unfold State.cxlOrderly
  refine up_ite _ hu ?_
  dsimp only
  refine State.cxlGone_up _ _ (State.dropWindow_up _ ?_)
  exact up_foldl _ (fun _ _ ht => ht.loc (State.ckptDrained_loc _ (Local.refl _))) _ (State.drainPort_up _ _ hu)

theorem State.cxlSurprise_up {w : Prop} {ref s : State} (q : Fin 8) (hu : Up w ref s) : Up w ref (State.cxlSurprise s q) := by
  unfold State.cxlSurprise
  refine up_ite _ hu ?_
  dsimp only
  refine up_foldl _ (fun _ _ ht => ht.loc (State.drainAbandon_loc _ (Local.refl _))) _ ?_
  refine Up.loc ?_ (State.dropEntries_loc _ _ (Local.refl _))
  refine State.cxlGone_up _ _ (State.dropWindow_up _ ?_)
  refine Up.loc ?_ (State.bump_loc _ _ (Local.refl _))
  refine hu.loc ((Local.refl s).setMem _ fun hm => ?_)
  generalize List.filter (fun x => x.dirty) (s.windowLines q) = ls
  generalize s.mem = m at hm
  induction ls generalizing m with
  | nil => exact hm
  | cons l ls ih =>
    refine ih _ ?_
    dsimp only
    split
    · exact memWrite_wf _ _ hm
    · exact hm

/-! ## Resilience -/

theorem State.recordOf_up {w : Prop} {ref s : State} (u : SUnit) (physical cls severity response d0 d1 : Nat) (hu : Up w ref s) : Up w ref (State.recordOf s u physical cls severity response d0 d1) := by
  unfold State.recordOf
  try dsimp only
  repeat' first
    | with_reducible assumption
    | (with_reducible refine Up.loc ?_ (State.log_loc _ (Local.refl _)))
    | with_reducible apply up_ite
    | split
    | (apply Up.same (by assumption) <;> with_reducible rfl)
    | (apply Up.same; (on_goal 1 => first | (with_reducible refine Up.loc ?_ (State.log_loc _ (Local.refl _)))); rotate_left; with_reducible rfl; with_reducible rfl; with_reducible rfl)

theorem State.unitRecord_up {w : Prop} {ref s : State} (u : SUnit) (cls severity response d0 d1 : Nat) (hu : Up w ref s) : Up w ref (State.unitRecord s u cls severity response d0 d1) := by
  unfold State.unitRecord
  try dsimp only
  repeat' first
    | with_reducible assumption
    | (with_reducible refine Up.loc ?_ (State.log_loc _ (Local.refl _)))

theorem State.marginTrip_up {w : Prop} {ref s : State} (u : SUnit) (monitor code : Nat) (hu : Up w ref s) : Up w ref (State.marginTrip s u monitor code) := by
  unfold State.marginTrip
  try dsimp only
  repeat' first
    | with_reducible assumption
    | (with_reducible refine Up.loc ?_ (State.bumpPier_loc _ _ _ (Local.refl _)))
    | (with_reducible refine Up.loc ?_ (State.startSounding_loc _ _ (Local.refl _)))
    | with_reducible apply State.unitRecord_up
    | with_reducible apply up_ite
    | split
    | (apply Up.same (by assumption) <;> with_reducible rfl)
    | (apply Up.same; (on_goal 1 => first | (with_reducible refine Up.loc ?_ (State.bumpPier_loc _ _ _ (Local.refl _))) | (with_reducible refine Up.loc ?_ (State.startSounding_loc _ _ (Local.refl _))) | with_reducible apply State.unitRecord_up); rotate_left; with_reducible rfl; with_reducible rfl; with_reducible rfl)

theorem State.noteOld_up {w : Prop} {ref s : State} (u : SUnit) (old : Nat) (hu : Up w ref s) : Up w ref (State.noteOld s u old) := by
  unfold State.noteOld
  try dsimp only
  repeat' first
    | with_reducible assumption
    | with_reducible apply up_ite
    | split
    | (apply Up.same (by assumption) <;> with_reducible rfl)

theorem State.exchange_up {w : Prop} {ref s : State} (u : SUnit) (hu : Up w ref s) : Up w ref (State.exchange s u) := by
  unfold State.exchange
  try dsimp only
  repeat' first
    | with_reducible assumption
    | (with_reducible refine Up.loc ?_ (State.updPier_loc _ _ (Local.refl _)))
    | with_reducible apply State.spareRecord_up
    | with_reducible apply State.noteRepair_up
    | with_reducible apply State.noteOld_up
    | with_reducible apply up_ite
    | split
    | (apply Up.same (by assumption) <;> with_reducible rfl)
    | (apply Up.same; (on_goal 1 => first | (with_reducible refine Up.loc ?_ (State.updPier_loc _ _ (Local.refl _))) | with_reducible apply State.spareRecord_up | with_reducible apply State.noteRepair_up | with_reducible apply State.noteOld_up); rotate_left; with_reducible rfl; with_reducible rfl; with_reducible rfl)

theorem State.takeover_up {w : Prop} {ref s : State} (u : SUnit) (hu : Up w ref s) : Up w ref (State.takeover s u) := by
  unfold State.takeover
  try dsimp only
  repeat' first
    | with_reducible assumption
    | with_reducible apply State.exchange_up
    | with_reducible apply up_ite
    | split

theorem State.masonExchange_up {w : Prop} {ref s : State} (p : PierId) (k : Fin 8) (hu : Up w ref s) : Up w ref (State.masonExchange s p k) := by
  unfold State.masonExchange
  try dsimp only
  repeat' first
    | with_reducible assumption
    | with_reducible apply State.exchange_up
    | with_reducible apply up_ite
    | split

theorem State.third_up {w : Prop} {ref s : State} (x : Sounding) (hu : Up w ref s) : Up w ref (State.third s x).2 := by
  unfold State.third
  try dsimp only
  repeat' first
    | with_reducible assumption
    | (with_reducible refine Up.loc ?_ (State.updPier_loc _ _ (Local.refl _)))
    | with_reducible apply up_ite
    | split

theorem State.hardError_up {w : Prop} {ref s : State} (p : PierId) (ch line : Nat) (hu : Up w ref s) : Up w ref (State.hardError s p ch line).2 := by
  unfold State.hardError
  try dsimp only
  repeat' first
    | with_reducible assumption
    | (with_reducible refine Up.loc ?_ (State.updPier_loc _ _ (Local.refl _)))

theorem State.endHeaders_up {w : Prop} {ref s : State} (need : Header → Bool) (p : PierId) (hu : Up w ref s) : Up w ref (State.endHeaders s need p) := by
  unfold State.endHeaders
  try dsimp only
  repeat' first
    | with_reducible assumption
    | (with_reducible refine Up.loc ?_ (State.updPier_loc _ _ (Local.refl _)))
    | with_reducible apply State.failHeader_up
    | with_reducible apply State.abandonShares_up
    | with_reducible apply up_foldl
    | (intro _ _ _; dsimp only)
    | intro _ _ _
    | with_reducible apply up_ite
    | split
    | (apply Up.same (by assumption) <;> with_reducible rfl)
    | (apply Up.same; (on_goal 1 => first | (with_reducible refine Up.loc ?_ (State.updPier_loc _ _ (Local.refl _))) | with_reducible apply State.failHeader_up | with_reducible apply State.abandonShares_up); rotate_left; with_reducible rfl; with_reducible rfl; with_reducible rfl)

theorem State.resetWork_up {w : Prop} {ref s : State} (u : SUnit) (hu : Up w ref s) : Up w ref (State.resetWork s u) := by
  unfold State.resetWork
  try dsimp only
  repeat' first
    | with_reducible assumption
    | (with_reducible refine Up.loc ?_ (State.updPier_loc _ _ (Local.refl _)))
    | with_reducible apply State.endHeaders_up
    | with_reducible apply up_ite
    | split
    | (apply Up.same (by assumption) <;> with_reducible rfl)
    | (apply Up.same; (on_goal 1 => first | (with_reducible refine Up.loc ?_ (State.updPier_loc _ _ (Local.refl _))) | with_reducible apply State.endHeaders_up); rotate_left; with_reducible rfl; with_reducible rfl; with_reducible rfl)

theorem State.partnered_up {w : Prop} {ref s : State} (u : SUnit) (hu : Up w ref s) : Up w ref (State.partnered s u) := by
  unfold State.partnered
  try dsimp only
  repeat' first
    | with_reducible assumption
    | (with_reducible refine Up.loc ?_ (State.updPier_loc _ _ (Local.refl _)))
    | with_reducible apply State.degrade_up
    | with_reducible apply up_ite
    | split

theorem State.sequencerTakeover_up {w : Prop} {ref s : State} (hu : Up w ref s) : Up w ref (State.sequencerTakeover s) := by
  unfold State.sequencerTakeover
  try dsimp only
  repeat' first
    | with_reducible assumption
    | (with_reducible refine Up.loc ?_ (State.event_loc _ _ (Local.refl _)))
    | with_reducible apply up_ite
    | split
    | (apply Up.same (by assumption) <;> with_reducible rfl)
    | (apply Up.same; (on_goal 1 => first | (with_reducible refine Up.loc ?_ (State.event_loc _ _ (Local.refl _)))); rotate_left; with_reducible rfl; with_reducible rfl; with_reducible rfl)

theorem State.degradeQuoin_up {w : Prop} {ref s : State} (q : QuoinId) (hu : Up w ref s) : Up w ref (State.degradeQuoin s q) := by
  unfold State.degradeQuoin
  try dsimp only
  repeat' first
    | with_reducible assumption
    | with_reducible apply up_ite
    | split
    | (apply Up.same (by assumption) <;> with_reducible rfl)

theorem State.lasting_up {w : Prop} {ref s : State} (u : SUnit) (old : Option Nat) (res : SoundTest) (hu : Up w ref s) : Up w ref (State.lasting s u old res).2 := by
  unfold State.lasting
  try dsimp only
  repeat' first
    | with_reducible assumption
    | (with_reducible refine Up.loc ?_ (State.updPier_loc _ _ (Local.refl _)))
    | (with_reducible refine Up.loc ?_ (State.updQuoin_loc _ _ (Local.refl _)))
    | (with_reducible refine Up.loc ?_ (State.takeFree_loc  (Local.refl _)))
    | with_reducible apply State.spareRecord_up
    | with_reducible apply State.degrade_up
    | with_reducible apply State.channelLasting_up
    | with_reducible apply State.exchange_up
    | with_reducible apply State.resetWork_up
    | with_reducible apply State.partnered_up
    | with_reducible apply State.sequencerTakeover_up
    | with_reducible apply State.degradeQuoin_up
    | with_reducible apply up_ite
    | split
    | (apply Up.same (by assumption) <;> with_reducible rfl)
    | (apply Up.same; (on_goal 1 => first | (with_reducible refine Up.loc ?_ (State.updPier_loc _ _ (Local.refl _))) | (with_reducible refine Up.loc ?_ (State.updQuoin_loc _ _ (Local.refl _))) | (with_reducible refine Up.loc ?_ (State.takeFree_loc  (Local.refl _))) | with_reducible apply State.spareRecord_up | with_reducible apply State.degrade_up | with_reducible apply State.channelLasting_up | with_reducible apply State.exchange_up | with_reducible apply State.resetWork_up | with_reducible apply State.partnered_up | with_reducible apply State.sequencerTakeover_up | with_reducible apply State.degradeQuoin_up); rotate_left; with_reducible rfl; with_reducible rfl; with_reducible rfl)

theorem State.transient_up {w : Prop} {ref s : State} (u : SUnit) (old : Option Nat) (hu : Up w ref s) : Up w ref (State.transient s u old) := by
  unfold State.transient
  try dsimp only
  repeat' first
    | with_reducible assumption
    | (with_reducible refine Up.loc ?_ (State.updPier_loc _ _ (Local.refl _)))
    | with_reducible apply up_ite
    | split

theorem State.endTest_up {w : Prop} {ref s : State} (u : SUnit) (hu : Up w ref s) : Up w ref (State.endTest s u) := by
  unfold State.endTest
  try dsimp only
  repeat' first
    | with_reducible assumption
    | (with_reducible refine Up.loc ?_ (State.updPier_loc _ _ (Local.refl _)))
    | (with_reducible refine Up.loc ?_ (State.updQuoin_loc _ _ (Local.refl _)))
    | (with_reducible refine Up.loc ?_ (State.regionSounded_loc _ _ _ (Local.refl _)))
    | with_reducible apply up_ite
    | split
    | (apply Up.same (by assumption) <;> with_reducible rfl)
    | (apply Up.same; (on_goal 1 => first | (with_reducible refine Up.loc ?_ (State.updPier_loc _ _ (Local.refl _))) | (with_reducible refine Up.loc ?_ (State.updQuoin_loc _ _ (Local.refl _))) | (with_reducible refine Up.loc ?_ (State.regionSounded_loc _ _ _ (Local.refl _)))); rotate_left; with_reducible rfl; with_reducible rfl; with_reducible rfl)

theorem State.judge_up {w : Prop} {ref s : State} (x : Sounding) (res : SoundTest) (hu : Up w ref s) : Up w ref (s.judge x res).s := by
  unfold State.judge
  have h1 := State.third_up x hu
  dsimp only
  split
  all_goals first
    | exact h1
    | (dsimp only; refine foldl_keeps (fun a : Bool × State => Up w ref a.2) _ (fun _ _ hb => ?_) _ h1; exact State.hardError_up _ _ _ hb)

theorem State.soundingResult_up {w : Prop} {ref s : State} (u : SUnit) (res : SoundTest) (hu : Up w ref s) : Up w ref (State.soundingResult s u res) := by
  unfold State.soundingResult
  extract_lets s1 mine
  have h1 : Up w ref s1 := up_ite _ (State.takeover_up _ hu) hu
  clear_value s1
  split
  · exact h1
  · extract_lets v
    have h3 : Up w ref v.s := State.judge_up _ _ (h1.same rfl rfl rfl)
    clear_value v
    dsimp only
    split
    · exact State.endTest_up _ (State.recordOf_up _ _ _ _ _ _ _ (Up.loc (State.lasting_up _ _ _ h3) (State.bump_loc _ _ (Local.refl _))))
    · have h4 := fun y => State.transient_up u y h3
      exact State.endTest_up _ (Up.loc (up_ite _ (State.recordOf_up _ _ _ _ _ _ _ (h4 _)) (State.recordOf_up _ _ _ _ _ _ _ (h4 _)))
        (State.bump_loc _ _ (Local.refl _)))

theorem State.dropSpare_up {w : Prop} {ref s : State} (u : SUnit) (hu : Up w ref s) : Up w ref (State.dropSpare s u) := by
  unfold State.dropSpare
  try dsimp only
  repeat' first
    | with_reducible assumption
    | (with_reducible refine Up.loc ?_ (State.updPier_loc _ _ (Local.refl _)))
    | with_reducible apply State.mapEvent_up
    | with_reducible apply up_ite
    | split
    | (apply Up.same (by assumption) <;> with_reducible rfl)
    | (apply Up.same; (on_goal 1 => first | (with_reducible refine Up.loc ?_ (State.updPier_loc _ _ (Local.refl _))) | with_reducible apply State.mapEvent_up); rotate_left; with_reducible rfl; with_reducible rfl; with_reducible rfl)

theorem State.routineSounding_up {w : Prop} {ref s : State} (u : SUnit) (failed : Bool) (hu : Up w ref s) : Up w ref (State.routineSounding s u failed) := by
  unfold State.routineSounding
  try dsimp only
  repeat' first
    | with_reducible assumption
    | (with_reducible refine Up.loc ?_ (State.updPier_loc _ _ (Local.refl _)))
    | (with_reducible refine Up.loc ?_ (State.bump_loc _ _ (Local.refl _)))
    | with_reducible apply State.recordOf_up
    | with_reducible apply State.dropSpare_up
    | with_reducible apply up_ite
    | split
    | (apply Up.same (by assumption) <;> with_reducible rfl)
    | (apply Up.same; (on_goal 1 => first | (with_reducible refine Up.loc ?_ (State.updPier_loc _ _ (Local.refl _))) | (with_reducible refine Up.loc ?_ (State.bump_loc _ _ (Local.refl _))) | with_reducible apply State.recordOf_up | with_reducible apply State.dropSpare_up); rotate_left; with_reducible rfl; with_reducible rfl; with_reducible rfl)

theorem State.soundGroups_up {w : Prop} {ref s : State} (link : Fin 48) (dir : Bool) (gs : List Nat) (hu : Up w ref s) : Up w ref (State.soundGroups s link dir gs) := by
  unfold State.soundGroups
  have h : Up w ref (gs.foldl (fun (s : State) g => s.startSounding (laneUnit link dir g) false) s) :=
    up_foldl _ (fun _ _ ht => ht.loc (State.startSounding_loc _ _ (Local.refl _))) _ hu
  exact up_ite _ h (h.same rfl rfl rfl)

theorem State.keepCycle_up {w : Prop} {ref s : State} (i : Nat) (cycle : List Byte) (hu : Up w ref s) : Up w ref (State.keepCycle s i cycle) := by
  unfold State.keepCycle
  try dsimp only
  repeat' first
    | with_reducible assumption
    | with_reducible apply up_ite
    | split
    | (apply Up.same (by assumption) <;> with_reducible rfl)

theorem State.releaseLink_keeps {w : Prop} {ref s : State} (i : Nat) (retired : Bool) (hu : Up w ref s) : Up w ref (s.releaseLink i retired) :=
  hu.loc (State.releaseLink_loc _ _ (Local.refl _))

theorem State.linkCycle_up {w : Prop} {ref s : State} (link : Fin 48) (dir : Bool) (cycle side : List Byte) (hu : Up w ref s) : Up w ref (State.linkCycle s link dir cycle side) := by
  unfold State.linkCycle
  refine up_ite _ hu ?_
  extract_lets i now s1 s2 fails groups key log often s3 s4 gs
  have h1 : Up w ref s1 := hu.same rfl rfl rfl
  have h2 : Up w ref s2 := up_ite _ (h1.loc (State.bumpPier_loc _ _ _ (Local.refl _))) h1
  have h3 : Up w ref s3 := h2.same rfl rfl rfl
  have h4 : Up w ref s4 := State.soundGroups_up _ _ _ h3
  clear_value s4 s3 s2 s1
  have h0 : Up w ref { s1 with linkFails := s1.linkFails.set i 0 } := h1.same rfl rfl rfl
  exact up_ite _ (Up.loc (State.keepCycle_up _ _ h0) (State.releaseLink_loc _ _ (Local.refl _)))
    (up_ite _ h4 (State.soundGroups_up _ _ _ (State.unitRecord_up _ _ _ _ _ _ h4)))

theorem State.retireLink_up {w : Prop} {ref s : State} (link : Fin 48) (hu : Up w ref s) : Up w ref (State.retireLink s link) := by
  unfold State.retireLink
  try dsimp only
  repeat' first
    | with_reducible assumption
    | (with_reducible refine Up.loc ?_ (State.releaseLink_loc _ _ (Local.refl _)))
    | with_reducible apply up_ite
    | split
    | (apply Up.same (by assumption) <;> with_reducible rfl)
    | (apply Up.same; (on_goal 1 => first | (with_reducible refine Up.loc ?_ (State.releaseLink_loc _ _ (Local.refl _)))); rotate_left; with_reducible rfl; with_reducible rfl; with_reducible rfl)

theorem State.laneTest_up {w : Prop} {ref s : State} (link : Fin 48) (dir : Bool) (group : Fin 10) (failed : Nat) (hu : Up w ref s) :
    Up w ref (State.laneTest s link dir group failed) := by
  unfold State.laneTest
  extract_lets u s1 lanes k used wh s2 s3
  split
  · exact hu
  · extract_lets time s4 s5
    have h0 : Up w ref { s with sounding := s.sounding.eraseP (fun y => y.unit == u) } := hu.same rfl rfl rfl
    have h1 : Up w ref s1 := h0.loc (State.bumpPier_loc _ _ _ (Local.refl _))
    clear_value s1
    have h2 : Up w ref s2 := up_foldl _ (fun _ _ ht => ht.loc (State.log_loc _ (Local.refl _))) _ h1
    clear_value s2
    have h3 : Up w ref s3 := h2.same rfl rfl rfl
    clear_value s3
    have h4 : Up w ref s4 := up_ite _ (State.unitRecord_up _ _ _ _ _ _ (h3.loc (State.bump_loc _ _ (Local.refl _))))
      (h3.loc (State.bump_loc _ _ (Local.refl _)))
    clear_value s4
    have h5 : Up w ref s5 := up_ite _ h4 (State.unitRecord_up _ _ _ _ _ _ h4)
    clear_value s5
    exact up_ite _ (State.noteRepair_up _ _ _ (State.retireLink_up _ (State.unitRecord_up _ _ _ _ _ _ h4)))
      (up_ite _ h5 (h5.same rfl rfl rfl))

theorem State.logWrite_up {w : Prop} {ref s : State} (hu : Up w ref s) : Up w ref (State.logWrite s) := by
  unfold State.logWrite
  split
  · exact hu
  · rename_i t r rest hr
    refine up_ite _ hu (up_foldl _ (fun _ _ ht => up_ite _ (State.send_up _ _ ht) ht) _ ?_)
    exact hu.of rfl id (fun hl => by rw [hr] at hl; exact Nat.le_of_succ_le hl)

/-! ## Plumbline -/

theorem State.leaveKeys_up {w : Prop} {ref s : State} (p : PortId) (hu : Up w ref s) : Up w ref (State.leaveKeys s p) := by
  unfold State.leaveKeys
  try dsimp only
  repeat' first
    | with_reducible assumption
    | (with_reducible refine Up.loc ?_ (State.updPier_loc _ _ (Local.refl _)))
    | with_reducible apply State.leave_up
    | with_reducible apply up_foldl
    | (intro _ _ _; dsimp only)
    | intro _ _ _
    | with_reducible apply up_ite
    | split
    | (apply Up.same (by assumption) <;> with_reducible rfl)
    | (apply Up.same; (on_goal 1 => first | (with_reducible refine Up.loc ?_ (State.updPier_loc _ _ (Local.refl _))) | with_reducible apply State.leave_up); rotate_left; with_reducible rfl; with_reducible rfl; with_reducible rfl)

theorem State.depart_up {w : Prop} {ref s : State} (p : PortId) (hu : Up w ref s) : Up w ref (State.depart s p) := by
  unfold State.depart
  extract_lets s1 lost subs queues reqs session s2
  have h1 : Up w ref s1 := State.leaveKeys_up _ hu
  clear_value s1
  have h2 : Up w ref s2 := h1.same rfl rfl rfl
  exact Up.loc (State.updPort_up _ _ h2) (State.bump_loc _ _ (Local.refl _))

theorem State.linkDown_up {w : Prop} {ref s : State} (p : PortId) (hu : Up w ref s) : Up w ref (State.linkDown s p) := by
  unfold State.linkDown
  try dsimp only
  repeat' first
    | with_reducible assumption
    | with_reducible apply State.updPort_up
    | (with_reducible refine Up.loc ?_ (State.event_loc _ _ (Local.refl _)))
    | with_reducible apply State.depart_up
    | with_reducible apply up_ite

theorem State.hostDeparture_up {w : Prop} {ref s : State} (p : PortId) (hu : Up w ref s) : Up w ref (State.hostDeparture s p) := by
  unfold State.hostDeparture
  try dsimp only
  repeat' first
    | with_reducible assumption
    | with_reducible apply State.updPort_up
    | with_reducible apply State.linkDown_up

theorem State.hostIdent_up {w : Prop} {ref s : State} (p : PortId) (payload : List Byte) (hu : Up w ref s) : Up w ref (State.hostIdent s p payload) := by
  unfold State.hostIdent
  try dsimp only
  repeat' first
    | with_reducible assumption
    | with_reducible apply State.updPort_up
    | with_reducible apply up_ite

theorem State.hostCredit_up {w : Prop} {ref s : State} (p : PortId) (payload : List Byte) (hu : Up w ref s) : Up w ref (State.hostCredit s p payload) := by
  unfold State.hostCredit
  try dsimp only
  repeat' first
    | with_reducible assumption
    | with_reducible apply State.updPort_up
    | with_reducible apply up_ite

theorem State.giveCredit_up {w : Prop} {ref s : State} (p : PortId) (q : Nat) (hu : Up w ref s) : Up w ref (State.giveCredit s p q) := by
  unfold State.giveCredit
  try dsimp only
  repeat' first
    | with_reducible assumption
    | with_reducible apply State.updPort_up
    | with_reducible apply State.sendFree_up
    | with_reducible apply up_ite

theorem State.retrained_up {w : Prop} {ref s : State} (p : PortId) (f : Port → Port) (hu : Up w ref s) : Up w ref (State.retrained s p f) := by
  unfold State.retrained
  dsimp only
  split
  · exact State.updPort_up _ _ hu
  · exact (State.updPort_up _ _ hu).loc (State.log_loc _ (Local.refl _))

theorem State.tryPair_up {w : Prop} {ref s : State} (p : PortId) (n : Nat) (hu : Up w ref s) : Up w ref (State.tryPair s p n) := by
  unfold State.tryPair
  try dsimp only
  repeat' first
    | with_reducible assumption
    | with_reducible apply State.updPort_up
    | with_reducible apply State.linkDown_up
    | with_reducible apply up_ite
    | split
    | (apply Up.same (by assumption) <;> with_reducible rfl)
    | (apply Up.same; (on_goal 1 => first | with_reducible apply State.updPort_up | with_reducible apply State.linkDown_up); rotate_left; with_reducible rfl; with_reducible rfl; with_reducible rfl)

theorem State.train_up {w : Prop} {ref s : State} (p : PortId) (out : TrainOutcome) (hu : Up w ref s) : Up w ref (State.train s p out) := by
  unfold State.train
  try dsimp only
  repeat' first
    | with_reducible assumption
    | with_reducible apply State.updPort_up
    | with_reducible apply State.sendFree_up
    | with_reducible apply State.linkDown_up
    | with_reducible apply State.retrained_up
    | with_reducible apply State.tryPair_up
    | with_reducible apply up_ite
    | split
    | (apply Up.same (by assumption) <;> with_reducible rfl)
    | (apply Up.same; (on_goal 1 => first | with_reducible apply State.updPort_up | with_reducible apply State.sendFree_up | with_reducible apply State.linkDown_up | with_reducible apply State.retrained_up | with_reducible apply State.tryPair_up); rotate_left; with_reducible rfl; with_reducible rfl; with_reducible rfl)

theorem State.quickRetrain_up {w : Prop} {ref s : State} (p : PortId) (got : Option (List (List Byte))) (hu : Up w ref s) : Up w ref (State.quickRetrain s p got) := by
  unfold State.quickRetrain
  try dsimp only
  repeat' first
    | with_reducible assumption
    | with_reducible apply State.updPort_up
    | with_reducible apply State.retrained_up
    | with_reducible apply up_ite
    | split
    | (apply Up.same (by assumption) <;> with_reducible rfl)
    | (apply Up.same; (on_goal 1 => first | with_reducible apply State.updPort_up | with_reducible apply State.retrained_up); rotate_left; with_reducible rfl; with_reducible rfl; with_reducible rfl)

theorem State.replayTimeout_up {w : Prop} {ref s : State} (p : PortId) (hu : Up w ref s) : Up w ref (State.replayTimeout s p) := by
  unfold State.replayTimeout
  try dsimp only
  repeat' first
    | with_reducible assumption
    | with_reducible apply State.updPort_up
    | with_reducible apply up_ite

theorem State.ackTimer_up {w : Prop} {ref s : State} (p : PortId) (hu : Up w ref s) : Up w ref (State.ackTimer s p) := by
  unfold State.ackTimer
  try dsimp only
  repeat' first
    | with_reducible assumption
    | with_reducible apply State.updPort_up
    | with_reducible apply up_ite

theorem State.idleFlit_up {w : Prop} {ref s : State} (p : PortId) (hu : Up w ref s) : Up w ref (State.idleFlit s p) := by
  unfold State.idleFlit
  try dsimp only
  repeat' first
    | with_reducible assumption
    | with_reducible apply State.updPort_up
    | with_reducible apply up_ite

/-! ## Admission -/

theorem State.deliverTo_up {w : Prop} {ref s : State} (r : Request) (bs : List Byte) (hu : Up w ref s) : Up w ref (State.deliverTo s r bs) := by
  unfold State.deliverTo
  try dsimp only
  repeat' first
    | with_reducible assumption
    | (with_reducible refine Up.loc ?_ (State.bump_loc _ _ (Local.refl _)))
    | with_reducible apply State.send_up
    | with_reducible apply up_ite

theorem State.decide_up {w : Prop} {ref s : State} (r : Request) (bs : List Byte) (hu : Up w ref s) : Up w ref (State.decide s r bs) := by
  unfold State.decide
  try dsimp only
  repeat' first
    | with_reducible assumption
    | with_reducible apply State.deliverTo_up
    | with_reducible apply up_ite
    | split
    | (apply Up.same (by assumption) <;> with_reducible rfl)
    | (apply Up.same; (on_goal 1 => first | with_reducible apply State.deliverTo_up); rotate_left; with_reducible rfl; with_reducible rfl; with_reducible rfl)

theorem State.submitProgram_up {w : Prop} {ref : State} (number : Nat) :
    ∀ (n addr : Nat) {s : State}, Up w ref s → Up w ref (s.submitProgram number addr n)
  | 0, _, _, hu => hu
  | n + 1, addr, _, hu => by
    unfold State.submitProgram
    exact State.submitProgram_up number n _ (State.submitHeader_up _ _ _ _ hu)

theorem State.admitRequest_up {w : Prop} {ref s : State} (p : PortId) (tag : Nat) (payload : List Byte) (hu : Up w ref s) : Up w ref (State.admitRequest s p tag payload) := by
  unfold State.admitRequest
  lift_lets
  intro wd c id ta
  generalize s.judgeRequest p c (fld wd 31 6 != 0) ta = jr
  obtain ⟨code, promised⟩ := jr
  dsimp -zeta only
  lift_lets
  intro reg k number count commit r s1 line s2 s3
  have h1 : Up w ref s1 := hu.same rfl rfl rfl
  have h2 : Up w ref s2 := by
    dsimp only [s2]
    split
    · exact h1.loc (State.writeBytes_loc _ _ _ (State.wakePier_loc _ (Local.refl _)))
    · exact h1
  have h3 : Up w ref s3 := State.send_up _ _ (h2.loc (State.bump_loc _ _ (Local.refl _)))
  clear_value s3 s2 s1
  exact up_ite _ (State.send_up _ _ (hu.loc (State.bump_loc _ _ (Local.refl _)))) (State.submitProgram_up _ _ _ h3)

theorem State.forget_up {w : Prop} {ref s : State} (n : Nat) (hu : Up w ref s) : Up w ref (State.forget s n) := by
  unfold State.forget
  try dsimp only
  repeat' first
    | with_reducible assumption
    | with_reducible apply up_ite
    | split
    | (apply Up.same (by assumption) <;> with_reducible rfl)

theorem State.afterNotice_up {w : Prop} {ref s : State} (r : Request) (t : Nat) (hu : Up w ref s) : Up w ref (State.afterNotice s r t) := by
  unfold State.afterNotice
  try dsimp only
  repeat' first
    | with_reducible assumption
    | with_reducible apply State.decide_up
    | with_reducible apply State.forget_up
    | with_reducible apply up_ite
    | split
    | (apply Up.same (by assumption) <;> with_reducible rfl)
    | (apply Up.same; (on_goal 1 => first | with_reducible apply State.decide_up | with_reducible apply State.forget_up); rotate_left; with_reducible rfl; with_reducible rfl; with_reducible rfl)

theorem State.programCompletion_up {w : Prop} {ref s : State} (n : Nat) (hu : Up w ref s) : Up w ref (State.programCompletion s n) := by
  unfold State.programCompletion
  try dsimp only
  repeat' first
    | with_reducible assumption
    | (with_reducible refine Up.loc ?_ (State.bump_loc _ _ (Local.refl _)))
    | with_reducible apply State.decide_up
    | with_reducible apply State.forget_up
    | with_reducible apply State.afterNotice_up
    | with_reducible apply up_ite
    | split
    | (apply Up.same (by assumption) <;> with_reducible rfl)
    | (apply Up.same; (on_goal 1 => first | (with_reducible refine Up.loc ?_ (State.bump_loc _ _ (Local.refl _))) | with_reducible apply State.decide_up | with_reducible apply State.forget_up | with_reducible apply State.afterNotice_up); rotate_left; with_reducible rfl; with_reducible rfl; with_reducible rfl)

theorem State.notice_up {w : Prop} {ref s : State} (r : Request) (hu : Up w ref s) : Up w ref (State.notice s r) := by
  unfold State.notice
  dsimp only
  have h1 := State.decide_up r (lateBytes r) (hu.loc (State.bump_loc (plmbReg s.seqPort 0x70) 1 (Local.refl _)))
  split
  · exact State.afterNotice_up _ _ h1
  · exact up_ite _ (State.forget_up _ h1) (h1.same rfl rfl rfl)

theorem State.lateNotices_up {w : Prop} {ref s : State} (hu : Up w ref s) : Up w ref (State.lateNotices s) := by
  unfold State.lateNotices
  try dsimp only
  repeat' first
    | with_reducible assumption
    | with_reducible apply State.programCompletion_up
    | with_reducible apply State.notice_up
    | with_reducible apply up_foldl
    | (intro _ _ _; dsimp only)
    | intro _ _ _
    | with_reducible apply up_ite
    | split
    | (apply Up.same (by assumption) <;> with_reducible rfl)
    | (apply Up.same; (on_goal 1 => first | with_reducible apply State.programCompletion_up | with_reducible apply State.notice_up); rotate_left; with_reducible rfl; with_reducible rfl; with_reducible rfl)

/-! ## Messages -/

theorem State.takeRead_up {w : Prop} {ref s : State} (src : Source) (a n : Nat) (hu : Up w ref s) : Up w ref (State.takeRead s src a n) := by
  unfold State.takeRead
  try dsimp only
  repeat' first
    | with_reducible assumption
    | with_reducible apply State.answerRead_up
    | with_reducible apply State.accessRead_up
    | with_reducible apply up_ite
    | split
    | (apply Up.same (by assumption) <;> with_reducible rfl)
    | (apply Up.same; (on_goal 1 => first | with_reducible apply State.answerRead_up | with_reducible apply State.accessRead_up); rotate_left; with_reducible rfl; with_reducible rfl; with_reducible rfl)

theorem State.takeWrite_up {w : Prop} {ref s : State} (src : Source) (a : Nat) (data : List Byte) (hu : Up w ref s) : Up w ref (State.takeWrite s src a data) := by
  unfold State.takeWrite
  try dsimp only
  repeat' first
    | with_reducible assumption
    | with_reducible apply State.answerWrite_up
    | with_reducible apply State.accessWrite_up
    | with_reducible apply up_ite
    | split
    | (apply Up.same (by assumption) <;> with_reducible rfl)
    | (apply Up.same; (on_goal 1 => first | with_reducible apply State.answerWrite_up | with_reducible apply State.accessWrite_up); rotate_left; with_reducible rfl; with_reducible rfl; with_reducible rfl)

theorem State.takeSubmit_up {w : Prop} {ref s : State} (p : PortId) (tag : U32) (h : Header) (hu : Up w ref s) : Up w ref (State.takeSubmit s p tag h) := by
  unfold State.takeSubmit
  try dsimp only
  repeat' first
    | with_reducible assumption
    | with_reducible apply State.send_up
    | with_reducible apply State.badUnit_up
    | with_reducible apply State.submitHeader_up
    | with_reducible apply up_ite
    | split
    | (apply Up.same (by assumption) <;> with_reducible rfl)
    | (apply Up.same; (on_goal 1 => first | with_reducible apply State.send_up | with_reducible apply State.badUnit_up | with_reducible apply State.submitHeader_up); rotate_left; with_reducible rfl; with_reducible rfl; with_reducible rfl)

theorem State.takeWatch_up {w : Prop} {ref s : State} (p : PortId) (tag : U32) (payload : List Byte) (hu : Up w ref s) : Up w ref (State.takeWatch s p tag payload) := by
  unfold State.takeWatch
  try dsimp only
  repeat' first
    | with_reducible assumption
    | with_reducible apply State.updPort_up
    | with_reducible apply State.send_up
    | with_reducible apply up_ite
    | split

theorem State.pushPiece_up {w : Prop} {ref s : State} (port : PortId) (a n : Nat) (hu : Up w ref s) : Up w ref (s.pushPiece port a n).2.2 := by
  unfold State.pushPiece
  try dsimp only
  repeat' first
    | with_reducible assumption
    | (with_reducible refine Up.loc ?_ (State.bumpPier_loc _ _ _ (Local.refl _)))
    | (with_reducible refine Up.loc ?_ (State.wakePier_loc _ (Local.refl _)))
    | with_reducible apply State.keyTas_up
    | with_reducible apply State.regRead_up
    | with_reducible apply State.hostTrip_up
    | with_reducible apply State.lineTake_up
    | with_reducible apply State.hostRead_up
    | with_reducible apply up_ite
    | split
    | (apply Up.same (by assumption) <;> with_reducible rfl)
    | (apply Up.same; (on_goal 1 => first | (with_reducible refine Up.loc ?_ (State.bumpPier_loc _ _ _ (Local.refl _))) | (with_reducible refine Up.loc ?_ (State.wakePier_loc _ (Local.refl _))) | with_reducible apply State.keyTas_up | with_reducible apply State.regRead_up | with_reducible apply State.hostTrip_up | with_reducible apply State.lineTake_up | with_reducible apply State.hostRead_up); rotate_left; with_reducible rfl; with_reducible rfl; with_reducible rfl)

theorem State.push_up {w : Prop} {ref : State} (p : PortId) (wtag : Nat) :
    ∀ (k : Nat) {s : State} (a left worst : Nat), Up w ref s → Up w ref (State.push p wtag k s a left worst).2
  | 0, _, _, _, _, hu => hu
  | k + 1, s, a, left, worst, hu => by
    unfold State.push
    refine up_snd _ hu ?_
    dsimp only
    exact State.push_up p wtag k _ _ _ (State.send_up _ _ (State.pushPiece_up p a _ hu))

theorem State.watchMet_up {w : Prop} {ref s : State} (p : PortId) (wtag : Nat) (hu : Up w ref s) : Up w ref (State.watchMet s p wtag) := by
  unfold State.watchMet
  split
  · exact hu
  · exact State.send_up _ _ (State.push_up _ _ _ _ _ _ (State.updPort_up _ _ hu))

theorem State.takeAdmit_up {w : Prop} {ref s : State} (p : PortId) (tag : U32) (payload : List Byte) (hu : Up w ref s) : Up w ref (State.takeAdmit s p tag payload) := by
  unfold State.takeAdmit
  try dsimp only
  repeat' first
    | with_reducible assumption
    | with_reducible apply State.send_up
    | with_reducible apply up_ite
    | split
    | (apply Up.same (by assumption) <;> with_reducible rfl)
    | (apply Up.same; (on_goal 1 => first | with_reducible apply State.send_up); rotate_left; with_reducible rfl; with_reducible rfl; with_reducible rfl)

theorem State.take_up {w : Prop} {ref s : State} (p : PortId) (m : List Byte) (hu : Up w ref s) : Up w ref (State.take s p m) := by
  unfold State.take
  try dsimp only
  repeat' first
    | with_reducible assumption
    | with_reducible apply State.giveCredit_up
    | with_reducible apply State.takeRead_up
    | with_reducible apply State.takeWrite_up
    | with_reducible apply State.takeSubmit_up
    | with_reducible apply State.takeWatch_up
    | with_reducible apply State.takeAdmit_up
    | with_reducible apply up_ite
    | split
    | (apply Up.same (by assumption) <;> with_reducible rfl)
    | (apply Up.same; (on_goal 1 => first | with_reducible apply State.giveCredit_up | with_reducible apply State.takeRead_up | with_reducible apply State.takeWrite_up | with_reducible apply State.takeSubmit_up | with_reducible apply State.takeWatch_up | with_reducible apply State.takeAdmit_up); rotate_left; with_reducible rfl; with_reducible rfl; with_reducible rfl)

theorem State.takeDeparted_up {w : Prop} {ref s : State} (p : PortId) (m : List Byte) (hu : Up w ref s) : Up w ref (State.takeDeparted s p m) := by
  unfold State.takeDeparted
  try dsimp only
  repeat' first
    | with_reducible assumption
    | (with_reducible refine Up.loc ?_ (State.bump_loc _ _ (Local.refl _)))
    | with_reducible apply State.submitHeader_up
    | with_reducible apply State.takeRead_up
    | with_reducible apply State.takeWrite_up
    | with_reducible apply up_ite
    | split
    | (apply Up.same (by assumption) <;> with_reducible rfl)
    | (apply Up.same; (on_goal 1 => first | (with_reducible refine Up.loc ?_ (State.bump_loc _ _ (Local.refl _))) | with_reducible apply State.submitHeader_up | with_reducible apply State.takeRead_up | with_reducible apply State.takeWrite_up); rotate_left; with_reducible rfl; with_reducible rfl; with_reducible rfl)

theorem State.arrive_up {w : Prop} {ref s : State} (p : PortId) (m : List Byte) (hu : Up w ref s) : Up w ref (State.arrive s p m) := by
  unfold State.arrive
  try dsimp only
  repeat' first
    | with_reducible assumption
    | with_reducible apply State.hold_up
    | with_reducible apply State.take_up
    | with_reducible apply up_ite

theorem State.drainInbox_up {w : Prop} {ref s : State} (p : PortId) (hu : Up w ref s) : Up w ref (State.drainInbox s p) := by
  unfold State.drainInbox
  try dsimp only
  repeat' first
    | with_reducible assumption
    | with_reducible apply State.updPort_up
    | with_reducible apply State.take_up
    | with_reducible apply State.takeDeparted_up
    | with_reducible apply up_foldl
    | (intro _ _ _; dsimp only)
    | intro _ _ _
    | with_reducible apply up_ite

theorem State.drainInboxes_up {w : Prop} {ref s : State} (hu : Up w ref s) : Up w ref (State.drainInboxes s) := by
  unfold State.drainInboxes
  refine up_foldl _ (fun t p ht => ?_) _ hu
  have h1 := State.drainInbox_up p ht
  exact up_ite _ h1 (h1.same rfl rfl rfl)

theorem State.submissionEnqueue_up {w : Prop} {ref s : State} (q : QKey) (hu : Up w ref s) : Up w ref (State.submissionEnqueue s q) := by
  unfold State.submissionEnqueue
  try dsimp only
  repeat' first
    | with_reducible assumption
    | with_reducible apply State.enqueueWaiting_up
    | with_reducible apply State.drainInboxes_up
    | with_reducible apply up_ite
    | split
    | (apply Up.same (by assumption) <;> with_reducible rfl)
    | (apply Up.same; (on_goal 1 => first | with_reducible apply State.enqueueWaiting_up | with_reducible apply State.drainInboxes_up); rotate_left; with_reducible rfl; with_reducible rfl; with_reducible rfl)

theorem State.protocolError_up {w : Prop} {ref s : State} (p : PortId) (hu : Up w ref s) : Up w ref (State.protocolError s p) := by
  unfold State.protocolError
  try dsimp only
  repeat' first
    | with_reducible assumption
    | (with_reducible refine Up.loc ?_ (State.bump_loc _ _ (Local.refl _)))
    | with_reducible apply State.linkDown_up

theorem State.message_up {w : Prop} {ref s : State} (p : PortId) (m : List Byte) (hu : Up w ref s) : Up w ref (State.message s p m) := by
  unfold State.message
  try dsimp only
  repeat' first
    | with_reducible assumption
    | with_reducible apply State.arrive_up
    | with_reducible apply State.protocolError_up
    | with_reducible apply up_ite

theorem State.ownWdog_up {w : Prop} {ref s : State} (d : Bool) (data : List Byte) (hu : Up w ref s) : Up w ref (State.ownWdog s d data) := by
  unfold State.ownWdog
  refine up_ite _ hu (up_ite _ (State.answerWrite_up _ _ hu) (State.answerWrite_up _ _ (State.updSkov_up _ _ (fun _ => rfl) hu)))

theorem State.windowWrite_up {w : Prop} {ref s : State} (src : Source) (a : Nat) (data : List Byte) (ok : Window → Nat → Bool) (hu : Up w ref s) : Up w ref (State.windowWrite s src a data ok) := by
  unfold State.windowWrite
  try dsimp only
  repeat' first
    | with_reducible assumption
    | with_reducible apply State.accessWrite_up
    | with_reducible apply State.message_up
    | with_reducible apply State.ownWdog_up
    | with_reducible apply up_ite
    | split

theorem State.windowRead_up {w : Prop} {ref s : State} (src : Source) (a n : Nat) (ok : Window → Nat → Bool) (hu : Up w ref s) : Up w ref (State.windowRead s src a n ok) := by
  unfold State.windowRead
  try dsimp only
  repeat' first
    | with_reducible assumption
    | with_reducible apply State.accessRead_up
    | with_reducible apply State.message_up
    | with_reducible apply up_ite
    | split

theorem State.watchdogKick_up {w : Prop} {ref s : State} (src : Source) (addr : Nat) (data : List Byte) (hu : Up w ref s) : Up w ref (State.watchdogKick s src addr data) := by
  unfold State.watchdogKick
  try dsimp only
  repeat' first
    | with_reducible assumption
    | with_reducible apply State.windowWrite_up
    | with_reducible apply up_ite

/-! ## Failures -/

theorem State.stopDomain_up {w : Prop} {ref s : State} (d : Domain) (hu : Up w ref s) : Up w ref (State.stopDomain s d) := by
  unfold State.stopDomain
  try dsimp only
  repeat' first
    | with_reducible assumption
    | (with_reducible refine Up.loc ?_ (State.updPier_loc _ _ (Local.refl _)))
    | (with_reducible refine Up.loc ?_ (State.runChange_loc  (Local.refl _)))
    | (with_reducible refine Up.loc ?_ (State.startSounding_loc _ _ (Local.refl _)))
    | with_reducible apply State.refuseKeys_up
    | with_reducible apply State.cxlSurprise_up
    | with_reducible apply State.degradeQuoin_up
    | with_reducible apply State.dropSpare_up
    | with_reducible apply State.retireLink_up
    | with_reducible apply State.linkDown_up
    | with_reducible apply up_ite
    | split
    | (apply Up.same (by assumption) <;> with_reducible rfl)
    | (apply Up.same; (on_goal 1 => first | (with_reducible refine Up.loc ?_ (State.updPier_loc _ _ (Local.refl _))) | (with_reducible refine Up.loc ?_ (State.runChange_loc  (Local.refl _))) | (with_reducible refine Up.loc ?_ (State.startSounding_loc _ _ (Local.refl _))) | with_reducible apply State.refuseKeys_up | with_reducible apply State.cxlSurprise_up | with_reducible apply State.degradeQuoin_up | with_reducible apply State.dropSpare_up | with_reducible apply State.retireLink_up | with_reducible apply State.linkDown_up); rotate_left; with_reducible rfl; with_reducible rfl; with_reducible rfl)

theorem State.declareFailed_up {w : Prop} {ref s : State} (d : Domain) (crossing : Nat) (hu : Up w ref s) : Up w ref (State.declareFailed s d crossing) := by
  unfold State.declareFailed
  dsimp only
  have h1 : ∀ (c : Table) (rs : List Request) (r : Record), Up w ref
      { (s.bump (skovReg s.activeD 0x20) 1).log r with crossHeld := c, requests := rs } := fun c rs r =>
    Up.same (hu.loc (State.log_loc r (State.bump_loc (skovReg s.activeD 0x20) 1 (Local.refl _)))) rfl rfl rfl
  refine State.stopDomain_up _ ?_
  split
  · exact State.endHeaders_up _ _ ((h1 _ _ _).loc (State.updPier_loc _ _ (Local.refl _)))
  · exact h1 _ _ _

theorem State.domainFailed_up {w : Prop} {ref s : State} (d : Domain) (crossing : Nat) (hu : Up w ref s) : Up w ref (State.domainFailed s d crossing) := by
  unfold State.domainFailed
  try dsimp only
  repeat' first
    | with_reducible assumption
    | with_reducible apply State.declareFailed_up
    | with_reducible apply up_ite

theorem State.saveTimeout_up {w : Prop} {ref s : State} (p : PierId) (k : Fin 8) (hu : Up w ref s) : Up w ref (State.saveTimeout s p k) := by
  unfold State.saveTimeout
  try dsimp only
  repeat' first
    | with_reducible assumption
    | (with_reducible refine Up.loc ?_ (State.updPier_loc _ _ (Local.refl _)))
    | with_reducible apply State.exchange_up
    | with_reducible apply State.declareFailed_up
    | with_reducible apply up_ite
    | split

theorem State.masonDone_up {w : Prop} {ref s : State} (p : PierId) (k : Fin 8) (loaded : Option Nat) (fault : Nat) (hu : Up w ref s) : Up w ref (State.masonDone s p k loaded fault) := by
  unfold State.masonDone
  try dsimp only
  repeat' first
    | with_reducible assumption
    | (with_reducible refine Up.loc ?_ (State.updPier_loc _ _ (Local.refl _)))

theorem State.share_up {w : Prop} {ref s : State} (p : PierId) (line core : Nat) (hu : Up w ref s) : Up w ref (State.share s p line core) := by
  unfold State.share
  try dsimp only
  repeat' first
    | with_reducible assumption
    | (with_reducible refine Up.loc ?_ (State.updPier_loc _ _ (Local.refl _)))

theorem State.masonRead_up {w : Prop} {ref s : State} (p : PierId) (k : Fin 8) (a n fault : Nat) (hu : Up w ref s) : Up w ref (State.masonRead s p k a n fault).2 := by
  unfold State.masonRead
  try dsimp only
  repeat' first
    | with_reducible assumption
    | (with_reducible refine Up.loc ?_ (State.bumpPier_loc _ _ _ (Local.refl _)))
    | (with_reducible refine Up.loc ?_ (State.demandLines_loc _ _ (Local.refl _)))
    | with_reducible apply State.masonDone_up
    | with_reducible apply State.share_up
    | with_reducible apply up_foldl
    | (intro _ _ _; dsimp only)
    | intro _ _ _
    | with_reducible apply up_ite
    | split
    | (apply Up.same (by assumption) <;> with_reducible rfl)
    | (apply Up.same; (on_goal 1 => first | (with_reducible refine Up.loc ?_ (State.bumpPier_loc _ _ _ (Local.refl _))) | (with_reducible refine Up.loc ?_ (State.demandLines_loc _ _ (Local.refl _))) | with_reducible apply State.masonDone_up | with_reducible apply State.share_up); rotate_left; with_reducible rfl; with_reducible rfl; with_reducible rfl)

theorem State.reserve_up {w : Prop} {ref s : State} (p : PierId) (k : Fin 8) (r : Option Nat) (hu : Up w ref s) : Up w ref (State.reserve s p k r) := by
  unfold State.reserve
  try dsimp only
  repeat' first
    | with_reducible assumption
    | (with_reducible refine Up.loc ?_ (State.updPier_loc _ _ (Local.refl _)))
    | with_reducible apply up_ite
    | split
    | (apply Up.same (by assumption) <;> with_reducible rfl)
    | (apply Up.same; (on_goal 1 => first | (with_reducible refine Up.loc ?_ (State.updPier_loc _ _ (Local.refl _)))); rotate_left; with_reducible rfl; with_reducible rfl; with_reducible rfl)

theorem State.masonAtomic_up {w : Prop} {ref s : State} (p : PierId) (k : Fin 8) (op : Atomic) (a n : Nat) (data : List Byte) (hu : Up w ref s) : Up w ref (State.masonAtomic s p k op a n data) := by
  have hr : ∀ (f : Nat), Up w ref (s.masonRead p k a n f).2 := fun f => State.masonRead_up _ _ _ _ _ hu
  unfold State.masonAtomic
  dsimp only
  split
  · have := hr 1
    split <;> rename_i heq <;> rw [heq] at this
    · exact State.reserve_up _ _ _ (State.masonDone_up _ _ _ _ this)
    · exact this
  · have h1 : Up w ref (s.reserve p k none) := State.reserve_up _ _ _ hu
    exact up_ite _ (State.masonDone_up _ _ _ _ (h1.loc (State.writeBytes_loc _ _ _ (Local.refl _)))) (State.masonDone_up _ _ _ _ h1)
  · have := hr 2
    split <;> rename_i heq <;> rw [heq] at this
    · exact State.masonDone_up _ _ _ _ (this.loc (State.writeBytes_loc _ _ _ (Local.refl _)))
    · exact this

theorem State.masonAccess_up {w : Prop} {ref s : State} (p : PierId) (k : Fin 8) (op : MasonOp) (a n : Nat) (data : List Byte) (hu : Up w ref s) : Up w ref (State.masonAccess s p k op a n data) := by
  have hr : ∀ (f : Nat), Up w ref (s.masonRead p k a n f).2 := fun f => State.masonRead_up _ _ _ _ _ hu
  have hd : ∀ (f : Nat), Up w ref (s.masonDone p k none f) := fun f => State.masonDone_up _ _ _ _ hu
  unfold State.masonAccess
  dsimp only
  refine up_ite _ hu (up_ite _ (hd _) (up_ite _ hu ?_))
  split
  · exact up_ite _ (State.controlRead_up _ _ _ _ hu) (hd _)
  · exact up_ite _ (State.controlWrite_up _ _ _ _ hu) (hd _)
  · exact hd _
  · refine up_ite _ (hd _) ?_
    split
    · have := hr 1
      split <;> rename_i heq <;> rw [heq] at this
      · exact State.masonDone_up _ _ _ _ this
      · exact this
    · exact State.masonDone_up _ _ _ _ (hu.loc (State.writeBytes_loc _ _ _ (Local.refl _)))
    · have := hr 3
      split <;> rename_i heq <;> rw [heq] at this
      · exact State.masonDone_up _ _ _ _ this
      · exact this
    · exact State.masonAtomic_up _ _ _ _ _ _ hu




end Sys2Proof.Machine
end

