-- ==== Sys2Proof/Laws/Exec.lean ====
section
/-! SUPPORT. The relation `Up` of start-up, Skovlapers, management and flits, and `exec_up`: what every command keeps. -/

namespace Sys2Proof.Machine

/-! ## Security -/

theorem State.setFlash_up {w : Prop} {ref s : State} (hw : w) (dev : Bool) (cells : List Host.Cell) (erased : List Nat) (hu : Up w ref s) : Up w ref (s.setFlash dev cells erased) := by
  unfold State.setFlash
  have h1 : ∀ {t : State}, t.pending = s.pending → t.core = { s.core with flash0 := t.flash0, flash1 := t.flash1 } → t.mem = s.mem →
      t.held = s.held → Up w ref t := fun hp hc hm hh => by
    simp only [State.core, Core.mk.injEq] at hc
    obtain ⟨-, -, -, h4, h5, h6, h7⟩ := hc
    refine ⟨hp.trans hu.1, fun h => absurd hw h, fun hr => ?_⟩
    have hs := hu.3 hr
    simp only [Sound, State.skov, hm, hh, h4, h5, h6, h7] at hs ⊢
    exact hs
  exact up_ite _ (h1 rfl rfl rfl rfl) (h1 rfl rfl rfl rfl)

theorem State.flashErase_up {w : Prop} {ref s : State} (hw : w) (dev : Bool) (block : Nat) (hu : Up w ref s) : Up w ref (s.flashErase dev block) := by
  exact State.setFlash_up hw _ _ _ hu

theorem State.flashWrite_up {w : Prop} {ref s : State} (hw : w) (dev : Bool) (off : Nat) (bs : List Byte) (hu : Up w ref s) : Up w ref (s.flashWrite dev off bs) := by
  exact State.setFlash_up hw _ _ _ hu

/-! ## Image -/

theorem State.setFunc_up {w : Prop} {ref s : State} (n : Nat) (hn : n ≤ 6) (hu : Up w ref s) : Up w ref (s.setFunc n) := by
  unfold State.setFunc
  refine up_ite _ hu (Up.loc ?_ (State.event_loc _ _ (Local.refl _)))
  exact hu.func rfl ⟨rfl, rfl⟩ id rfl rfl rfl (fun _ => hn) id id

theorem State.noteStopping_up {w : Prop} {ref s : State} (hu : Up w ref s) : Up w ref (State.noteStopping s) := by
  unfold State.noteStopping
  try dsimp only
  repeat' first
    | with_reducible assumption
    | with_reducible apply up_ite
    | split
    | (apply Up.same (by assumption) <;> with_reducible rfl)

theorem State.cutPrograms_up {w : Prop} {ref s : State} (lost : Request → Bool) (hu : Up w ref s) : Up w ref (State.cutPrograms s lost) := by
  unfold State.cutPrograms
  try dsimp only
  repeat' first
    | with_reducible assumption
    | with_reducible apply up_ite
    | split
    | (apply Up.same (by assumption) <;> with_reducible rfl)

theorem State.pierUnpowered_up {w : Prop} {ref s : State} (p : PierId) (hu : Up w ref s) : Up w ref (State.pierUnpowered s p) := by
  unfold State.pierUnpowered
  try dsimp only
  repeat' first
    | with_reducible assumption
    | (with_reducible refine Up.loc ?_ (State.updPier_loc _ _ (Local.refl _)))
    | with_reducible apply State.mapEvent_up
    | with_reducible apply up_ite
    | split
    | (apply Up.same (by assumption) <;> with_reducible rfl)
    | (apply Up.same; (on_goal 1 => first | (with_reducible refine Up.loc ?_ (State.updPier_loc _ _ (Local.refl _))) | with_reducible apply State.mapEvent_up); rotate_left; with_reducible rfl; with_reducible rfl; with_reducible rfl)

theorem State.portUnpowered_up {w : Prop} {ref s : State} (p : PortId) (hu : Up w ref s) : Up w ref (State.portUnpowered s p) := by
  unfold State.portUnpowered
  lift_lets
  intro waiting reqs s1
  have h1 : Up w ref s1 := State.linkDown_up _ (State.updPort_up _ _ hu)
  clear_value s1
  have h2 : ∀ f : Port → Port, Up w ref { s1.updPort p f with requests := reqs } := fun f => (State.updPort_up p f h1).same rfl rfl rfl
  exact h2 _

theorem State.mainLost_up {w : Prop} {ref s : State} (hu : Up w ref s) : Up w ref (State.mainLost s) := by
  unfold State.mainLost
  lift_lets
  intro s1 s2 s3 w0 s4 s5
  have h1 : Up w ref s1 := up_foldl _ (fun _ _ ht => State.cxlSurprise_up _ ht) _ hu
  clear_value s1
  have h2 : Up w ref s2 := up_foldl _ (fun _ _ ht => State.portUnpowered_up _ ht) _ h1
  clear_value s2
  have h3 : Up w ref s3 := up_foldl _ (fun _ _ ht => State.pierUnpowered_up _ ht) _ h2
  clear_value s3
  have h4 : Up w ref s4 := up_foldl _ (fun _ _ ht => ht.loc (State.updQuoin_loc _ _ (Local.refl _))) _ h3
  clear_value s4
  have h5 : Up w ref s5 := State.cutPrograms_up _ h4
  clear_value s5
  intros
  exact h5.func rfl ⟨rfl, rfl⟩ (memFilter_wf _) rfl rfl rfl id (fun _ => Nat.zero_le _) (fun _ h => nomatch h)

theorem State.powerOff_up {w : Prop} {ref s : State} (trip : Option Nat) (cause : Nat) (hu : Up w ref s) : Up w ref (State.powerOff s trip cause) := by
  unfold State.powerOff
  extract_lets s1 s2 pw s3
  have h1 : Up w ref s1 := by
    cases trip with
    | some _ => exact State.noteStopping_up (State.setFunc_up _ (by decide) hu)
    | none => exact hu
  clear_value s1
  have h2 : Up w ref s2 := State.mainLost_up h1
  clear_value s2
  have h3 : Up w ref s3 := h2.func rfl ⟨rfl, rfl⟩ id rfl rfl rfl id id id
  clear_value s3
  exact Up.loc (State.setFunc_up _ (by decide) h3) (State.powerEvent_loc _ _ (Local.refl _))

theorem State.eachLoaded_up {w : Prop} {ref : State} (dev : Bool) (f : State → Section → Option State)
    (hf : ∀ t x u, Up w ref t → f t x = some u → Up w ref u) (xs : List Section) {s : State} (hu : Up w ref s) :
    Up w ref (s.eachLoaded dev xs f).2 := by
  unfold State.eachLoaded
  refine foldl_keeps (fun r : Nat × State => Up w ref r.2) _ (fun r x hr => ?_) xs hu
  split
  · exact hr
  · split
    · exact hr
    · split
      · rename_i he
        exact hf _ _ _ hr he
      · exact hr

theorem State.zeroFill_up {w : Prop} {ref s : State} (a n : Nat) (hu : Up w ref s) : Up w ref (State.zeroFill s a n) := by
  unfold State.zeroFill
  dsimp only
  refine up_foldl _ (fun _ _ ht => ht.loc (State.updPier_loc _ _ (Local.refl _))) _ ?_
  exact hu.func rfl ⟨rfl, rfl⟩ (memFilter_wf _) rfl rfl rfl id id id

theorem State.rawWrite_up {w : Prop} {ref s : State} (a : Nat) (bs : List Byte) (hu : Up w ref s) : Up w ref (State.rawWrite s a bs) := by
  unfold State.rawWrite
  dsimp only
  refine up_foldl _ (fun t l ht => ?_) _ (hu.func rfl ⟨rfl, rfl⟩ (memWrite_wf _ _) rfl rfl rfl id id id)
  split
  · exact ht.loc (State.updPier_loc _ _ (Local.refl _))
  · exact ht

theorem State.loadHeader_up {w : Prop} {ref s : State} (dev : Bool) (hu : Up w ref s) : Up w ref (State.loadHeader s dev) := by
  unfold State.loadHeader
  lift_lets
  intro word ctx w0 s1
  have h1 : Up w ref s1 := hu.func rfl ⟨rfl, rfl⟩ id rfl rfl rfl id (fun _ => by dsimp only [s1]; split <;> decide) id
  clear_value s1
  exact up_foldl _ (fun _ _ ht => State.updPort_up _ _ ht) _ h1

theorem State.setCheck_up {w : Prop} {ref s : State} (dev : Bool) (n : Nat) (hu : Up w ref s) : Up w ref (State.setCheck s dev n) := by
  unfold State.setCheck
  cases dev
  · exact hu.func rfl ⟨rfl, rfl⟩ id rfl rfl rfl id id id
  · exact hu.func rfl ⟨rfl, rfl⟩ id rfl rfl rfl id id id

theorem State.noImage_up {w : Prop} {ref s : State} (hu : Up w ref s) : Up w ref (State.noImage s) := by
  unfold State.noImage
  exact State.setFunc_up _ (by decide) (hu.func rfl ⟨rfl, rfl⟩ id rfl rfl rfl id (fun _ => Nat.zero_le _) id)

theorem State.startMasons_up {w : Prop} {ref s : State} (bs : List Byte) (hu : Up w ref s) : Up w ref (State.startMasons s bs) := by
  unfold State.startMasons
  try dsimp only
  repeat' first
    | with_reducible assumption
    | (with_reducible refine Up.loc ?_ (State.updPier_loc _ _ (Local.refl _)))
    | with_reducible apply up_foldl
    | (intro _ _ _; dsimp only)
    | intro _ _ _

theorem State.submitInitial_up {w : Prop} {ref s : State} (bs : List Byte) (hu : Up w ref s) : Up w ref (State.submitInitial s bs) := by
  unfold State.submitInitial
  try dsimp only
  repeat' first
    | with_reducible assumption
    | with_reducible apply State.submitHeader_up
    | with_reducible apply up_foldl
    | (intro _ _ _; dsimp only)
    | intro _ _ _

theorem State.eachSection_up {w : Prop} {ref s : State} (dev : Bool) (kind : Nat) (f : State → List Byte → State) (hf : ∀ t bs, Up w ref t → Up w ref (f t bs)) (hu : Up w ref s) : Up w ref (s.eachSection dev kind f) := by
  exact up_foldl _ (fun _ _ ht => up_ite _ (hf _ _ ht) ht) _ hu

theorem State.finishStart_up {w : Prop} {ref s : State} (hu : Up w ref s) : Up w ref (State.finishStart s) := by
  unfold State.finishStart
  lift_lets
  intro dev s1 s2 s3 s4 s5 s6
  have h1 : Up w ref s1 := up_foldl _ (fun _ _ ht => ht.loc (State.updPier_loc _ _ (Local.refl _))) _ hu
  clear_value s1
  have h2 : Up w ref s2 := up_foldl _ (fun _ _ ht => ht.loc (State.updPier_loc _ _ (Local.refl _))) _ h1
  clear_value s2
  have h3 : Up w ref s3 := up_foldl _ (fun _ _ ht => ht.loc (State.updQuoin_loc _ _ (Local.refl _))) _ h2
  clear_value s3
  have h4 : Up w ref s4 := State.cutPrograms_up _ h3
  clear_value s4
  have h5 : Up w ref s5 := h4.same rfl rfl rfl
  clear_value s5
  have h6 : Up w ref s6 := State.eachSection_up _ _ _ (fun _ _ ht => State.startMasons_up _ ht) h5
  clear_value s6
  exact State.eachSection_up _ _ _ (fun _ _ ht => State.submitInitial_up _ ht) (State.setFunc_up _ (by decide) h6)

theorem State.tryFinish_up {w : Prop} {ref s : State} (hu : Up w ref s) : Up w ref (State.tryFinish s) := by
  unfold State.tryFinish
  try dsimp only
  repeat' first
    | with_reducible assumption
    | with_reducible apply State.finishStart_up
    | with_reducible apply up_ite

theorem State.cxlTimeout_up {w : Prop} {ref s : State} (hu : Up w ref s) : Up w ref (State.cxlTimeout s) := by
  unfold State.cxlTimeout
  try dsimp only
  repeat' first
    | with_reducible assumption
    | (with_reducible refine Up.loc ?_ (State.event_loc _ _ (Local.refl _)))
    | with_reducible apply State.finishStart_up
    | with_reducible apply up_foldl
    | (intro _ _ _; dsimp only)
    | intro _ _ _
    | with_reducible apply up_ite

theorem State.powerPiers_up {w : Prop} {ref s : State} (hu : Up w ref s) : Up w ref (State.powerPiers s) := by
  unfold State.powerPiers
  try dsimp only
  repeat' first
    | with_reducible assumption
    | (with_reducible refine Up.loc ?_ (State.updPier_loc _ _ (Local.refl _)))
    | (with_reducible refine Up.loc ?_ (State.runChange_loc  (Local.refl _)))
    | with_reducible apply up_foldl
    | (intro _ _ _; dsimp only)
    | intro _ _ _
    | with_reducible apply up_ite
    | split
    | (apply Up.same (by assumption) <;> with_reducible rfl)
    | (apply Up.same; (on_goal 1 => first | (with_reducible refine Up.loc ?_ (State.updPier_loc _ _ (Local.refl _))) | (with_reducible refine Up.loc ?_ (State.runChange_loc  (Local.refl _)))); rotate_left; with_reducible rfl; with_reducible rfl; with_reducible rfl)

theorem up_bind {w : Prop} {r : State} {α : Type} (o : Option α) (f : α → Option State) (hf : ∀ a u, f a = some u → Up w r u)
    (u : State) (h : o.bind f = some u) : Up w r u := by
  cases o with
  | none => cases h
  | some a => exact hf a u h

theorem up_option_foldl {w : Prop} {r : State} {α : Type} (f : State → α → Option State)
    (hf : ∀ t a u, Up w r t → f t a = some u → Up w r u) (l : List α) : ∀ (o : Option State), (∀ t, o = some t → Up w r t) →
    ∀ u, l.foldl (fun (o : Option State) a => o.bind fun t => f t a) o = some u → Up w r u := by
  induction l with
  | nil => intro o ho u h; exact ho u h
  | cons a l ih =>
    intro o ho u h
    refine ih _ ?_ u h
    intro t ht
    cases o with
    | none => cases ht
    | some x => exact hf x a t (ho x rfl) ht

theorem up_some {w : Prop} {r s t : State} (h : Up w r s) (he : some s = some t) : Up w r t := Option.some.inj he ▸ h

theorem State.loadEntry_up {w : Prop} {ref s t : State} (p : PierId) (a v : Nat) (hu : Up w ref s) (h : s.loadEntry p a v = some t) :
    Up w ref t := by
  unfold State.loadEntry at h
  dsimp only at h
  split at h
  · split at h
    · exact up_some hu h
    · split at h
      · exact up_some (hu.loc (State.updQuoin_loc _ _ (Local.refl _))) h
      · cases h
  · obtain ⟨c, -, hc⟩ := Option.map_eq_some_iff.mp h
    exact hc ▸ hu.loc (State.updPier_loc _ _ (Local.refl _))

theorem State.loadRegs_up {w : Prop} {ref s t : State} (n : Nat) (bs : List Byte) (hu : Up w ref s) (h : s.loadRegs n bs = some t) :
    Up w ref t := by
  unfold State.loadRegs at h
  split at h
  · cases h
  · revert h
    generalize hl : List.range (bs.length / 16) = l
    have h1 : ∀ t, some s = some t → Up w ref t := fun t ht => up_some hu ht
    clear hl
    generalize some s = o at h1 ⊢
    induction l generalizing o with
    | nil => intro h; exact h1 _ h
    | cons i l ih =>
      intro h
      exact ih _ (up_option_foldl _ (fun t p u ht he => State.loadEntry_up p _ _ ht he) _ _ h1) h

theorem State.loadStep6_up {w : Prop} {ref s : State} (dev : Bool) (hu : Up w ref s) : Up w ref (s.loadStep6 dev).2 := by
  unfold State.loadStep6
  lift_lets
  intro s1 s2 s3
  have h1 : Up w ref s1 := up_foldl _ (fun _ _ ht => ht.loc (State.updPier_loc _ _ (Local.refl _))) _ hu
  clear_value s1
  have h2 : Up w ref s2 := up_foldl _ (fun _ _ ht => ht.loc (State.updQuoin_loc _ _ (Local.refl _))) _ h1
  clear_value s2
  have h3 : Up w ref s3 := h2.same rfl rfl rfl
  clear_value s3
  refine State.eachLoaded_up _ _ ?_ _ h3
  intro t x u ht he
  split at he
  · exact up_bind _ _ (fun bs u hb => State.loadRegs_up _ _ ht hb) _ he
  · split at he
    · refine up_bind _ _ (fun bs u hb => ?_) _ he
      split at hb
      · cases hb
      · have hp : ∀ l, Up w ref { t with promises := l } := fun l => ht.same rfl rfl rfl
        exact up_some (hp _) hb
    · exact up_some ht he

theorem State.loadStep8_up {w : Prop} {ref s : State} (dev : Bool) (hu : Up w ref s) : Up w ref (s.loadStep8 dev).2 := by
  unfold State.loadStep8
  refine State.eachLoaded_up _ _ ?_ _ hu
  intro t x u ht he
  split at he
  · refine up_bind _ _ (fun bs u hb => ?_) _ he
    split at hb
    · exact up_some (State.rawWrite_up _ _ ht) hb
    · cases hb
  · split at he
    · split at he
      · exact up_some (State.zeroFill_up _ _ ht) he
      · cases he
    · split at he
      · refine up_bind _ _ (fun bs u hb => ?_) _ he
        split at hb
        · exact up_some ht hb
        · cases hb
      · split at he
        · refine up_bind _ _ (fun bs u hb => ?_) _ he
          split at hb
          · exact up_some ht hb
          · cases hb
        · exact up_some ht he

theorem State.loadSlot_up {w : Prop} {ref s : State} (dev : Bool) (hu : Up w ref s) : Up w ref (s.loadSlot dev).2 := by
  unfold State.loadSlot
  have h6 := State.loadStep6_up dev hu
  have h8 := State.loadStep8_up dev h6
  dsimp only
  exact up_snd _ h6 (up_ite _ (State.loadHeader_up _ h8) h8)

theorem State.trySlots_up {w : Prop} {ref : State} (ds : List Bool) : ∀ {s : State}, Up w ref s → Up w ref (s.trySlots ds) := by
  induction ds with
  | nil => intro s hu; exact State.noImage_up hu
  | cons d ds ih =>
    intro s hu
    unfold State.trySlots
    have h := State.loadSlot_up d hu
    dsimp only
    exact up_ite _ (State.tryFinish_up h) (ih (State.setCheck_up _ _ h))

theorem State.startUp_up {w : Prop} {ref s : State} (sel : Nat) (hu : Up w ref s) : Up w ref (State.startUp s sel) := by
  unfold State.startUp
  extract_lets s1 s2 s3 s4
  have h0 : Up w ref { s with free := s.free + 1 } := hu.same rfl rfl rfl
  have h1 : Up w ref s1 := State.setFunc_up _ (by decide) h0
  clear_value s1
  have h2 : Up w ref s2 := State.setCheck_up _ _ h1
  clear_value s2
  have h3 : Up w ref s3 := State.setCheck_up _ _ h2
  clear_value s3
  exact State.trySlots_up _ (State.powerPiers_up h3)

theorem State.tryIdle_up {w : Prop} {ref s : State} (cause : Nat) (hu : Up w ref s) : Up w ref (State.tryIdle s cause) := by
  unfold State.tryIdle
  split
  · rename_i hc
    simp only [Bool.and_eq_true] at hc
    have h1 : Up w ref { s with power := { s.power with regulators := true } } :=
      hu.func rfl ⟨rfl, rfl⟩ id rfl rfl rfl id id (fun _ _ => by simp_all)
    exact State.startUp_up _ (h1.loc (State.powerEvent_loc _ _ (Local.refl _)))
  · exact hu

theorem State.mainUp_up {w : Prop} {ref s : State} (hu : Up w ref s) : Up w ref (State.mainUp s) := by
  exact State.tryIdle_up _ (hu.func rfl ⟨rfl, rfl⟩ id rfl rfl rfl id id id)

theorem State.supplyBad_up {w : Prop} {ref s : State} (hu : Up w ref s) : Up w ref (State.supplyBad s) := by
  unfold State.supplyBad
  try dsimp only
  repeat' first
    | with_reducible assumption
    | with_reducible apply State.powerOff_up
    | with_reducible apply up_ite

theorem State.mainDown_up {w : Prop} {ref s : State} (shortPin : Bool) (hu : Up w ref s) : Up w ref (State.mainDown s shortPin) := by
  unfold State.mainDown
  cases shortPin
  · exact State.supplyBad_up (hu.func rfl ⟨rfl, rfl⟩ id rfl rfl rfl id id id)
  · exact State.supplyBad_up (hu.func rfl ⟨rfl, rfl⟩ id rfl rfl rfl id id id)

theorem State.pwrDis_up {w : Prop} {ref s : State} (high : Bool) (hu : Up w ref s) : Up w ref (State.pwrDis s high) := by
  have h1 : Up w ref { s with power := { s.power with pwrDis := high } } := hu.func rfl ⟨rfl, rfl⟩ id rfl rfl rfl id id id
  exact up_ite _ (State.supplyBad_up h1) (State.tryIdle_up _ h1)

theorem State.standbyUp_up {w : Prop} {ref s : State} (hu : Up w ref s) : Up w ref (State.standbyUp s) := by
  unfold State.standbyUp
  have h1 : Up w ref { s with tick := 0, power := { s.power with standby := true } } := by
    refine ⟨hu.1, hu.2, fun hr => ?_⟩
    obtain ⟨h1, h2, h3, h4, h5, -, -⟩ := hu.3 hr
    exact ⟨h1, h2, h3, h4, h5, fun _ => rfl, Nat.two_pow_pos 64⟩
  exact up_ite _ hu (h1.loc (State.powerEvent_loc _ _ (Local.refl _)))

theorem State.offState_up {w : Prop} {ref t u : State} (hu : Up w ref t) (h1 : u.pending = t.pending) (h2 : u.flash0 = t.flash0)
    (h3 : u.flash1 = t.flash1) (h4 : u.mem = t.mem) (h5 : u.held = []) (h6 : u.func = Func.reset) (h7 : u.power.regulators = false)
    (h8 : u.tick = 0) (h9 : (u.skov false).active = true) (h10 : (u.skov true).active = false) : Up w ref u := by
  refine ⟨h1.trans hu.1, fun hw => ⟨h2.trans (hu.2 hw).1, h3.trans (hu.2 hw).2⟩, fun hr => ?_⟩
  obtain ⟨hm, -⟩ := hu.3 hr
  refine ⟨h4 ▸ hm, ?_, ?_, ?_, ?_, ?_, ?_⟩
  · rw [h5]; exact Nat.zero_le _
  · rw [h9, h10]; decide
  · rw [h6]; decide
  · rw [h6]; decide
  · rw [h7]; intro h; cases h
  · rw [h8]; exact Nat.two_pow_pos 64

theorem State.standbyLost_up {w : Prop} {ref s : State} (hu : Up w ref s) : Up w ref (State.standbyLost s) := by
  unfold State.standbyLost
  refine up_ite _ hu ?_
  have h1 := State.mainLost_up hu
  lift_lets
  intro t
  have ht : t = s.mainLost := rfl
  rw [← ht] at h1
  clear_value t
  clear ht
  intros
  exact State.offState_up h1 rfl rfl rfl rfl rfl rfl rfl rfl rfl rfl

theorem State.discardQueued_up {w : Prop} {ref s : State} (hu : Up w ref s) : Up w ref (State.discardQueued s) := by
  unfold State.discardQueued
  lift_lets
  intro kept lost acks s1 s2 s3
  have h1 : Up w ref s1 := up_foldl _ (fun _ _ ht => State.answerWrite_up _ _ ht) _ hu
  clear_value s1
  have h2 : Up w ref s2 := up_foldl _ (fun _ _ ht => up_ite _ ht
    (up_foldl _ (fun _ _ ht => ht.loc (State.updPier_loc _ _ (Local.refl _))) _ ht)) _ h1
  clear_value s2
  have h3 : Up w ref s3 := State.cutPrograms_up _ h2
  clear_value s3
  exact h3.same rfl rfl rfl

theorem State.endHead_up {w : Prop} {ref s : State} (q : QKey) (hu : Up w ref s) : Up w ref (State.endHead s q) := by
  unfold State.endHead
  split
  · exact hu
  · refine up_ite _ hu (up_ite _ (State.leave_up _ (State.reportHeader_up _ (State.abandonShares_up _ hu))) ?_)
    lift_lets
    intro p r0 s1 s2 y s3 s4
    have h1 : Up w ref s1 := hu.loc (State.log_loc _ (Local.refl _))
    clear_value s1
    have h2 : Up w ref s2 := up_foldl _ (fun _ _ ht => ht.loc (State.updPier_loc _ _ (Local.refl _))) _ (State.abandonShares_up _ h1)
    clear_value s2
    have h3 : Up w ref s3 := State.closeHeader_up _ h2
    have h4 : Up w ref s4 := by
      dsimp only [s4]
      clear_value s3
      split
      · exact h3.loc (State.sendKey_loc _ _ _ _ _ (Local.refl _))
      · exact h3
    clear_value s4
    exact State.leave_up _ (State.reportHeader_up _ h4)

theorem State.stopped_up {w : Prop} {ref s : State} (hu : Up w ref s) : Up w ref (State.stopped s) := by
  unfold State.stopped
  lift_lets
  intro s1 down w0 s2
  have h1 : Up w ref s1 := up_foldl _ (fun _ _ ht => ht.loc (State.updPier_loc _ _ (Local.refl _))) _ hu
  clear_value s1
  have h2 : Up w ref s2 := State.setFunc_up 5 (by decide) (h1.func rfl ⟨rfl, rfl⟩ id rfl rfl rfl id id id)
  clear_value s2
  exact up_ite _ (State.powerOff_up _ _ h2) h2

theorem State.stopDrain_up {w : Prop} {ref s : State} (hu : Up w ref s) : Up w ref (State.stopDrain s) := by
  unfold State.stopDrain
  lift_lets
  intro s1
  have h1 : Up w ref s1 := up_ite _ (up_foldl _ (fun _ _ ht => up_ite _ (ht.loc (State.drainAbandon_loc _ (Local.refl _))) ht) _ hu) hu
  clear_value s1
  exact up_ite _ (State.stopped_up h1) (h1.func rfl ⟨rfl, rfl⟩ id rfl rfl rfl id id id)

theorem State.stopAdvance_up {w : Prop} {ref s : State} (hu : Up w ref s) : Up w ref (State.stopAdvance s) := by
  unfold State.stopAdvance
  refine up_ite _ hu ?_
  lift_lets
  intro w0 s1
  have h1 : Up w ref s1 := up_ite _ (hu.func rfl ⟨rfl, rfl⟩ id rfl rfl rfl id id id) hu
  clear_value s1
  exact up_ite _ h1 (up_ite _ h1 (State.stopDrain_up h1))

theorem State.stopBegin_up {w : Prop} {ref s : State} (abort : Bool) (hu : Up w ref s) : Up w ref (State.stopBegin s abort) := by
  unfold State.stopBegin
  lift_lets
  intro s1 s2
  have h1 : Up w ref s1 := State.noteStopping_up (State.setFunc_up _ (by decide) hu)
  clear_value s1
  have h2 : Up w ref s2 := up_ite _ (State.discardQueued_up h1) h1
  clear_value s2
  exact State.stopAdvance_up (h2.func rfl ⟨rfl, rfl⟩ id rfl rfl rfl id id id)

theorem State.toAbort_up {w : Prop} {ref s : State} (hu : Up w ref s) : Up w ref (State.toAbort s) := by
  unfold State.toAbort
  extract_lets t
  have h1 : Up w ref t := up_ite _ (State.discardQueued_up hu) hu
  clear_value t
  exact State.stopAdvance_up (h1.func rfl ⟨rfl, rfl⟩ id rfl rfl rfl id id id)

theorem State.holdExpiry_up {w : Prop} {ref s : State} (hu : Up w ref s) : Up w ref (State.holdExpiry s) := by
  unfold State.holdExpiry
  try dsimp only
  repeat' first
    | with_reducible assumption
    | with_reducible apply State.endHead_up
    | with_reducible apply State.stopDrain_up
    | with_reducible apply up_foldl
    | intro _ _ _
    | with_reducible apply up_ite

theorem State.startImage_up {w : Prop} {ref s : State} (sel : Nat) (keep : Bool) (hu : Up w ref s) : Up w ref (State.startImage s sel keep) := by
  unfold State.startImage
  have h1 := State.setFunc_up 2 (by decide) hu
  exact State.startUp_up _ (up_ite _ h1 (State.zeroFill_up _ _ h1))

/-! ## Tick -/

theorem State.pierTick_up {w : Prop} {ref s : State} (p : PierId) (hu : Up w ref s) : Up w ref (State.pierTick s p) := by
  unfold State.pierTick
  try dsimp only
  repeat' first
    | with_reducible assumption
    | (with_reducible refine Up.loc ?_ (State.updPier_loc _ _ (Local.refl _)))
    | (with_reducible refine Up.loc ?_ (State.advanceWalks_loc _ (Local.refl _)))
    | with_reducible apply State.stirTick_up
    | with_reducible apply up_ite
    | split
    | (apply Up.same (by assumption) <;> with_reducible rfl)
    | (apply Up.same; (on_goal 1 => first | (with_reducible refine Up.loc ?_ (State.updPier_loc _ _ (Local.refl _))) | (with_reducible refine Up.loc ?_ (State.advanceWalks_loc _ (Local.refl _))) | with_reducible apply State.stirTick_up); rotate_left; with_reducible rfl; with_reducible rfl; with_reducible rfl)

theorem State.decideAdmits_up {w : Prop} {ref : State} (n : Nat) : ∀ {s : State}, Up w ref s → Up w ref (State.decideAdmits n s) := by
  induction n with
  | zero => intro s hu; exact hu
  | succ n ih =>
    intro s hu
    unfold State.decideAdmits
    split
    · exact hu
    · exact ih (State.admitRequest_up _ _ _ (hu.same rfl rfl rfl))

theorem State.pilotTick_up {w : Prop} {ref s : State} (hu : Up w ref s) : Up w ref (State.pilotTick s) := by
  unfold State.pilotTick
  split
  · extract_lets s0 s1 s2
    have h0 : Up w ref s0 := State.decideAdmits_up _ hu
    clear_value s0
    have h1 : Up w ref s1 := up_foldl _ (fun _ p ht => State.pierTick_up p ht) _ h0
    clear_value s1
    have h2 : Up w ref s2 := by
      refine up_foldl _ ?_ _ h1
      intro t q ht
      exact up_ite _ ht (ht.loc (State.bump_loc _ _ (Local.refl _)))
    clear_value s2
    refine State.tryFinish_up (State.stopAdvance_up ⟨h2.1, h2.2, fun hr => ?_⟩)
    obtain ⟨a, b, c, d, e, f, -⟩ := h2.3 hr
    exact ⟨a, b, c, d, e, f, Nat.mod_lt _ (by decide)⟩
  · exact hu

/-! ## Skovlaper -/

theorem State.bootSkov_up {w : Prop} {ref s : State} (d : Bool) (hu : Up w ref s) : Up w ref (State.bootSkov s d) := by
  unfold State.bootSkov
  lift_lets
  intro keys fl s1 s2
  have h1 : Up w ref s1 := State.updSkov_up _ _ (fun _ => rfl) hu
  clear_value s1
  have h2 : Up w ref s2 := up_ite _ h1 (h1.loc (State.event_loc _ _ (Local.refl _)))
  clear_value s2
  split
  · exact State.updSkov_up _ _ (fun _ => rfl) h2
  · exact State.updSkov_up _ _ (fun _ => rfl) h2

theorem State.shareState_up {w : Prop} {ref s : State} (hu : Up w ref s) : Up w ref (State.shareState s) := by
  have h1 := State.updSkov_up false (fun k => { k with peerReady := (s.skov true).up, peerRecovery := (s.skov true).recovery }) (fun _ => rfl) hu
  exact State.updSkov_up true (fun k => { k with peerReady := (s.skov false).up, peerRecovery := (s.skov false).recovery }) (fun _ => rfl) h1

theorem State.takeOver_up {w : Prop} {ref s : State} (d : Bool) (cause : Nat) (hu : Up w ref s) : Up w ref (State.takeOver s d cause) := by
  unfold State.takeOver
  extract_lets s1 s2 s3
  have h2 : Up w ref s2 := by
    refine ⟨hu.1, hu.2, fun hr => ?_⟩
    obtain ⟨a, b, -, c⟩ := hu.3 hr
    refine ⟨a, b, ?_, c⟩
    cases d <;> simp [s1, s2, State.skov, State.updSkov, skovIx]
  clear_value s2
  have h2' : Up w ref { s2 with unsent := [] } := h2.same rfl rfl rfl
  have h3 : Up w ref s3 := up_foldl _ (fun _ _ ht => State.deliverTo_up _ _ ht) _ h2'
  clear_value s3
  exact Up.loc h3 (State.event_loc _ _ (Local.refl _))

theorem State.settleRoles_up {w : Prop} {ref s : State} (hu : Up w ref s) : Up w ref (State.settleRoles s) := by
  unfold State.settleRoles
  refine up_ite _ hu ?_
  have h1 := State.shareState_up hu
  generalize s.shareState = t at h1 ⊢
  refine up_ite _ h1 (State.tryIdle_up _ (State.setFunc_up 1 (by decide) ?_))
  exact up_ite _ h1 (State.takeOver_up _ _ h1)

theorem State.skovBoot_up {w : Prop} {ref s : State} (d : Bool) (hu : Up w ref s) : Up w ref (State.skovBoot s d) := by
  unfold State.skovBoot
  try dsimp only
  repeat' first
    | with_reducible assumption
    | with_reducible apply State.bootSkov_up
    | with_reducible apply State.settleRoles_up
    | with_reducible apply up_ite

theorem State.resetSkov_up {w : Prop} {ref s : State} (d : Bool) (hu : Up w ref s) : Up w ref (State.resetSkov s d) := by
  unfold State.resetSkov
  extract_lets s1 s2
  have h1 : Up w ref s1 := State.updSkov_up _ _ (fun _ => rfl) hu
  clear_value s1
  have h2 : Up w ref s2 := State.updSkov_up _ _ (fun _ => rfl) h1
  clear_value s2
  exact up_ite _ h2 (h2.of rfl id (fun _ => Nat.zero_le _))

theorem State.heartbeatLoss_up {w : Prop} {ref s : State} (watchdog : Bool) (hu : Up w ref s) : Up w ref (State.heartbeatLoss s watchdog) := by
  unfold State.heartbeatLoss
  have h1 : Up w ref (s.resetSkov s.activeD) := State.resetSkov_up _ hu
  exact up_ite _ hu (State.takeOver_up _ _ (h1.same rfl rfl rfl))

theorem State.watchdogExpiry_up {w : Prop} {ref s : State} (d : Bool) (hu : Up w ref s) : Up w ref (State.watchdogExpiry s d) := by
  unfold State.watchdogExpiry
  extract_lets k s1
  have h1 : Up w ref s1 := State.updSkov_up _ _ (fun _ => rfl) hu
  clear_value s1
  exact up_ite _ hu (Up.loc (State.resetSkov_up _ h1) (State.event_loc _ _ (Local.refl _)))

theorem State.skovRejoin_up {w : Prop} {ref s : State} (d : Bool) (hu : Up w ref s) : Up w ref (State.skovRejoin s d) := by
  unfold State.skovRejoin
  refine up_ite _ hu ?_
  have h1 := State.shareState_up (State.bootSkov_up d hu)
  generalize (s.bootSkov d).shareState = t at h1 ⊢
  exact up_ite _ (h1.loc (State.event_loc _ _ (Local.refl _))) h1

theorem State.sensorSample_up {w : Prop} {ref s : State} (i : Nat) (v sp : Int) (hu : Up w ref s) : Up w ref (State.sensorSample s i v sp) := by
  unfold State.sensorSample
  refine up_ite _ hu (up_ite _ (State.standbyLost_up hu) ?_)
  generalize s.sensorNext i v sp = r
  obtain ⟨level, since⟩ := r
  dsimp -zeta only
  extract_lets old s1 s2
  have h1 : Up w ref s1 := hu.same rfl rfl rfl
  clear_value s1
  have h2 : Up w ref s2 := h1.loc (State.event_loc _ _ (Local.refl _))
  clear_value s2
  exact up_ite _ h1 (up_ite _ (up_ite _ (State.powerOff_up _ _ h2) (up_ite _ h2 (h2.func rfl ⟨rfl, rfl⟩ id rfl rfl rfl id id id)))
    (up_ite _ (State.tryIdle_up _ h2) h2))

/-! ## Manage -/

theorem State.answerTo_up {w : Prop} {ref s : State} (m : Manager) (cmd status extra : Nat) (data : List Byte) (hu : Up w ref s) : Up w ref (State.answerTo s m cmd status extra data) := by
  unfold State.answerTo
  try dsimp only
  repeat' first
    | with_reducible assumption
    | with_reducible apply State.send_up
    | with_reducible apply up_ite
    | split
    | (apply Up.same (by assumption) <;> with_reducible rfl)

theorem State.blockRead_up {w : Prop} {ref s : State} (code : Nat) (hu : Up w ref s) : Up w ref (State.blockRead s code).2 := by
  unfold State.blockRead
  try dsimp only
  repeat' first
    | with_reducible assumption
    | with_reducible apply up_ite
    | split
    | (apply Up.same (by assumption) <;> with_reducible rfl)

theorem State.creditBack_up {w : Prop} {ref s : State} (m : Manager) (hu : Up w ref s) : Up w ref (State.creditBack s m) := by
  unfold State.creditBack
  try dsimp only
  repeat' first
    | with_reducible assumption
    | with_reducible apply State.giveCredit_up
    | with_reducible apply up_ite
    | split

theorem State.manage_up {w : Prop} {ref s : State} (m : Manager) (rom : Bool) (f : State → State) (hf : ∀ {t}, Up w ref t → Up w ref (f t)) (hu : Up w ref s) : Up w ref (s.manage m rom f) := by
  exact up_ite _ (State.creditBack_up _ (hf hu)) hu

theorem State.bind_up {w : Prop} {ref s : State} (m : Manager) (host : U16) (context : U64) (hu : Up w ref s) : Up w ref (State.bind s m host context) := by
  unfold State.bind
  try dsimp only
  repeat' first
    | with_reducible assumption
    | with_reducible apply State.updPort_up
    | (with_reducible refine Up.loc ?_ (State.event_loc _ _ (Local.refl _)))
    | with_reducible apply State.answerTo_up
    | with_reducible apply up_ite
    | split

theorem State.unbind_up {w : Prop} {ref s : State} (m : Manager) (hu : Up w ref s) : Up w ref (State.unbind s m) := by
  unfold State.unbind
  try dsimp only
  repeat' first
    | with_reducible assumption
    | with_reducible apply State.updPort_up
    | with_reducible apply State.answerTo_up
    | with_reducible apply up_ite
    | split

theorem State.stopCommand_up {w : Prop} {ref s : State} (m : Manager) (mode : Nat) (hu : Up w ref s) : Up w ref (State.stopCommand s m mode) := by
  unfold State.stopCommand
  try dsimp only
  repeat' first
    | with_reducible assumption
    | with_reducible apply State.stopBegin_up
    | with_reducible apply State.toAbort_up
    | with_reducible apply State.answerTo_up
    | with_reducible apply up_ite

theorem State.startCommand_up {w : Prop} {ref s : State} (m : Manager) (slot : Nat) (keep : Bool) (hu : Up w ref s) : Up w ref (State.startCommand s m slot keep) := by
  unfold State.startCommand
  try dsimp only
  repeat' first
    | with_reducible assumption
    | with_reducible apply State.startImage_up
    | with_reducible apply State.answerTo_up
    | with_reducible apply up_ite

theorem State.unknownCommand_up {w : Prop} {ref s : State} (m : Manager) (code : Nat) (hu : Up w ref s) : Up w ref (State.unknownCommand s m code) := by
  exact up_ite _ hu (State.manage_up _ _ _ (fun ht => State.answerTo_up _ _ _ _ _ ht) hu)

theorem State.eraseTo_up {w : Prop} {ref s : State} (hw : w) (target n : Nat) (hu : Up w ref s) : Up w ref (s.eraseTo target n) := by
  unfold State.eraseTo
  split
  · exact hu
  · lift_lets
    intro s1
    have h1 : Up w ref s1 := up_foldl _ (fun _ _ ht => up_foldl _ (fun _ _ ht => State.flashErase_up hw _ _ ht) _ ht) _ hu
    clear_value s1
    exact h1.same rfl rfl rfl

theorem State.targetWrite_up {w : Prop} {ref s : State} (hw : w) (target off : Nat) (bs : List Byte) (hu : Up w ref s) : Up w ref (s.targetWrite target off bs) := by
  exact up_foldl _ (fun _ _ ht => State.flashWrite_up hw _ _ _ ht) _ hu

theorem State.updateBegin_up {w : Prop} {ref s : State} (hw : w) (m : Manager) (target length : Nat) (hu : Up w ref s) : Up w ref (s.updateBegin m target length) := by
  unfold State.updateBegin
  refine up_ite _ (State.answerTo_up _ _ _ _ _ hu) (up_ite _ (State.answerTo_up _ _ _ _ _ hu) ?_)
  lift_lets
  intro u s1
  have h1 : Up w ref s1 := hu.same rfl rfl rfl
  clear_value s1
  exact State.answerTo_up _ _ _ _ _ (up_ite _ (State.eraseTo_up hw _ _ h1) h1)

theorem State.inSession_up {w : Prop} {ref s : State} (m : Manager) (cmd : Nat) (f : State → Session → State) (hf : ∀ {t} u, Up w ref t → Up w ref (f t u)) (hu : Up w ref s) : Up w ref (s.inSession m cmd f) := by
  unfold State.inSession
  split
  · exact State.answerTo_up _ _ _ _ _ hu
  · exact up_ite _ (hf _ (hu.same rfl rfl rfl)) (State.answerTo_up _ _ _ _ _ hu)

theorem State.putData_up {w : Prop} {ref s : State} (hw : w) (u : Session) (off : Nat) (data : List Byte) (hu : Up w ref s) : Up w ref (s.putData u off data) := by
  unfold State.putData
  lift_lets
  intro stop u' s1
  have h1 : Up w ref s1 := hu.same rfl rfl rfl
  clear_value s1
  exact up_ite _ h1 (State.targetWrite_up hw _ _ _ (State.eraseTo_up hw _ _ h1))

theorem State.updateData_up {w : Prop} {ref s : State} (hw : w) (m : Manager) (off : Nat) (data : List Byte) (hu : Up w ref s) : Up w ref (s.updateData m off data) := by
  exact State.inSession_up _ _ _ (fun u ht => up_ite _ (State.answerTo_up _ _ _ _ _ ht)
    (State.answerTo_up _ _ _ _ _ (State.putData_up hw _ _ _ ht))) hu

theorem State.headWritten_up {w : Prop} {ref s : State} (hw : w) (u : Session) (hu : Up w ref s) : Up w ref (s.headWritten u) := by
  exact State.targetWrite_up hw _ _ _ (State.eraseTo_up hw _ _ hu)

theorem State.writeFloor_up {w : Prop} {ref s : State} (hw : w) (dev : Bool) (fw image : Nat) (hu : Up w ref s) : Up w ref (s.writeFloor dev fw image) := by
  unfold State.writeFloor
  lift_lets
  intro fl k base s1
  have h1 : Up w ref s1 := State.flashWrite_up hw _ _ _ (State.flashErase_up hw _ _ hu)
  clear_value s1
  exact State.updSkov_up _ _ (fun _ => rfl) h1

theorem State.commitImage_up {w : Prop} {ref s t : State} {v : Nat} (hw : w) (u : Session) (hu : Up w ref s) (h : s.commitImage u = .good t v) :
    Up w ref t := by
  unfold State.commitImage at h
  revert h
  lift_lets
  intro s1 dev code h
  have h1 : Up w ref s1 := State.headWritten_up hw u hu
  clear_value s1
  split at h
  · cases h
  · split at h <;> cases h
    exact h1

theorem State.commitFirmware_up {w : Prop} {ref s t : State} {v : Nat} (hw : w) (u : Session) (hu : Up w ref s)
    (h : s.commitFirmware u = .good t v) : Up w ref t := by
  unfold State.commitFirmware at h
  revert h
  lift_lets
  intro s1 c b d h
  have h1 : Up w ref s1 := State.headWritten_up hw u hu
  clear_value s1
  split at h
  · cases h
  · split at h <;> cases h
    exact h1

theorem State.commitRevocation_up {w : Prop} {ref s t : State} {v : Nat} (hw : w) (u : Session) (hu : Up w ref s)
    (h : s.commitRevocation u = .good t v) : Up w ref t := by
  unfold State.commitRevocation at h
  split at h
  · cases h
  · split at h
    · cases h
    · split at h
      · obtain ⟨rfl, -⟩ := h
        rename_i i j _ _
        have h1 := State.flashWrite_up hw true (revokeBase + 1024 * j) u.head (State.flashWrite_up hw false (revokeBase + 1024 * i) u.head hu)
        exact up_ite _ (h1.loc (State.event_loc _ _ (Local.refl _))) h1
      · cases h

theorem State.commitFloor_up {w : Prop} {ref s t : State} {v : Nat} (hw : w) (u : Session) (hu : Up w ref s)
    (h : s.commitFloor u = .good t v) : Up w ref t := by
  unfold State.commitFloor at h
  revert h
  lift_lets
  intro fw image raises s1 k h
  have h1 : Up w ref s1 := State.writeFloor_up hw _ _ _ (State.writeFloor_up hw _ _ _ hu)
  clear_value s1
  split at h
  · cases h
  · split at h
    · cases h
    · split at h
      · cases h
        exact hu
      · split at h <;> cases h
        exact h1.loc (State.event_loc _ _ (Local.refl _))

theorem State.commitKey_up {w : Prop} {ref s t : State} {v : Nat} (hw : w) (u : Session) (hu : Up w ref s) (h : s.commitKey u = .good t v) :
    Up w ref t := by
  unfold State.commitKey at h
  dsimp only at h
  split at h <;> cases h
  exact State.flashWrite_up hw _ _ _ (State.flashWrite_up hw _ _ _ hu)

theorem State.commitOf_up {w : Prop} {ref s t : State} {v : Nat} (hw : w) (u : Session) (hu : Up w ref s) (h : s.commitOf u = .good t v) :
    Up w ref t := by
  unfold State.commitOf at h
  split at h
  · exact State.commitImage_up hw u hu h
  · exact State.commitImage_up hw u hu h
  · exact State.commitFirmware_up hw u hu h
  · exact State.commitFirmware_up hw u hu h
  · exact State.commitRevocation_up hw u hu h
  · exact State.commitFloor_up hw u hu h
  · exact State.commitKey_up hw u hu h

theorem State.updateCommit_up {w : Prop} {ref s : State} (hw : w) (m : Manager) (hu : Up w ref s) : Up w ref (s.updateCommit m) := by
  refine State.inSession_up _ _ _ (fun {t} u ht => ?_) hu
  dsimp only
  have h1 : ∀ {x : State} (a b : Nat), Up w ref x → Up w ref (({ x with session := none } : State).event a b) := fun {x} a b hx => by
    have h0 : Up w ref { x with session := none } := hx.same rfl rfl rfl
    exact h0.loc (State.event_loc a b (Local.refl _))
  have h2 : Up w ref { t with free := t.free + 1 } := ht.same rfl rfl rfl
  split
  · rename_i x v hx
    exact State.answerTo_up _ _ _ _ _ (h1 _ _ (State.commitOf_up hw u h2 hx))
  · exact State.answerTo_up _ _ _ _ _ (h1 _ _ h2)
  · exact State.answerTo_up _ _ _ _ _ (h2.same rfl rfl rfl)

theorem State.updateAbort_up {w : Prop} {ref s : State} (m : Manager) (hu : Up w ref s) : Up w ref (State.updateAbort s m) := by
  exact State.inSession_up _ _ _ (fun u ht => State.answerTo_up _ _ _ _ _ (ht.same rfl rfl rfl)) hu

theorem State.sessionTimeout_up {w : Prop} {ref s : State} (hu : Up w ref s) : Up w ref (State.sessionTimeout s) := by
  unfold State.sessionTimeout
  try dsimp only
  repeat' first
    | with_reducible assumption
    | with_reducible apply up_ite
    | split
    | (apply Up.same (by assumption) <;> with_reducible rfl)

theorem State.identity_up {w : Prop} {ref s : State} (m : Manager) (chunk : Nat) (hu : Up w ref s) : Up w ref (State.identity s m chunk) := by
  unfold State.identity
  try dsimp only
  repeat' first
    | with_reducible assumption
    | with_reducible apply State.take_up
    | with_reducible apply State.answerTo_up
    | with_reducible apply up_ite

theorem State.attest_up {w : Prop} {ref s : State} (m : Manager) (nonce : List Byte) (hu : Up w ref s) : Up w ref (State.attest s m nonce) := by
  unfold State.attest
  try dsimp only
  repeat' first
    | with_reducible assumption
    | with_reducible apply State.take_up
    | with_reducible apply State.answerTo_up
    | with_reducible apply up_foldl
    | (intro _ _ _; dsimp only)
    | intro _ _ _
    | with_reducible apply up_ite

theorem State.logRead_up {w : Prop} {ref s : State} (m : Manager) (count first : Nat) (hu : Up w ref s) : Up w ref (State.logRead s m count first) := by
  unfold State.logRead
  try dsimp only
  repeat' first
    | with_reducible assumption
    | with_reducible apply State.answerTo_up
    | with_reducible apply up_ite

theorem State.sensorRead_up {w : Prop} {ref s : State} (m : Manager) (first count : Nat) (hu : Up w ref s) : Up w ref (State.sensorRead s m first count) := by
  unfold State.sensorRead
  try dsimp only
  repeat' first
    | with_reducible assumption
    | with_reducible apply State.answerTo_up
    | with_reducible apply up_ite

theorem State.holdDown_up {w : Prop} {ref s : State} (hu : Up w ref s) : Up w ref (State.holdDown s) := by
  exact up_ite _ (State.powerOff_up _ _ hu) (hu.func rfl ⟨rfl, rfl⟩ id rfl rfl rfl id id id)

theorem State.powerDown_up {w : Prop} {ref s : State} (m : Manager) (force : Bool) (hu : Up w ref s) : Up w ref (State.powerDown s m force) := by
  unfold State.powerDown
  have ha : ∀ st, Up w ref (s.answerTo m 0x3A st 0 []) := fun st => State.answerTo_up _ _ _ _ _ hu
  lift_lets
  intro answer s1 w0 s2
  have h2 : Up w ref s2 := (ha 0).func rfl ⟨rfl, rfl⟩ id rfl rfl rfl id id id
  clear_value s2
  exact up_ite _ (ha 4) (up_ite _ (State.holdDown_up (ha 0)) (up_ite _ (ha 6) (up_ite _ (State.stopBegin_up _ h2)
    (up_ite _ (up_ite _ h2 (State.toAbort_up h2)) (State.holdDown_up h2)))))

theorem State.powerUp_up {w : Prop} {ref s : State} (m : Manager) (hu : Up w ref s) : Up w ref (State.powerUp s m) := by
  unfold State.powerUp
  exact up_ite _ (State.answerTo_up _ _ _ _ _ hu) (State.tryIdle_up _ (State.answerTo_up _ _ _ _ _
    (hu.func rfl ⟨rfl, rfl⟩ id rfl rfl rfl id id id)))


/-! ## Flits, and every command -/

theorem outState_up {w : Prop} {ref s : State} (o : Host.Outcome State Fault Refusal) (ho : ∀ t, o = .next t → Up w ref t)
    (hu : Up w ref s) : Up w ref (outState o s) := by
  unfold outState
  split
  · exact ho _ rfl
  · exact hu

theorem State.answer_up {w : Prop} {ref s : State} (m : Manager) (rom : Bool) (cmd st x : Nat) (d : State → List Byte) (hu : Up w ref s) :
    Up w ref (s.manage m rom fun s => s.answerTo m cmd st x (d s)) :=
  State.manage_up _ _ _ (fun ht => State.answerTo_up _ _ _ _ _ ht) hu

theorem State.mgmt_up {w : Prop} {ref s : State} (hw : w) (p : PortId) (tag : U32) (b : List Byte) (hu : Up w ref s) :
    Up w ref (s.mgmt p tag b) := by
  unfold State.mgmt
  dsimp only
  refine outState_up _ ?_ hu
  split <;> intro t ht <;> rw [← Host.Outcome.next.inj ht]
  · exact State.answer_up _ _ _ _ _ _ hu
  · exact State.manage_up _ _ _ (fun ht => State.bind_up _ _ _ ht) hu
  · exact State.manage_up _ _ _ (fun ht => State.stopCommand_up _ _ ht) hu
  · exact State.manage_up _ _ _ (fun ht => State.startCommand_up _ _ _ ht) hu
  · exact State.manage_up _ _ _ (fun ht => State.unbind_up _ ht) hu
  · exact State.manage_up _ _ _ (fun ht => State.updateBegin_up hw _ _ _ ht) hu
  · exact State.manage_up _ _ _ (fun ht => State.updateData_up hw _ _ _ ht) hu
  · exact State.manage_up _ _ _ (fun ht => State.updateCommit_up hw _ ht) hu
  · exact State.manage_up _ _ _ (fun ht => State.updateAbort_up _ ht) hu
  · exact State.manage_up _ _ _ (fun ht => State.identity_up _ _ ht) hu
  · exact State.manage_up _ _ _ (fun ht => State.attest_up _ _ ht) hu
  · exact State.answer_up _ _ _ _ _ _ hu
  · exact State.manage_up _ _ _ (fun ht => State.logRead_up _ _ _ ht) hu
  · exact State.manage_up _ _ _ (fun ht => State.sensorRead_up _ _ _ ht) hu
  · exact State.manage_up _ _ _ (fun ht => State.powerDown_up _ _ ht) hu
  · exact State.manage_up _ _ _ (fun ht => State.powerUp_up _ ht) hu
  · exact State.answer_up _ _ _ _ _ _ hu
  · exact State.unknownCommand_up _ _ hu

theorem State.wholeMessage_up {w : Prop} {ref s : State} (hw : w) (p : PortId) (m : List Byte) (hu : Up w ref s) :
    Up w ref (s.wholeMessage p m) := by
  unfold State.wholeMessage
  refine up_ite _ hu ?_
  split
  · exact State.mgmt_up hw _ _ _ hu
  · exact State.hostIdent_up _ _ hu
  · exact State.hostCredit_up _ _ hu
  · exact State.arrive_up _ _ hu

theorem State.flitReceive_up {w : Prop} {ref s : State} (hw : w) (p : PortId) (flit : List Byte) (hu : Up w ref s) :
    Up w ref (s.flitReceive p flit) := by
  unfold State.flitReceive
  refine up_ite _ hu ?_
  extract_lets r s1 c s2 s3
  have h1 : Up w ref s1 := State.updPort_up _ _ hu
  clear_value s1
  have h2 : Up w ref s2 := State.updPort_up _ _ h1
  clear_value s2
  have h3 : Up w ref s3 := up_foldl _ (fun _ _ ht => State.wholeMessage_up hw _ _ ht) _ h2
  clear_value s3
  exact up_ite _ h1 (up_ite _ (State.protocolError_up _ h3) (State.updPort_up _ _ h3))

/-- What every command keeps: the queue of the commands that wait, soundness, and, of a command that cannot write the flash
devices, these. -/
theorem exec_up {w : Prop} {s t : State} (c : Instr) (hw : flashCommand c = true → w) (h : exec c s = .next t) : Up w s t := by
  have hu := Up.refl w s
  cases c
  case mmul =>
    exact Host.Outcome.next.inj h ▸ State.runProduct_up _ _ hu
  case spmm =>
    exact Host.Outcome.next.inj h ▸ State.runProduct_up _ _ hu
  case spmmt =>
    exact Host.Outcome.next.inj h ▸ State.runProduct_up _ _ hu
  case sddmm =>
    exact Host.Outcome.next.inj h ▸ State.runProduct_up _ _ hu
  case tcopy =>
    exact Host.Outcome.next.inj h ▸ State.runOp_up (fun e h => State.tcopyShare_loc e h) _ _ hu
  case rownorm =>
    exact Host.Outcome.next.inj h ▸ State.runOp_up (fun e h => State.rownormShare_loc e h) _ _ hu
  case rowsoftmax =>
    exact Host.Outcome.next.inj h ▸ State.runOp_up (fun e h => State.rowsoftmaxShare_loc e h) _ _ hu
  case act =>
    exact Host.Outcome.next.inj h ▸ State.runOp_up (fun e h => State.actShare_loc e h) _ _ hu
  case reduce =>
    exact Host.Outcome.next.inj h ▸ State.runOp_up (fun e h => State.reduceShare_loc e h) _ _ hu
  case topk =>
    exact Host.Outcome.next.inj h ▸ State.runOp_up (fun e h => State.topkShare_loc e h) _ _ hu
  case pack =>
    exact Host.Outcome.next.inj h ▸ State.runOp_up (fun e h => State.packShare_loc e h) _ _ hu
  case prune =>
    exact Host.Outcome.next.inj h ▸ State.runOp_up (fun e h => State.pruneShare_loc e h) _ _ hu
  case regrow =>
    exact Host.Outcome.next.inj h ▸ State.runOp_up (fun e h => State.regrowShare_loc e h) _ _ hu
  case update =>
    exact Host.Outcome.next.inj h ▸ State.runOp_up (fun e h => State.updateShare_loc e h) _ _ hu
  case dmask =>
    exact Host.Outcome.next.inj h ▸ State.runOp_up (fun e h => State.dmaskShare_loc e h) _ _ hu
  case ckpt =>
    exact Host.Outcome.next.inj h ▸ State.runOp_up (fun e h => State.ckptShare_loc e h) _ _ hu
  case exportShards =>
    exact Host.Outcome.next.inj h ▸ State.runOp_up (fun e h => State.exportShare_loc e h) _ _ hu
  case move =>
    exact Host.Outcome.next.inj h ▸ State.runOp_up (fun e h => State.moveShare_loc e h) _ _ hu
  case signal =>
    exact Host.Outcome.next.inj h ▸ State.runSignal_up _ hu
  case wait =>
    exact Host.Outcome.next.inj h ▸ State.runOp_up (fun e h => State.noShare_loc e h) _ _ hu
  case headerDecode =>
    exact Host.Outcome.next.inj h ▸ State.decodeHead_up _ hu
  case headerComplete =>
    exact Host.Outcome.next.inj h ▸ State.completeHead_up _ hu
  case submissionLineWrite =>
    exact Host.Outcome.next.inj h ▸ State.windowWrite_up _ _ _ _ hu
  case submissionEnqueue =>
    exact Host.Outcome.next.inj h ▸ State.submissionEnqueue_up _ hu
  case submissionLineRead =>
    exact Host.Outcome.next.inj h ▸ State.windowRead_up _ _ _ _ hu
  case keystoneValueWrite =>
    exact Host.Outcome.next.inj h ▸ State.windowWrite_up _ _ _ _ hu
  case keystoneAddWrite =>
    exact Host.Outcome.next.inj h ▸ State.windowWrite_up _ _ _ _ hu
  case keystoneTasRead =>
    exact Host.Outcome.next.inj h ▸ State.windowRead_up _ _ _ _ hu
  case keystoneTasWrite =>
    exact Host.Outcome.next.inj h ▸ State.windowWrite_up _ _ _ _ hu
  case keystoneUpdateCycle =>
    exact Host.Outcome.next.inj h ▸ State.drainInboxes_up (State.keyUpdate_up _ hu)
  case keystoneDeferredTas =>
    exact Host.Outcome.next.inj h ▸ State.drainInboxes_up (State.keyDeferredStep_up _ hu)
  case stepAdvance =>
    exact Host.Outcome.next.inj h ▸ State.stepAdvance_up hu
  case slotChange =>
    exact Host.Outcome.next.inj h ▸ hu.loc (State.nextSlot_loc _ (Local.refl _))
  case stationaryTileLoaded =>
    exact Host.Outcome.next.inj h ▸ hu.loc (State.tileLoaded_loc _ _ _ (Local.refl _))
  case corbelStateArrival =>
    exact Host.Outcome.next.inj h ▸ hu.loc (State.stateArrival_loc _ _ _ _ (Local.refl _))
  case chiselJobStart =>
    exact Host.Outcome.next.inj h ▸ up_ite _ (hu.loc (State.updPier_loc _ _ (Local.refl _))) hu
  case finishPass =>
    exact Host.Outcome.next.inj h ▸ State.finishPass_up _ _ hu
  case maskRewrite =>
    exact Host.Outcome.next.inj h ▸ State.maskRewrite_up _ _ hu
  case listScanClose =>
    exact Host.Outcome.next.inj h ▸ hu.loc (State.scanClose_loc _ _ _ (Local.refl _))
  case tableStoreAvailable =>
    exact Host.Outcome.next.inj h ▸ State.tableReady_up _ hu
  case tableStoreLoad =>
    exact Host.Outcome.next.inj h ▸ State.loadStore_up _ hu
  case applyComplete =>
    simp only [exec, execApplyComplete] at h
    split at h
    · exact Host.Outcome.next.inj h ▸ State.closeApply_up _ _ (hu.loc (State.updPier_loc _ _ (Local.refl _)))
    · exact Host.Outcome.next.inj h ▸ hu
  case deferEntryPlace =>
    exact Host.Outcome.next.inj h ▸ State.placeEntry_up _ hu
  case deferEntryDrain =>
    exact Host.Outcome.next.inj h ▸ hu.loc (State.drainDefer_loc _ (Local.refl _))
  case fingerprintRecheck =>
    exact Host.Outcome.next.inj h ▸ hu.loc (State.recheck_loc _ _ _ (Local.refl _))
  case ckptWriteDone =>
    exact Host.Outcome.next.inj h ▸ State.ckptWritten_up _ hu
  case ckptDrainDone =>
    exact Host.Outcome.next.inj h ▸ hu.loc (State.ckptDrained_loc _ (Local.refl _))
  case runAheadFetch =>
    exact Host.Outcome.next.inj h ▸ up_ite _ (State.runAhead_up _ _ _ hu) hu
  case repointLine =>
    exact Host.Outcome.next.inj h ▸ State.repointLine_up _ _ _ hu
  case gddr7Retrain =>
    exact Host.Outcome.next.inj h ▸ State.retrain_up _ _ hu
  case evacuationCopyDone =>
    exact Host.Outcome.next.inj h ▸ State.copyDone_up _ hu
  case cxlDeviceArrival =>
    exact Host.Outcome.next.inj h ▸ State.cxlArrive_up _ _ hu
  case cxlOrderlyDeparture =>
    exact Host.Outcome.next.inj h ▸ State.cxlOrderly_up _ hu
  case cxlSurpriseDeparture =>
    exact Host.Outcome.next.inj h ▸ State.cxlSurprise_up _ hu
  case courseSleep =>
    exact Host.Outcome.next.inj h ▸ State.courseSleep_up _ hu
  case courseWake =>
    exact Host.Outcome.next.inj h ▸ State.courseWake_up _ hu
  case pierSleep =>
    exact Host.Outcome.next.inj h ▸ State.pierSleep_up _ hu
  case pierWake =>
    exact Host.Outcome.next.inj h ▸ State.pierWake_up _ hu
  case repointingWake =>
    rename_i p course
    cases course
    · exact Host.Outcome.next.inj h ▸ State.pierWake_up _ hu
    · exact Host.Outcome.next.inj h ▸ State.courseWake_up _ hu
  case inPierResetFlush =>
    rw [← Host.Outcome.next.inj h]
    exact up_ite _ (hu.same rfl rfl rfl) hu
  case boundaryResync =>
    rw [← Host.Outcome.next.inj h]
    have h0 : ∀ l, Up w s { s with crossPtr := l } := fun l => hu.same rfl rfl rfl
    exact up_ite _ hu ((h0 _).loc (State.deliver_loc _ (Local.refl _)))
  case domainDeclaredFailed =>
    exact Host.Outcome.next.inj h ▸ State.domainFailed_up _ _ hu
  case codewordError =>
    exact Host.Outcome.next.inj h ▸ State.codeword_up _ _ hu
  case marginMonitorTrip =>
    exact Host.Outcome.next.inj h ▸ State.marginTrip_up _ _ _ hu
  case soundingResult =>
    simp only [exec, execSoundingResult] at h
    split at h
    · exact Host.Outcome.next.inj h ▸ hu
    · exact Host.Outcome.next.inj h ▸ State.soundingResult_up _ _ hu
  case spareTakeover =>
    exact Host.Outcome.next.inj h ▸ State.takeover_up _ hu
  case masonExchange =>
    exact Host.Outcome.next.inj h ▸ State.masonExchange_up _ _ hu
  case routineSpareSounding =>
    exact Host.Outcome.next.inj h ▸ State.routineSounding_up _ _ hu
  case linkCycleReceive =>
    exact Host.Outcome.next.inj h ▸ State.linkCycle_up _ _ _ _ hu
  case laneGroupTest =>
    exact Host.Outcome.next.inj h ▸ State.laneTest_up _ _ _ _ hu
  case logWrite =>
    exact Host.Outcome.next.inj h ▸ State.logWrite_up hu
  case plumblineTraining =>
    exact Host.Outcome.next.inj h ▸ State.train_up _ _ hu
  case quickRetrain =>
    exact Host.Outcome.next.inj h ▸ State.quickRetrain_up _ _ hu
  case flitReceive =>
    exact Host.Outcome.next.inj h ▸ State.flitReceive_up (hw rfl) _ _ hu
  case replayTimeout =>
    exact Host.Outcome.next.inj h ▸ State.replayTimeout_up _ hu
  case ackTimer =>
    exact Host.Outcome.next.inj h ▸ State.ackTimer_up _ hu
  case idleFlitSend =>
    exact Host.Outcome.next.inj h ▸ State.idleFlit_up _ hu
  case memRead =>
    exact Host.Outcome.next.inj h ▸ State.message_up _ _ hu
  case memWrite =>
    exact Host.Outcome.next.inj h ▸ State.message_up _ _ hu
  case submit =>
    exact Host.Outcome.next.inj h ▸ State.message_up _ _ hu
  case watch =>
    exact Host.Outcome.next.inj h ▸ State.message_up _ _ hu
  case watchMet =>
    exact Host.Outcome.next.inj h ▸ State.watchMet_up _ _ hu
  case admitMsg =>
    exact Host.Outcome.next.inj h ▸ State.message_up _ _ hu
  case ident =>
    exact Host.Outcome.next.inj h ▸ State.hostIdent_up _ _ hu
  case credit =>
    exact Host.Outcome.next.inj h ▸ State.hostCredit_up _ _ hu
  case programCompletion =>
    exact Host.Outcome.next.inj h ▸ State.programCompletion_up _ hu
  case lateNotice =>
    exact Host.Outcome.next.inj h ▸ State.lateNotices_up hu
  case hostDeparture =>
    exact Host.Outcome.next.inj h ▸ State.hostDeparture_up _ hu
  case status =>
    exact Host.Outcome.next.inj h ▸ State.answer_up _ _ _ _ _ _ hu
  case bind =>
    exact Host.Outcome.next.inj h ▸ State.manage_up _ _ _ (fun ht => State.bind_up _ _ _ ht) hu
  case unbind =>
    exact Host.Outcome.next.inj h ▸ State.manage_up _ _ _ (fun ht => State.unbind_up _ ht) hu
  case stop =>
    exact Host.Outcome.next.inj h ▸ State.manage_up _ _ _ (fun ht => State.stopCommand_up _ _ ht) hu
  case stopHoldExpiry =>
    exact Host.Outcome.next.inj h ▸ State.holdExpiry_up hu
  case start =>
    exact Host.Outcome.next.inj h ▸ State.manage_up _ _ _ (fun ht => State.startCommand_up _ _ _ ht) hu
  case eventNoticeFromHost =>
    exact Host.Outcome.next.inj h ▸ State.answer_up _ _ _ _ _ _ hu
  case mgmtUnknownCommand =>
    exact Host.Outcome.next.inj h ▸ State.unknownCommand_up _ _ hu
  case updateBegin =>
    exact Host.Outcome.next.inj h ▸ State.manage_up _ _ _ (fun ht => State.updateBegin_up (hw rfl) _ _ _ ht) hu
  case updateData =>
    exact Host.Outcome.next.inj h ▸ State.manage_up _ _ _ (fun ht => State.updateData_up (hw rfl) _ _ _ ht) hu
  case updateCommit =>
    exact Host.Outcome.next.inj h ▸ State.manage_up _ _ _ (fun ht => State.updateCommit_up (hw rfl) _ ht) hu
  case updateAbort =>
    exact Host.Outcome.next.inj h ▸ State.manage_up _ _ _ (fun ht => State.updateAbort_up _ ht) hu
  case updateSessionTimeout =>
    exact Host.Outcome.next.inj h ▸ State.sessionTimeout_up hu
  case identity =>
    exact Host.Outcome.next.inj h ▸ State.manage_up _ _ _ (fun ht => State.identity_up _ _ ht) hu
  case attest =>
    exact Host.Outcome.next.inj h ▸ State.manage_up _ _ _ (fun ht => State.attest_up _ _ ht) hu
  case logInfo =>
    exact Host.Outcome.next.inj h ▸ State.answer_up _ _ _ _ _ _ hu
  case logRead =>
    exact Host.Outcome.next.inj h ▸ State.manage_up _ _ _ (fun ht => State.logRead_up _ _ _ ht) hu
  case sensorRead =>
    exact Host.Outcome.next.inj h ▸ State.manage_up _ _ _ (fun ht => State.sensorRead_up _ _ _ ht) hu
  case powerDown =>
    exact Host.Outcome.next.inj h ▸ State.manage_up _ _ _ (fun ht => State.powerDown_up _ _ ht) hu
  case powerUp =>
    exact Host.Outcome.next.inj h ▸ State.manage_up _ _ _ (fun ht => State.powerUp_up _ ht) hu
  case sensorSample =>
    exact Host.Outcome.next.inj h ▸ State.sensorSample_up _ _ _ hu
  case standbySupplyUp =>
    exact Host.Outcome.next.inj h ▸ State.standbyUp_up hu
  case skovlaperBoot =>
    exact Host.Outcome.next.inj h ▸ State.skovBoot_up _ hu
  case mainSupplyUp =>
    exact Host.Outcome.next.inj h ▸ State.mainUp_up hu
  case mainSupplyLoss =>
    exact Host.Outcome.next.inj h ▸ State.mainDown_up _ hu
  case pwrDisChange =>
    exact Host.Outcome.next.inj h ▸ State.pwrDis_up _ hu
  case standbySupplyLoss =>
    exact Host.Outcome.next.inj h ▸ State.standbyLost_up hu
  case cxlWaitTimeout =>
    exact Host.Outcome.next.inj h ▸ State.cxlTimeout_up hu
  case heartbeatLoss =>
    exact Host.Outcome.next.inj h ▸ State.heartbeatLoss_up _ hu
  case watchdogExpiry =>
    exact Host.Outcome.next.inj h ▸ State.watchdogExpiry_up _ hu
  case watchdogKick =>
    exact Host.Outcome.next.inj h ▸ State.watchdogKick_up _ _ _ hu
  case skovlaperRejoin =>
    exact Host.Outcome.next.inj h ▸ State.skovRejoin_up _ hu
  case counterRead =>
    exact Host.Outcome.next.inj h ▸ State.windowRead_up _ _ _ _ hu
  case registerWrite =>
    exact Host.Outcome.next.inj h ▸ State.windowWrite_up _ _ _ _ hu
  case masonLoadStore =>
    exact Host.Outcome.next.inj h ▸ State.masonAccess_up _ _ _ _ _ _ hu
  case masonSaveTimeout =>
    exact Host.Outcome.next.inj h ▸ State.saveTimeout_up _ _ hu

end Sys2Proof.Machine
end

