-- ==== Sys2Proof/Laws/State.lean ====
section
/-! SUPPORT. The updates of one part of the state, field by field: the part that an update changes, and every other field as it
was. -/

namespace Sys2Proof.Machine

/-! ## updPier -/

@[simp] theorem State.pier_updPier (s : State) (p : PierId) (f : Pier → Pier) : (s.updPier p f).pier p = f (s.pier p) := by
  simp [State.pier, State.updPier]

theorem State.pier_updPier_ne (s : State) {p r : PierId} (f : Pier → Pier) (h : r ≠ p) : (s.updPier p f).pier r = s.pier r := by
  have h1 : p.val ≠ r.val := fun e => h (Fin.ext e.symm)
  simp [State.pier, State.updPier, h1]

@[simp] theorem State.quoin_updPier (s : State) (p : PierId) (f : Pier → Pier) (r : QuoinId) : (s.updPier p f).quoin r = s.quoin r := rfl
@[simp] theorem State.port_updPier (s : State) (p : PierId) (f : Pier → Pier) (r : PortId) : (s.updPier p f).port r = s.port r := rfl
@[simp] theorem State.cxlPort_updPier (s : State) (p : PierId) (f : Pier → Pier) (r : Fin 8) : (s.updPier p f).cxlPort r = s.cxlPort r := rfl
@[simp] theorem State.skov_updPier (s : State) (p : PierId) (f : Pier → Pier) (r : Bool) : (s.updPier p f).skov r = s.skov r := rfl
@[simp] theorem State.pending_updPier_eq (s : State) (p : PierId) (f : Pier → Pier) : (s.updPier p f).pending = s.pending := rfl
@[simp] theorem State.free_updPier_eq (s : State) (p : PierId) (f : Pier → Pier) : (s.updPier p f).free = s.free := rfl
@[simp] theorem State.tick_updPier_eq (s : State) (p : PierId) (f : Pier → Pier) : (s.updPier p f).tick = s.tick := rfl
@[simp] theorem State.power_updPier_eq (s : State) (p : PierId) (f : Pier → Pier) : (s.updPier p f).power = s.power := rfl
@[simp] theorem State.func_updPier_eq (s : State) (p : PierId) (f : Pier → Pier) : (s.updPier p f).func = s.func := rfl
@[simp] theorem State.mem_updPier_eq (s : State) (p : PierId) (f : Pier → Pier) : (s.updPier p f).mem = s.mem := rfl
@[simp] theorem State.poison_updPier_eq (s : State) (p : PierId) (f : Pier → Pier) : (s.updPier p f).poison = s.poison := rfl
@[simp] theorem State.quoins_updPier_eq (s : State) (p : PierId) (f : Pier → Pier) : (s.updPier p f).quoins = s.quoins := rfl
@[simp] theorem State.cxl_updPier_eq (s : State) (p : PierId) (f : Pier → Pier) : (s.updPier p f).cxl = s.cxl := rfl
@[simp] theorem State.ports_updPier_eq (s : State) (p : PierId) (f : Pier → Pier) : (s.updPier p f).ports = s.ports := rfl
@[simp] theorem State.skovs_updPier_eq (s : State) (p : PierId) (f : Pier → Pier) : (s.updPier p f).skovs = s.skovs := rfl
@[simp] theorem State.counters_updPier_eq (s : State) (p : PierId) (f : Pier → Pier) : (s.updPier p f).counters = s.counters := rfl
@[simp] theorem State.queues_updPier_eq (s : State) (p : PierId) (f : Pier → Pier) : (s.updPier p f).queues = s.queues := rfl
@[simp] theorem State.waitingSubs_updPier_eq (s : State) (p : PierId) (f : Pier → Pier) : (s.updPier p f).waitingSubs = s.waitingSubs := rfl
@[simp] theorem State.seqOnC_updPier_eq (s : State) (p : PierId) (f : Pier → Pier) : (s.updPier p f).seqOnC = s.seqOnC := rfl
@[simp] theorem State.stepBase_updPier_eq (s : State) (p : PierId) (f : Pier → Pier) : (s.updPier p f).stepBase = s.stepBase := rfl
@[simp] theorem State.stepDone_updPier_eq (s : State) (p : PierId) (f : Pier → Pier) : (s.updPier p f).stepDone = s.stepDone := rfl
@[simp] theorem State.uRan_updPier_eq (s : State) (p : PierId) (f : Pier → Pier) : (s.updPier p f).uRan = s.uRan := rfl
@[simp] theorem State.laneSpares_updPier_eq (s : State) (p : PierId) (f : Pier → Pier) : (s.updPier p f).laneSpares = s.laneSpares := rfl
@[simp] theorem State.linkFails_updPier_eq (s : State) (p : PierId) (f : Pier → Pier) : (s.updPier p f).linkFails = s.linkFails := rfl
@[simp] theorem State.groupFails_updPier_eq (s : State) (p : PierId) (f : Pier → Pier) : (s.updPier p f).groupFails = s.groupFails := rfl
@[simp] theorem State.linkCycles_updPier_eq (s : State) (p : PierId) (f : Pier → Pier) : (s.updPier p f).linkCycles = s.linkCycles := rfl
@[simp] theorem State.retired_updPier_eq (s : State) (p : PierId) (f : Pier → Pier) : (s.updPier p f).retired = s.retired := rfl
@[simp] theorem State.testing_updPier_eq (s : State) (p : PierId) (f : Pier → Pier) : (s.updPier p f).testing = s.testing := rfl
@[simp] theorem State.edgeRot_updPier_eq (s : State) (p : PierId) (f : Pier → Pier) : (s.updPier p f).edgeRot = s.edgeRot := rfl
@[simp] theorem State.linkHeld_updPier_eq (s : State) (p : PierId) (f : Pier → Pier) : (s.updPier p f).linkHeld = s.linkHeld := rfl
@[simp] theorem State.crossHeld_updPier_eq (s : State) (p : PierId) (f : Pier → Pier) : (s.updPier p f).crossHeld = s.crossHeld := rfl
@[simp] theorem State.crossPtr_updPier_eq (s : State) (p : PierId) (f : Pier → Pier) : (s.updPier p f).crossPtr = s.crossPtr := rfl
@[simp] theorem State.promises_updPier_eq (s : State) (p : PierId) (f : Pier → Pier) : (s.updPier p f).promises = s.promises := rfl
@[simp] theorem State.commit_updPier_eq (s : State) (p : PierId) (f : Pier → Pier) : (s.updPier p f).commit = s.commit := rfl
@[simp] theorem State.accepts_updPier_eq (s : State) (p : PierId) (f : Pier → Pier) : (s.updPier p f).accepts = s.accepts := rfl
@[simp] theorem State.requests_updPier_eq (s : State) (p : PierId) (f : Pier → Pier) : (s.updPier p f).requests = s.requests := rfl
@[simp] theorem State.requestCount_updPier_eq (s : State) (p : PierId) (f : Pier → Pier) : (s.updPier p f).requestCount = s.requestCount := rfl
@[simp] theorem State.sounding_updPier_eq (s : State) (p : PierId) (f : Pier → Pier) : (s.updPier p f).sounding = s.sounding := rfl
@[simp] theorem State.degraded_updPier_eq (s : State) (p : PierId) (f : Pier → Pier) : (s.updPier p f).degraded = s.degraded := rfl
@[simp] theorem State.sensorValue_updPier_eq (s : State) (p : PierId) (f : Pier → Pier) : (s.updPier p f).sensorValue = s.sensorValue := rfl
@[simp] theorem State.sensorLevel_updPier_eq (s : State) (p : PierId) (f : Pier → Pier) : (s.updPier p f).sensorLevel = s.sensorLevel := rfl
@[simp] theorem State.sensorValid_updPier_eq (s : State) (p : PierId) (f : Pier → Pier) : (s.updPier p f).sensorValid = s.sensorValid := rfl
@[simp] theorem State.sensorSince_updPier_eq (s : State) (p : PierId) (f : Pier → Pier) : (s.updPier p f).sensorSince = s.sensorSince := rfl
@[simp] theorem State.held_updPier_eq (s : State) (p : PierId) (f : Pier → Pier) : (s.updPier p f).held = s.held := rfl
@[simp] theorem State.log0_updPier_eq (s : State) (p : PierId) (f : Pier → Pier) : (s.updPier p f).log0 = s.log0 := rfl
@[simp] theorem State.log1_updPier_eq (s : State) (p : PierId) (f : Pier → Pier) : (s.updPier p f).log1 = s.log1 := rfl
@[simp] theorem State.recordCount_updPier_eq (s : State) (p : PierId) (f : Pier → Pier) : (s.updPier p f).recordCount = s.recordCount := rfl
@[simp] theorem State.flash0_updPier_eq (s : State) (p : PierId) (f : Pier → Pier) : (s.updPier p f).flash0 = s.flash0 := rfl
@[simp] theorem State.flash1_updPier_eq (s : State) (p : PierId) (f : Pier → Pier) : (s.updPier p f).flash1 = s.flash1 := rfl
@[simp] theorem State.erased0_updPier_eq (s : State) (p : PierId) (f : Pier → Pier) : (s.updPier p f).erased0 = s.erased0 := rfl
@[simp] theorem State.erased1_updPier_eq (s : State) (p : PierId) (f : Pier → Pier) : (s.updPier p f).erased1 = s.erased1 := rfl
@[simp] theorem State.session_updPier_eq (s : State) (p : PierId) (f : Pier → Pier) : (s.updPier p f).session = s.session := rfl
@[simp] theorem State.smbus_updPier_eq (s : State) (p : PierId) (f : Pier → Pier) : (s.updPier p f).smbus = s.smbus := rfl
@[simp] theorem State.linkKept_updPier_eq (s : State) (p : PierId) (f : Pier → Pier) : (s.updPier p f).linkKept = s.linkKept := rfl
@[simp] theorem State.admits_updPier_eq (s : State) (p : PierId) (f : Pier → Pier) : (s.updPier p f).admits = s.admits := rfl
@[simp] theorem State.admitRot_updPier_eq (s : State) (p : PierId) (f : Pier → Pier) : (s.updPier p f).admitRot = s.admitRot := rfl
@[simp] theorem State.portRot_updPier_eq (s : State) (p : PierId) (f : Pier → Pier) : (s.updPier p f).portRot = s.portRot := rfl
@[simp] theorem State.unsent_updPier_eq (s : State) (p : PierId) (f : Pier → Pier) : (s.updPier p f).unsent = s.unsent := rfl

/-! ## updQuoin -/

@[simp] theorem State.quoin_updQuoin (s : State) (q : QuoinId) (f : Quoin → Quoin) : (s.updQuoin q f).quoin q = f (s.quoin q) := by
  simp [State.quoin, State.updQuoin]

theorem State.quoin_updQuoin_ne (s : State) {q r : QuoinId} (f : Quoin → Quoin) (h : r ≠ q) : (s.updQuoin q f).quoin r = s.quoin r := by
  have h1 : q.val ≠ r.val := fun e => h (Fin.ext e.symm)
  simp [State.quoin, State.updQuoin, h1]

@[simp] theorem State.pier_updQuoin (s : State) (q : QuoinId) (f : Quoin → Quoin) (r : PierId) : (s.updQuoin q f).pier r = s.pier r := rfl
@[simp] theorem State.port_updQuoin (s : State) (q : QuoinId) (f : Quoin → Quoin) (r : PortId) : (s.updQuoin q f).port r = s.port r := rfl
@[simp] theorem State.cxlPort_updQuoin (s : State) (q : QuoinId) (f : Quoin → Quoin) (r : Fin 8) : (s.updQuoin q f).cxlPort r = s.cxlPort r := rfl
@[simp] theorem State.skov_updQuoin (s : State) (q : QuoinId) (f : Quoin → Quoin) (r : Bool) : (s.updQuoin q f).skov r = s.skov r := rfl
@[simp] theorem State.pending_updQuoin_eq (s : State) (q : QuoinId) (f : Quoin → Quoin) : (s.updQuoin q f).pending = s.pending := rfl
@[simp] theorem State.free_updQuoin_eq (s : State) (q : QuoinId) (f : Quoin → Quoin) : (s.updQuoin q f).free = s.free := rfl
@[simp] theorem State.tick_updQuoin_eq (s : State) (q : QuoinId) (f : Quoin → Quoin) : (s.updQuoin q f).tick = s.tick := rfl
@[simp] theorem State.power_updQuoin_eq (s : State) (q : QuoinId) (f : Quoin → Quoin) : (s.updQuoin q f).power = s.power := rfl
@[simp] theorem State.func_updQuoin_eq (s : State) (q : QuoinId) (f : Quoin → Quoin) : (s.updQuoin q f).func = s.func := rfl
@[simp] theorem State.mem_updQuoin_eq (s : State) (q : QuoinId) (f : Quoin → Quoin) : (s.updQuoin q f).mem = s.mem := rfl
@[simp] theorem State.poison_updQuoin_eq (s : State) (q : QuoinId) (f : Quoin → Quoin) : (s.updQuoin q f).poison = s.poison := rfl
@[simp] theorem State.piers_updQuoin_eq (s : State) (q : QuoinId) (f : Quoin → Quoin) : (s.updQuoin q f).piers = s.piers := rfl
@[simp] theorem State.cxl_updQuoin_eq (s : State) (q : QuoinId) (f : Quoin → Quoin) : (s.updQuoin q f).cxl = s.cxl := rfl
@[simp] theorem State.ports_updQuoin_eq (s : State) (q : QuoinId) (f : Quoin → Quoin) : (s.updQuoin q f).ports = s.ports := rfl
@[simp] theorem State.skovs_updQuoin_eq (s : State) (q : QuoinId) (f : Quoin → Quoin) : (s.updQuoin q f).skovs = s.skovs := rfl
@[simp] theorem State.counters_updQuoin_eq (s : State) (q : QuoinId) (f : Quoin → Quoin) : (s.updQuoin q f).counters = s.counters := rfl
@[simp] theorem State.queues_updQuoin_eq (s : State) (q : QuoinId) (f : Quoin → Quoin) : (s.updQuoin q f).queues = s.queues := rfl
@[simp] theorem State.waitingSubs_updQuoin_eq (s : State) (q : QuoinId) (f : Quoin → Quoin) : (s.updQuoin q f).waitingSubs = s.waitingSubs := rfl
@[simp] theorem State.seqOnC_updQuoin_eq (s : State) (q : QuoinId) (f : Quoin → Quoin) : (s.updQuoin q f).seqOnC = s.seqOnC := rfl
@[simp] theorem State.stepBase_updQuoin_eq (s : State) (q : QuoinId) (f : Quoin → Quoin) : (s.updQuoin q f).stepBase = s.stepBase := rfl
@[simp] theorem State.stepDone_updQuoin_eq (s : State) (q : QuoinId) (f : Quoin → Quoin) : (s.updQuoin q f).stepDone = s.stepDone := rfl
@[simp] theorem State.uRan_updQuoin_eq (s : State) (q : QuoinId) (f : Quoin → Quoin) : (s.updQuoin q f).uRan = s.uRan := rfl
@[simp] theorem State.laneSpares_updQuoin_eq (s : State) (q : QuoinId) (f : Quoin → Quoin) : (s.updQuoin q f).laneSpares = s.laneSpares := rfl
@[simp] theorem State.linkFails_updQuoin_eq (s : State) (q : QuoinId) (f : Quoin → Quoin) : (s.updQuoin q f).linkFails = s.linkFails := rfl
@[simp] theorem State.groupFails_updQuoin_eq (s : State) (q : QuoinId) (f : Quoin → Quoin) : (s.updQuoin q f).groupFails = s.groupFails := rfl
@[simp] theorem State.linkCycles_updQuoin_eq (s : State) (q : QuoinId) (f : Quoin → Quoin) : (s.updQuoin q f).linkCycles = s.linkCycles := rfl
@[simp] theorem State.retired_updQuoin_eq (s : State) (q : QuoinId) (f : Quoin → Quoin) : (s.updQuoin q f).retired = s.retired := rfl
@[simp] theorem State.testing_updQuoin_eq (s : State) (q : QuoinId) (f : Quoin → Quoin) : (s.updQuoin q f).testing = s.testing := rfl
@[simp] theorem State.edgeRot_updQuoin_eq (s : State) (q : QuoinId) (f : Quoin → Quoin) : (s.updQuoin q f).edgeRot = s.edgeRot := rfl
@[simp] theorem State.linkHeld_updQuoin_eq (s : State) (q : QuoinId) (f : Quoin → Quoin) : (s.updQuoin q f).linkHeld = s.linkHeld := rfl
@[simp] theorem State.crossHeld_updQuoin_eq (s : State) (q : QuoinId) (f : Quoin → Quoin) : (s.updQuoin q f).crossHeld = s.crossHeld := rfl
@[simp] theorem State.crossPtr_updQuoin_eq (s : State) (q : QuoinId) (f : Quoin → Quoin) : (s.updQuoin q f).crossPtr = s.crossPtr := rfl
@[simp] theorem State.promises_updQuoin_eq (s : State) (q : QuoinId) (f : Quoin → Quoin) : (s.updQuoin q f).promises = s.promises := rfl
@[simp] theorem State.commit_updQuoin_eq (s : State) (q : QuoinId) (f : Quoin → Quoin) : (s.updQuoin q f).commit = s.commit := rfl
@[simp] theorem State.accepts_updQuoin_eq (s : State) (q : QuoinId) (f : Quoin → Quoin) : (s.updQuoin q f).accepts = s.accepts := rfl
@[simp] theorem State.requests_updQuoin_eq (s : State) (q : QuoinId) (f : Quoin → Quoin) : (s.updQuoin q f).requests = s.requests := rfl
@[simp] theorem State.requestCount_updQuoin_eq (s : State) (q : QuoinId) (f : Quoin → Quoin) : (s.updQuoin q f).requestCount = s.requestCount := rfl
@[simp] theorem State.sounding_updQuoin_eq (s : State) (q : QuoinId) (f : Quoin → Quoin) : (s.updQuoin q f).sounding = s.sounding := rfl
@[simp] theorem State.degraded_updQuoin_eq (s : State) (q : QuoinId) (f : Quoin → Quoin) : (s.updQuoin q f).degraded = s.degraded := rfl
@[simp] theorem State.sensorValue_updQuoin_eq (s : State) (q : QuoinId) (f : Quoin → Quoin) : (s.updQuoin q f).sensorValue = s.sensorValue := rfl
@[simp] theorem State.sensorLevel_updQuoin_eq (s : State) (q : QuoinId) (f : Quoin → Quoin) : (s.updQuoin q f).sensorLevel = s.sensorLevel := rfl
@[simp] theorem State.sensorValid_updQuoin_eq (s : State) (q : QuoinId) (f : Quoin → Quoin) : (s.updQuoin q f).sensorValid = s.sensorValid := rfl
@[simp] theorem State.sensorSince_updQuoin_eq (s : State) (q : QuoinId) (f : Quoin → Quoin) : (s.updQuoin q f).sensorSince = s.sensorSince := rfl
@[simp] theorem State.held_updQuoin_eq (s : State) (q : QuoinId) (f : Quoin → Quoin) : (s.updQuoin q f).held = s.held := rfl
@[simp] theorem State.log0_updQuoin_eq (s : State) (q : QuoinId) (f : Quoin → Quoin) : (s.updQuoin q f).log0 = s.log0 := rfl
@[simp] theorem State.log1_updQuoin_eq (s : State) (q : QuoinId) (f : Quoin → Quoin) : (s.updQuoin q f).log1 = s.log1 := rfl
@[simp] theorem State.recordCount_updQuoin_eq (s : State) (q : QuoinId) (f : Quoin → Quoin) : (s.updQuoin q f).recordCount = s.recordCount := rfl
@[simp] theorem State.flash0_updQuoin_eq (s : State) (q : QuoinId) (f : Quoin → Quoin) : (s.updQuoin q f).flash0 = s.flash0 := rfl
@[simp] theorem State.flash1_updQuoin_eq (s : State) (q : QuoinId) (f : Quoin → Quoin) : (s.updQuoin q f).flash1 = s.flash1 := rfl
@[simp] theorem State.erased0_updQuoin_eq (s : State) (q : QuoinId) (f : Quoin → Quoin) : (s.updQuoin q f).erased0 = s.erased0 := rfl
@[simp] theorem State.erased1_updQuoin_eq (s : State) (q : QuoinId) (f : Quoin → Quoin) : (s.updQuoin q f).erased1 = s.erased1 := rfl
@[simp] theorem State.session_updQuoin_eq (s : State) (q : QuoinId) (f : Quoin → Quoin) : (s.updQuoin q f).session = s.session := rfl
@[simp] theorem State.smbus_updQuoin_eq (s : State) (q : QuoinId) (f : Quoin → Quoin) : (s.updQuoin q f).smbus = s.smbus := rfl
@[simp] theorem State.linkKept_updQuoin_eq (s : State) (q : QuoinId) (f : Quoin → Quoin) : (s.updQuoin q f).linkKept = s.linkKept := rfl
@[simp] theorem State.admits_updQuoin_eq (s : State) (q : QuoinId) (f : Quoin → Quoin) : (s.updQuoin q f).admits = s.admits := rfl
@[simp] theorem State.admitRot_updQuoin_eq (s : State) (q : QuoinId) (f : Quoin → Quoin) : (s.updQuoin q f).admitRot = s.admitRot := rfl
@[simp] theorem State.portRot_updQuoin_eq (s : State) (q : QuoinId) (f : Quoin → Quoin) : (s.updQuoin q f).portRot = s.portRot := rfl
@[simp] theorem State.unsent_updQuoin_eq (s : State) (q : QuoinId) (f : Quoin → Quoin) : (s.updQuoin q f).unsent = s.unsent := rfl

/-! ## updPort -/

@[simp] theorem State.port_updPort (s : State) (p : PortId) (f : Port → Port) : (s.updPort p f).port p = f (s.port p) := by
  simp [State.port, State.updPort]

theorem State.port_updPort_ne (s : State) {p r : PortId} (f : Port → Port) (h : r ≠ p) : (s.updPort p f).port r = s.port r := by
  have h1 : p.val ≠ r.val := fun e => h (Fin.ext e.symm)
  simp [State.port, State.updPort, h1]

@[simp] theorem State.pier_updPort (s : State) (p : PortId) (f : Port → Port) (r : PierId) : (s.updPort p f).pier r = s.pier r := rfl
@[simp] theorem State.quoin_updPort (s : State) (p : PortId) (f : Port → Port) (r : QuoinId) : (s.updPort p f).quoin r = s.quoin r := rfl
@[simp] theorem State.cxlPort_updPort (s : State) (p : PortId) (f : Port → Port) (r : Fin 8) : (s.updPort p f).cxlPort r = s.cxlPort r := rfl
@[simp] theorem State.skov_updPort (s : State) (p : PortId) (f : Port → Port) (r : Bool) : (s.updPort p f).skov r = s.skov r := rfl
@[simp] theorem State.pending_updPort_eq (s : State) (p : PortId) (f : Port → Port) : (s.updPort p f).pending = s.pending := rfl
@[simp] theorem State.free_updPort_eq (s : State) (p : PortId) (f : Port → Port) : (s.updPort p f).free = s.free := rfl
@[simp] theorem State.tick_updPort_eq (s : State) (p : PortId) (f : Port → Port) : (s.updPort p f).tick = s.tick := rfl
@[simp] theorem State.power_updPort_eq (s : State) (p : PortId) (f : Port → Port) : (s.updPort p f).power = s.power := rfl
@[simp] theorem State.func_updPort_eq (s : State) (p : PortId) (f : Port → Port) : (s.updPort p f).func = s.func := rfl
@[simp] theorem State.mem_updPort_eq (s : State) (p : PortId) (f : Port → Port) : (s.updPort p f).mem = s.mem := rfl
@[simp] theorem State.poison_updPort_eq (s : State) (p : PortId) (f : Port → Port) : (s.updPort p f).poison = s.poison := rfl
@[simp] theorem State.piers_updPort_eq (s : State) (p : PortId) (f : Port → Port) : (s.updPort p f).piers = s.piers := rfl
@[simp] theorem State.quoins_updPort_eq (s : State) (p : PortId) (f : Port → Port) : (s.updPort p f).quoins = s.quoins := rfl
@[simp] theorem State.cxl_updPort_eq (s : State) (p : PortId) (f : Port → Port) : (s.updPort p f).cxl = s.cxl := rfl
@[simp] theorem State.skovs_updPort_eq (s : State) (p : PortId) (f : Port → Port) : (s.updPort p f).skovs = s.skovs := rfl
@[simp] theorem State.counters_updPort_eq (s : State) (p : PortId) (f : Port → Port) : (s.updPort p f).counters = s.counters := rfl
@[simp] theorem State.queues_updPort_eq (s : State) (p : PortId) (f : Port → Port) : (s.updPort p f).queues = s.queues := rfl
@[simp] theorem State.waitingSubs_updPort_eq (s : State) (p : PortId) (f : Port → Port) : (s.updPort p f).waitingSubs = s.waitingSubs := rfl
@[simp] theorem State.seqOnC_updPort_eq (s : State) (p : PortId) (f : Port → Port) : (s.updPort p f).seqOnC = s.seqOnC := rfl
@[simp] theorem State.stepBase_updPort_eq (s : State) (p : PortId) (f : Port → Port) : (s.updPort p f).stepBase = s.stepBase := rfl
@[simp] theorem State.stepDone_updPort_eq (s : State) (p : PortId) (f : Port → Port) : (s.updPort p f).stepDone = s.stepDone := rfl
@[simp] theorem State.uRan_updPort_eq (s : State) (p : PortId) (f : Port → Port) : (s.updPort p f).uRan = s.uRan := rfl
@[simp] theorem State.laneSpares_updPort_eq (s : State) (p : PortId) (f : Port → Port) : (s.updPort p f).laneSpares = s.laneSpares := rfl
@[simp] theorem State.linkFails_updPort_eq (s : State) (p : PortId) (f : Port → Port) : (s.updPort p f).linkFails = s.linkFails := rfl
@[simp] theorem State.groupFails_updPort_eq (s : State) (p : PortId) (f : Port → Port) : (s.updPort p f).groupFails = s.groupFails := rfl
@[simp] theorem State.linkCycles_updPort_eq (s : State) (p : PortId) (f : Port → Port) : (s.updPort p f).linkCycles = s.linkCycles := rfl
@[simp] theorem State.retired_updPort_eq (s : State) (p : PortId) (f : Port → Port) : (s.updPort p f).retired = s.retired := rfl
@[simp] theorem State.testing_updPort_eq (s : State) (p : PortId) (f : Port → Port) : (s.updPort p f).testing = s.testing := rfl
@[simp] theorem State.edgeRot_updPort_eq (s : State) (p : PortId) (f : Port → Port) : (s.updPort p f).edgeRot = s.edgeRot := rfl
@[simp] theorem State.linkHeld_updPort_eq (s : State) (p : PortId) (f : Port → Port) : (s.updPort p f).linkHeld = s.linkHeld := rfl
@[simp] theorem State.crossHeld_updPort_eq (s : State) (p : PortId) (f : Port → Port) : (s.updPort p f).crossHeld = s.crossHeld := rfl
@[simp] theorem State.crossPtr_updPort_eq (s : State) (p : PortId) (f : Port → Port) : (s.updPort p f).crossPtr = s.crossPtr := rfl
@[simp] theorem State.promises_updPort_eq (s : State) (p : PortId) (f : Port → Port) : (s.updPort p f).promises = s.promises := rfl
@[simp] theorem State.commit_updPort_eq (s : State) (p : PortId) (f : Port → Port) : (s.updPort p f).commit = s.commit := rfl
@[simp] theorem State.accepts_updPort_eq (s : State) (p : PortId) (f : Port → Port) : (s.updPort p f).accepts = s.accepts := rfl
@[simp] theorem State.requests_updPort_eq (s : State) (p : PortId) (f : Port → Port) : (s.updPort p f).requests = s.requests := rfl
@[simp] theorem State.requestCount_updPort_eq (s : State) (p : PortId) (f : Port → Port) : (s.updPort p f).requestCount = s.requestCount := rfl
@[simp] theorem State.sounding_updPort_eq (s : State) (p : PortId) (f : Port → Port) : (s.updPort p f).sounding = s.sounding := rfl
@[simp] theorem State.degraded_updPort_eq (s : State) (p : PortId) (f : Port → Port) : (s.updPort p f).degraded = s.degraded := rfl
@[simp] theorem State.sensorValue_updPort_eq (s : State) (p : PortId) (f : Port → Port) : (s.updPort p f).sensorValue = s.sensorValue := rfl
@[simp] theorem State.sensorLevel_updPort_eq (s : State) (p : PortId) (f : Port → Port) : (s.updPort p f).sensorLevel = s.sensorLevel := rfl
@[simp] theorem State.sensorValid_updPort_eq (s : State) (p : PortId) (f : Port → Port) : (s.updPort p f).sensorValid = s.sensorValid := rfl
@[simp] theorem State.sensorSince_updPort_eq (s : State) (p : PortId) (f : Port → Port) : (s.updPort p f).sensorSince = s.sensorSince := rfl
@[simp] theorem State.held_updPort_eq (s : State) (p : PortId) (f : Port → Port) : (s.updPort p f).held = s.held := rfl
@[simp] theorem State.log0_updPort_eq (s : State) (p : PortId) (f : Port → Port) : (s.updPort p f).log0 = s.log0 := rfl
@[simp] theorem State.log1_updPort_eq (s : State) (p : PortId) (f : Port → Port) : (s.updPort p f).log1 = s.log1 := rfl
@[simp] theorem State.recordCount_updPort_eq (s : State) (p : PortId) (f : Port → Port) : (s.updPort p f).recordCount = s.recordCount := rfl
@[simp] theorem State.flash0_updPort_eq (s : State) (p : PortId) (f : Port → Port) : (s.updPort p f).flash0 = s.flash0 := rfl
@[simp] theorem State.flash1_updPort_eq (s : State) (p : PortId) (f : Port → Port) : (s.updPort p f).flash1 = s.flash1 := rfl
@[simp] theorem State.erased0_updPort_eq (s : State) (p : PortId) (f : Port → Port) : (s.updPort p f).erased0 = s.erased0 := rfl
@[simp] theorem State.erased1_updPort_eq (s : State) (p : PortId) (f : Port → Port) : (s.updPort p f).erased1 = s.erased1 := rfl
@[simp] theorem State.session_updPort_eq (s : State) (p : PortId) (f : Port → Port) : (s.updPort p f).session = s.session := rfl
@[simp] theorem State.smbus_updPort_eq (s : State) (p : PortId) (f : Port → Port) : (s.updPort p f).smbus = s.smbus := rfl
@[simp] theorem State.linkKept_updPort_eq (s : State) (p : PortId) (f : Port → Port) : (s.updPort p f).linkKept = s.linkKept := rfl
@[simp] theorem State.admits_updPort_eq (s : State) (p : PortId) (f : Port → Port) : (s.updPort p f).admits = s.admits := rfl
@[simp] theorem State.admitRot_updPort_eq (s : State) (p : PortId) (f : Port → Port) : (s.updPort p f).admitRot = s.admitRot := rfl
@[simp] theorem State.portRot_updPort_eq (s : State) (p : PortId) (f : Port → Port) : (s.updPort p f).portRot = s.portRot := rfl
@[simp] theorem State.unsent_updPort_eq (s : State) (p : PortId) (f : Port → Port) : (s.updPort p f).unsent = s.unsent := rfl

/-! ## updCxl -/

@[simp] theorem State.cxlPort_updCxl (s : State) (q : Fin 8) (f : CxlPort → CxlPort) : (s.updCxl q f).cxlPort q = f (s.cxlPort q) := by
  simp [State.cxlPort, State.updCxl]

theorem State.cxlPort_updCxl_ne (s : State) {q r : Fin 8} (f : CxlPort → CxlPort) (h : r ≠ q) : (s.updCxl q f).cxlPort r = s.cxlPort r := by
  have h1 : q.val ≠ r.val := fun e => h (Fin.ext e.symm)
  simp [State.cxlPort, State.updCxl, h1]

@[simp] theorem State.pier_updCxl (s : State) (q : Fin 8) (f : CxlPort → CxlPort) (r : PierId) : (s.updCxl q f).pier r = s.pier r := rfl
@[simp] theorem State.quoin_updCxl (s : State) (q : Fin 8) (f : CxlPort → CxlPort) (r : QuoinId) : (s.updCxl q f).quoin r = s.quoin r := rfl
@[simp] theorem State.port_updCxl (s : State) (q : Fin 8) (f : CxlPort → CxlPort) (r : PortId) : (s.updCxl q f).port r = s.port r := rfl
@[simp] theorem State.skov_updCxl (s : State) (q : Fin 8) (f : CxlPort → CxlPort) (r : Bool) : (s.updCxl q f).skov r = s.skov r := rfl
@[simp] theorem State.pending_updCxl_eq (s : State) (q : Fin 8) (f : CxlPort → CxlPort) : (s.updCxl q f).pending = s.pending := rfl
@[simp] theorem State.free_updCxl_eq (s : State) (q : Fin 8) (f : CxlPort → CxlPort) : (s.updCxl q f).free = s.free := rfl
@[simp] theorem State.tick_updCxl_eq (s : State) (q : Fin 8) (f : CxlPort → CxlPort) : (s.updCxl q f).tick = s.tick := rfl
@[simp] theorem State.power_updCxl_eq (s : State) (q : Fin 8) (f : CxlPort → CxlPort) : (s.updCxl q f).power = s.power := rfl
@[simp] theorem State.func_updCxl_eq (s : State) (q : Fin 8) (f : CxlPort → CxlPort) : (s.updCxl q f).func = s.func := rfl
@[simp] theorem State.mem_updCxl_eq (s : State) (q : Fin 8) (f : CxlPort → CxlPort) : (s.updCxl q f).mem = s.mem := rfl
@[simp] theorem State.poison_updCxl_eq (s : State) (q : Fin 8) (f : CxlPort → CxlPort) : (s.updCxl q f).poison = s.poison := rfl
@[simp] theorem State.piers_updCxl_eq (s : State) (q : Fin 8) (f : CxlPort → CxlPort) : (s.updCxl q f).piers = s.piers := rfl
@[simp] theorem State.quoins_updCxl_eq (s : State) (q : Fin 8) (f : CxlPort → CxlPort) : (s.updCxl q f).quoins = s.quoins := rfl
@[simp] theorem State.ports_updCxl_eq (s : State) (q : Fin 8) (f : CxlPort → CxlPort) : (s.updCxl q f).ports = s.ports := rfl
@[simp] theorem State.skovs_updCxl_eq (s : State) (q : Fin 8) (f : CxlPort → CxlPort) : (s.updCxl q f).skovs = s.skovs := rfl
@[simp] theorem State.counters_updCxl_eq (s : State) (q : Fin 8) (f : CxlPort → CxlPort) : (s.updCxl q f).counters = s.counters := rfl
@[simp] theorem State.queues_updCxl_eq (s : State) (q : Fin 8) (f : CxlPort → CxlPort) : (s.updCxl q f).queues = s.queues := rfl
@[simp] theorem State.waitingSubs_updCxl_eq (s : State) (q : Fin 8) (f : CxlPort → CxlPort) : (s.updCxl q f).waitingSubs = s.waitingSubs := rfl
@[simp] theorem State.seqOnC_updCxl_eq (s : State) (q : Fin 8) (f : CxlPort → CxlPort) : (s.updCxl q f).seqOnC = s.seqOnC := rfl
@[simp] theorem State.stepBase_updCxl_eq (s : State) (q : Fin 8) (f : CxlPort → CxlPort) : (s.updCxl q f).stepBase = s.stepBase := rfl
@[simp] theorem State.stepDone_updCxl_eq (s : State) (q : Fin 8) (f : CxlPort → CxlPort) : (s.updCxl q f).stepDone = s.stepDone := rfl
@[simp] theorem State.uRan_updCxl_eq (s : State) (q : Fin 8) (f : CxlPort → CxlPort) : (s.updCxl q f).uRan = s.uRan := rfl
@[simp] theorem State.laneSpares_updCxl_eq (s : State) (q : Fin 8) (f : CxlPort → CxlPort) : (s.updCxl q f).laneSpares = s.laneSpares := rfl
@[simp] theorem State.linkFails_updCxl_eq (s : State) (q : Fin 8) (f : CxlPort → CxlPort) : (s.updCxl q f).linkFails = s.linkFails := rfl
@[simp] theorem State.groupFails_updCxl_eq (s : State) (q : Fin 8) (f : CxlPort → CxlPort) : (s.updCxl q f).groupFails = s.groupFails := rfl
@[simp] theorem State.linkCycles_updCxl_eq (s : State) (q : Fin 8) (f : CxlPort → CxlPort) : (s.updCxl q f).linkCycles = s.linkCycles := rfl
@[simp] theorem State.retired_updCxl_eq (s : State) (q : Fin 8) (f : CxlPort → CxlPort) : (s.updCxl q f).retired = s.retired := rfl
@[simp] theorem State.testing_updCxl_eq (s : State) (q : Fin 8) (f : CxlPort → CxlPort) : (s.updCxl q f).testing = s.testing := rfl
@[simp] theorem State.edgeRot_updCxl_eq (s : State) (q : Fin 8) (f : CxlPort → CxlPort) : (s.updCxl q f).edgeRot = s.edgeRot := rfl
@[simp] theorem State.linkHeld_updCxl_eq (s : State) (q : Fin 8) (f : CxlPort → CxlPort) : (s.updCxl q f).linkHeld = s.linkHeld := rfl
@[simp] theorem State.crossHeld_updCxl_eq (s : State) (q : Fin 8) (f : CxlPort → CxlPort) : (s.updCxl q f).crossHeld = s.crossHeld := rfl
@[simp] theorem State.crossPtr_updCxl_eq (s : State) (q : Fin 8) (f : CxlPort → CxlPort) : (s.updCxl q f).crossPtr = s.crossPtr := rfl
@[simp] theorem State.promises_updCxl_eq (s : State) (q : Fin 8) (f : CxlPort → CxlPort) : (s.updCxl q f).promises = s.promises := rfl
@[simp] theorem State.commit_updCxl_eq (s : State) (q : Fin 8) (f : CxlPort → CxlPort) : (s.updCxl q f).commit = s.commit := rfl
@[simp] theorem State.accepts_updCxl_eq (s : State) (q : Fin 8) (f : CxlPort → CxlPort) : (s.updCxl q f).accepts = s.accepts := rfl
@[simp] theorem State.requests_updCxl_eq (s : State) (q : Fin 8) (f : CxlPort → CxlPort) : (s.updCxl q f).requests = s.requests := rfl
@[simp] theorem State.requestCount_updCxl_eq (s : State) (q : Fin 8) (f : CxlPort → CxlPort) : (s.updCxl q f).requestCount = s.requestCount := rfl
@[simp] theorem State.sounding_updCxl_eq (s : State) (q : Fin 8) (f : CxlPort → CxlPort) : (s.updCxl q f).sounding = s.sounding := rfl
@[simp] theorem State.degraded_updCxl_eq (s : State) (q : Fin 8) (f : CxlPort → CxlPort) : (s.updCxl q f).degraded = s.degraded := rfl
@[simp] theorem State.sensorValue_updCxl_eq (s : State) (q : Fin 8) (f : CxlPort → CxlPort) : (s.updCxl q f).sensorValue = s.sensorValue := rfl
@[simp] theorem State.sensorLevel_updCxl_eq (s : State) (q : Fin 8) (f : CxlPort → CxlPort) : (s.updCxl q f).sensorLevel = s.sensorLevel := rfl
@[simp] theorem State.sensorValid_updCxl_eq (s : State) (q : Fin 8) (f : CxlPort → CxlPort) : (s.updCxl q f).sensorValid = s.sensorValid := rfl
@[simp] theorem State.sensorSince_updCxl_eq (s : State) (q : Fin 8) (f : CxlPort → CxlPort) : (s.updCxl q f).sensorSince = s.sensorSince := rfl
@[simp] theorem State.held_updCxl_eq (s : State) (q : Fin 8) (f : CxlPort → CxlPort) : (s.updCxl q f).held = s.held := rfl
@[simp] theorem State.log0_updCxl_eq (s : State) (q : Fin 8) (f : CxlPort → CxlPort) : (s.updCxl q f).log0 = s.log0 := rfl
@[simp] theorem State.log1_updCxl_eq (s : State) (q : Fin 8) (f : CxlPort → CxlPort) : (s.updCxl q f).log1 = s.log1 := rfl
@[simp] theorem State.recordCount_updCxl_eq (s : State) (q : Fin 8) (f : CxlPort → CxlPort) : (s.updCxl q f).recordCount = s.recordCount := rfl
@[simp] theorem State.flash0_updCxl_eq (s : State) (q : Fin 8) (f : CxlPort → CxlPort) : (s.updCxl q f).flash0 = s.flash0 := rfl
@[simp] theorem State.flash1_updCxl_eq (s : State) (q : Fin 8) (f : CxlPort → CxlPort) : (s.updCxl q f).flash1 = s.flash1 := rfl
@[simp] theorem State.erased0_updCxl_eq (s : State) (q : Fin 8) (f : CxlPort → CxlPort) : (s.updCxl q f).erased0 = s.erased0 := rfl
@[simp] theorem State.erased1_updCxl_eq (s : State) (q : Fin 8) (f : CxlPort → CxlPort) : (s.updCxl q f).erased1 = s.erased1 := rfl
@[simp] theorem State.session_updCxl_eq (s : State) (q : Fin 8) (f : CxlPort → CxlPort) : (s.updCxl q f).session = s.session := rfl
@[simp] theorem State.smbus_updCxl_eq (s : State) (q : Fin 8) (f : CxlPort → CxlPort) : (s.updCxl q f).smbus = s.smbus := rfl
@[simp] theorem State.linkKept_updCxl_eq (s : State) (q : Fin 8) (f : CxlPort → CxlPort) : (s.updCxl q f).linkKept = s.linkKept := rfl
@[simp] theorem State.admits_updCxl_eq (s : State) (q : Fin 8) (f : CxlPort → CxlPort) : (s.updCxl q f).admits = s.admits := rfl
@[simp] theorem State.admitRot_updCxl_eq (s : State) (q : Fin 8) (f : CxlPort → CxlPort) : (s.updCxl q f).admitRot = s.admitRot := rfl
@[simp] theorem State.portRot_updCxl_eq (s : State) (q : Fin 8) (f : CxlPort → CxlPort) : (s.updCxl q f).portRot = s.portRot := rfl
@[simp] theorem State.unsent_updCxl_eq (s : State) (q : Fin 8) (f : CxlPort → CxlPort) : (s.updCxl q f).unsent = s.unsent := rfl

/-! ## updSkov -/

@[simp] theorem State.skov_updSkov (s : State) (d : Bool) (f : Skov → Skov) : (s.updSkov d f).skov d = f (s.skov d) := by
  simp [State.skov, State.updSkov]

@[simp] theorem State.skov_updSkov_not (s : State) (d : Bool) (f : Skov → Skov) : (s.updSkov d f).skov (!d) = s.skov (!d) := by
  cases d <;> simp [State.skov, State.updSkov, skovIx]

@[simp] theorem State.pier_updSkov (s : State) (d : Bool) (f : Skov → Skov) (r : PierId) : (s.updSkov d f).pier r = s.pier r := rfl
@[simp] theorem State.quoin_updSkov (s : State) (d : Bool) (f : Skov → Skov) (r : QuoinId) : (s.updSkov d f).quoin r = s.quoin r := rfl
@[simp] theorem State.port_updSkov (s : State) (d : Bool) (f : Skov → Skov) (r : PortId) : (s.updSkov d f).port r = s.port r := rfl
@[simp] theorem State.cxlPort_updSkov (s : State) (d : Bool) (f : Skov → Skov) (r : Fin 8) : (s.updSkov d f).cxlPort r = s.cxlPort r := rfl
@[simp] theorem State.pending_updSkov_eq (s : State) (d : Bool) (f : Skov → Skov) : (s.updSkov d f).pending = s.pending := rfl
@[simp] theorem State.free_updSkov_eq (s : State) (d : Bool) (f : Skov → Skov) : (s.updSkov d f).free = s.free := rfl
@[simp] theorem State.tick_updSkov_eq (s : State) (d : Bool) (f : Skov → Skov) : (s.updSkov d f).tick = s.tick := rfl
@[simp] theorem State.power_updSkov_eq (s : State) (d : Bool) (f : Skov → Skov) : (s.updSkov d f).power = s.power := rfl
@[simp] theorem State.func_updSkov_eq (s : State) (d : Bool) (f : Skov → Skov) : (s.updSkov d f).func = s.func := rfl
@[simp] theorem State.mem_updSkov_eq (s : State) (d : Bool) (f : Skov → Skov) : (s.updSkov d f).mem = s.mem := rfl
@[simp] theorem State.poison_updSkov_eq (s : State) (d : Bool) (f : Skov → Skov) : (s.updSkov d f).poison = s.poison := rfl
@[simp] theorem State.piers_updSkov_eq (s : State) (d : Bool) (f : Skov → Skov) : (s.updSkov d f).piers = s.piers := rfl
@[simp] theorem State.quoins_updSkov_eq (s : State) (d : Bool) (f : Skov → Skov) : (s.updSkov d f).quoins = s.quoins := rfl
@[simp] theorem State.cxl_updSkov_eq (s : State) (d : Bool) (f : Skov → Skov) : (s.updSkov d f).cxl = s.cxl := rfl
@[simp] theorem State.ports_updSkov_eq (s : State) (d : Bool) (f : Skov → Skov) : (s.updSkov d f).ports = s.ports := rfl
@[simp] theorem State.counters_updSkov_eq (s : State) (d : Bool) (f : Skov → Skov) : (s.updSkov d f).counters = s.counters := rfl
@[simp] theorem State.queues_updSkov_eq (s : State) (d : Bool) (f : Skov → Skov) : (s.updSkov d f).queues = s.queues := rfl
@[simp] theorem State.waitingSubs_updSkov_eq (s : State) (d : Bool) (f : Skov → Skov) : (s.updSkov d f).waitingSubs = s.waitingSubs := rfl
@[simp] theorem State.seqOnC_updSkov_eq (s : State) (d : Bool) (f : Skov → Skov) : (s.updSkov d f).seqOnC = s.seqOnC := rfl
@[simp] theorem State.stepBase_updSkov_eq (s : State) (d : Bool) (f : Skov → Skov) : (s.updSkov d f).stepBase = s.stepBase := rfl
@[simp] theorem State.stepDone_updSkov_eq (s : State) (d : Bool) (f : Skov → Skov) : (s.updSkov d f).stepDone = s.stepDone := rfl
@[simp] theorem State.uRan_updSkov_eq (s : State) (d : Bool) (f : Skov → Skov) : (s.updSkov d f).uRan = s.uRan := rfl
@[simp] theorem State.laneSpares_updSkov_eq (s : State) (d : Bool) (f : Skov → Skov) : (s.updSkov d f).laneSpares = s.laneSpares := rfl
@[simp] theorem State.linkFails_updSkov_eq (s : State) (d : Bool) (f : Skov → Skov) : (s.updSkov d f).linkFails = s.linkFails := rfl
@[simp] theorem State.groupFails_updSkov_eq (s : State) (d : Bool) (f : Skov → Skov) : (s.updSkov d f).groupFails = s.groupFails := rfl
@[simp] theorem State.linkCycles_updSkov_eq (s : State) (d : Bool) (f : Skov → Skov) : (s.updSkov d f).linkCycles = s.linkCycles := rfl
@[simp] theorem State.retired_updSkov_eq (s : State) (d : Bool) (f : Skov → Skov) : (s.updSkov d f).retired = s.retired := rfl
@[simp] theorem State.testing_updSkov_eq (s : State) (d : Bool) (f : Skov → Skov) : (s.updSkov d f).testing = s.testing := rfl
@[simp] theorem State.edgeRot_updSkov_eq (s : State) (d : Bool) (f : Skov → Skov) : (s.updSkov d f).edgeRot = s.edgeRot := rfl
@[simp] theorem State.linkHeld_updSkov_eq (s : State) (d : Bool) (f : Skov → Skov) : (s.updSkov d f).linkHeld = s.linkHeld := rfl
@[simp] theorem State.crossHeld_updSkov_eq (s : State) (d : Bool) (f : Skov → Skov) : (s.updSkov d f).crossHeld = s.crossHeld := rfl
@[simp] theorem State.crossPtr_updSkov_eq (s : State) (d : Bool) (f : Skov → Skov) : (s.updSkov d f).crossPtr = s.crossPtr := rfl
@[simp] theorem State.promises_updSkov_eq (s : State) (d : Bool) (f : Skov → Skov) : (s.updSkov d f).promises = s.promises := rfl
@[simp] theorem State.commit_updSkov_eq (s : State) (d : Bool) (f : Skov → Skov) : (s.updSkov d f).commit = s.commit := rfl
@[simp] theorem State.accepts_updSkov_eq (s : State) (d : Bool) (f : Skov → Skov) : (s.updSkov d f).accepts = s.accepts := rfl
@[simp] theorem State.requests_updSkov_eq (s : State) (d : Bool) (f : Skov → Skov) : (s.updSkov d f).requests = s.requests := rfl
@[simp] theorem State.requestCount_updSkov_eq (s : State) (d : Bool) (f : Skov → Skov) : (s.updSkov d f).requestCount = s.requestCount := rfl
@[simp] theorem State.sounding_updSkov_eq (s : State) (d : Bool) (f : Skov → Skov) : (s.updSkov d f).sounding = s.sounding := rfl
@[simp] theorem State.degraded_updSkov_eq (s : State) (d : Bool) (f : Skov → Skov) : (s.updSkov d f).degraded = s.degraded := rfl
@[simp] theorem State.sensorValue_updSkov_eq (s : State) (d : Bool) (f : Skov → Skov) : (s.updSkov d f).sensorValue = s.sensorValue := rfl
@[simp] theorem State.sensorLevel_updSkov_eq (s : State) (d : Bool) (f : Skov → Skov) : (s.updSkov d f).sensorLevel = s.sensorLevel := rfl
@[simp] theorem State.sensorValid_updSkov_eq (s : State) (d : Bool) (f : Skov → Skov) : (s.updSkov d f).sensorValid = s.sensorValid := rfl
@[simp] theorem State.sensorSince_updSkov_eq (s : State) (d : Bool) (f : Skov → Skov) : (s.updSkov d f).sensorSince = s.sensorSince := rfl
@[simp] theorem State.held_updSkov_eq (s : State) (d : Bool) (f : Skov → Skov) : (s.updSkov d f).held = s.held := rfl
@[simp] theorem State.log0_updSkov_eq (s : State) (d : Bool) (f : Skov → Skov) : (s.updSkov d f).log0 = s.log0 := rfl
@[simp] theorem State.log1_updSkov_eq (s : State) (d : Bool) (f : Skov → Skov) : (s.updSkov d f).log1 = s.log1 := rfl
@[simp] theorem State.recordCount_updSkov_eq (s : State) (d : Bool) (f : Skov → Skov) : (s.updSkov d f).recordCount = s.recordCount := rfl
@[simp] theorem State.flash0_updSkov_eq (s : State) (d : Bool) (f : Skov → Skov) : (s.updSkov d f).flash0 = s.flash0 := rfl
@[simp] theorem State.flash1_updSkov_eq (s : State) (d : Bool) (f : Skov → Skov) : (s.updSkov d f).flash1 = s.flash1 := rfl
@[simp] theorem State.erased0_updSkov_eq (s : State) (d : Bool) (f : Skov → Skov) : (s.updSkov d f).erased0 = s.erased0 := rfl
@[simp] theorem State.erased1_updSkov_eq (s : State) (d : Bool) (f : Skov → Skov) : (s.updSkov d f).erased1 = s.erased1 := rfl
@[simp] theorem State.session_updSkov_eq (s : State) (d : Bool) (f : Skov → Skov) : (s.updSkov d f).session = s.session := rfl
@[simp] theorem State.smbus_updSkov_eq (s : State) (d : Bool) (f : Skov → Skov) : (s.updSkov d f).smbus = s.smbus := rfl
@[simp] theorem State.linkKept_updSkov_eq (s : State) (d : Bool) (f : Skov → Skov) : (s.updSkov d f).linkKept = s.linkKept := rfl
@[simp] theorem State.admits_updSkov_eq (s : State) (d : Bool) (f : Skov → Skov) : (s.updSkov d f).admits = s.admits := rfl
@[simp] theorem State.admitRot_updSkov_eq (s : State) (d : Bool) (f : Skov → Skov) : (s.updSkov d f).admitRot = s.admitRot := rfl
@[simp] theorem State.portRot_updSkov_eq (s : State) (d : Bool) (f : Skov → Skov) : (s.updSkov d f).portRot = s.portRot := rfl
@[simp] theorem State.unsent_updSkov_eq (s : State) (d : Bool) (f : Skov → Skov) : (s.updSkov d f).unsent = s.unsent := rfl

/-! ## Counters -/

@[simp] theorem State.pending_bump_eq (s : State) (reg n : Nat) : (s.bump reg n).pending = s.pending := rfl
@[simp] theorem State.free_bump_eq (s : State) (reg n : Nat) : (s.bump reg n).free = s.free := rfl
@[simp] theorem State.tick_bump_eq (s : State) (reg n : Nat) : (s.bump reg n).tick = s.tick := rfl
@[simp] theorem State.power_bump_eq (s : State) (reg n : Nat) : (s.bump reg n).power = s.power := rfl
@[simp] theorem State.func_bump_eq (s : State) (reg n : Nat) : (s.bump reg n).func = s.func := rfl
@[simp] theorem State.mem_bump_eq (s : State) (reg n : Nat) : (s.bump reg n).mem = s.mem := rfl
@[simp] theorem State.poison_bump_eq (s : State) (reg n : Nat) : (s.bump reg n).poison = s.poison := rfl
@[simp] theorem State.piers_bump_eq (s : State) (reg n : Nat) : (s.bump reg n).piers = s.piers := rfl
@[simp] theorem State.quoins_bump_eq (s : State) (reg n : Nat) : (s.bump reg n).quoins = s.quoins := rfl
@[simp] theorem State.cxl_bump_eq (s : State) (reg n : Nat) : (s.bump reg n).cxl = s.cxl := rfl
@[simp] theorem State.ports_bump_eq (s : State) (reg n : Nat) : (s.bump reg n).ports = s.ports := rfl
@[simp] theorem State.skovs_bump_eq (s : State) (reg n : Nat) : (s.bump reg n).skovs = s.skovs := rfl
@[simp] theorem State.queues_bump_eq (s : State) (reg n : Nat) : (s.bump reg n).queues = s.queues := rfl
@[simp] theorem State.waitingSubs_bump_eq (s : State) (reg n : Nat) : (s.bump reg n).waitingSubs = s.waitingSubs := rfl
@[simp] theorem State.seqOnC_bump_eq (s : State) (reg n : Nat) : (s.bump reg n).seqOnC = s.seqOnC := rfl
@[simp] theorem State.stepBase_bump_eq (s : State) (reg n : Nat) : (s.bump reg n).stepBase = s.stepBase := rfl
@[simp] theorem State.stepDone_bump_eq (s : State) (reg n : Nat) : (s.bump reg n).stepDone = s.stepDone := rfl
@[simp] theorem State.uRan_bump_eq (s : State) (reg n : Nat) : (s.bump reg n).uRan = s.uRan := rfl
@[simp] theorem State.laneSpares_bump_eq (s : State) (reg n : Nat) : (s.bump reg n).laneSpares = s.laneSpares := rfl
@[simp] theorem State.linkFails_bump_eq (s : State) (reg n : Nat) : (s.bump reg n).linkFails = s.linkFails := rfl
@[simp] theorem State.groupFails_bump_eq (s : State) (reg n : Nat) : (s.bump reg n).groupFails = s.groupFails := rfl
@[simp] theorem State.linkCycles_bump_eq (s : State) (reg n : Nat) : (s.bump reg n).linkCycles = s.linkCycles := rfl
@[simp] theorem State.retired_bump_eq (s : State) (reg n : Nat) : (s.bump reg n).retired = s.retired := rfl
@[simp] theorem State.testing_bump_eq (s : State) (reg n : Nat) : (s.bump reg n).testing = s.testing := rfl
@[simp] theorem State.edgeRot_bump_eq (s : State) (reg n : Nat) : (s.bump reg n).edgeRot = s.edgeRot := rfl
@[simp] theorem State.linkHeld_bump_eq (s : State) (reg n : Nat) : (s.bump reg n).linkHeld = s.linkHeld := rfl
@[simp] theorem State.crossHeld_bump_eq (s : State) (reg n : Nat) : (s.bump reg n).crossHeld = s.crossHeld := rfl
@[simp] theorem State.crossPtr_bump_eq (s : State) (reg n : Nat) : (s.bump reg n).crossPtr = s.crossPtr := rfl
@[simp] theorem State.promises_bump_eq (s : State) (reg n : Nat) : (s.bump reg n).promises = s.promises := rfl
@[simp] theorem State.commit_bump_eq (s : State) (reg n : Nat) : (s.bump reg n).commit = s.commit := rfl
@[simp] theorem State.accepts_bump_eq (s : State) (reg n : Nat) : (s.bump reg n).accepts = s.accepts := rfl
@[simp] theorem State.requests_bump_eq (s : State) (reg n : Nat) : (s.bump reg n).requests = s.requests := rfl
@[simp] theorem State.requestCount_bump_eq (s : State) (reg n : Nat) : (s.bump reg n).requestCount = s.requestCount := rfl
@[simp] theorem State.sounding_bump_eq (s : State) (reg n : Nat) : (s.bump reg n).sounding = s.sounding := rfl
@[simp] theorem State.degraded_bump_eq (s : State) (reg n : Nat) : (s.bump reg n).degraded = s.degraded := rfl
@[simp] theorem State.sensorValue_bump_eq (s : State) (reg n : Nat) : (s.bump reg n).sensorValue = s.sensorValue := rfl
@[simp] theorem State.sensorLevel_bump_eq (s : State) (reg n : Nat) : (s.bump reg n).sensorLevel = s.sensorLevel := rfl
@[simp] theorem State.sensorValid_bump_eq (s : State) (reg n : Nat) : (s.bump reg n).sensorValid = s.sensorValid := rfl
@[simp] theorem State.sensorSince_bump_eq (s : State) (reg n : Nat) : (s.bump reg n).sensorSince = s.sensorSince := rfl
@[simp] theorem State.held_bump_eq (s : State) (reg n : Nat) : (s.bump reg n).held = s.held := rfl
@[simp] theorem State.log0_bump_eq (s : State) (reg n : Nat) : (s.bump reg n).log0 = s.log0 := rfl
@[simp] theorem State.log1_bump_eq (s : State) (reg n : Nat) : (s.bump reg n).log1 = s.log1 := rfl
@[simp] theorem State.recordCount_bump_eq (s : State) (reg n : Nat) : (s.bump reg n).recordCount = s.recordCount := rfl
@[simp] theorem State.flash0_bump_eq (s : State) (reg n : Nat) : (s.bump reg n).flash0 = s.flash0 := rfl
@[simp] theorem State.flash1_bump_eq (s : State) (reg n : Nat) : (s.bump reg n).flash1 = s.flash1 := rfl
@[simp] theorem State.erased0_bump_eq (s : State) (reg n : Nat) : (s.bump reg n).erased0 = s.erased0 := rfl
@[simp] theorem State.erased1_bump_eq (s : State) (reg n : Nat) : (s.bump reg n).erased1 = s.erased1 := rfl
@[simp] theorem State.session_bump_eq (s : State) (reg n : Nat) : (s.bump reg n).session = s.session := rfl
@[simp] theorem State.smbus_bump_eq (s : State) (reg n : Nat) : (s.bump reg n).smbus = s.smbus := rfl
@[simp] theorem State.linkKept_bump_eq (s : State) (reg n : Nat) : (s.bump reg n).linkKept = s.linkKept := rfl
@[simp] theorem State.admits_bump_eq (s : State) (reg n : Nat) : (s.bump reg n).admits = s.admits := rfl
@[simp] theorem State.admitRot_bump_eq (s : State) (reg n : Nat) : (s.bump reg n).admitRot = s.admitRot := rfl
@[simp] theorem State.portRot_bump_eq (s : State) (reg n : Nat) : (s.bump reg n).portRot = s.portRot := rfl
@[simp] theorem State.unsent_bump_eq (s : State) (reg n : Nat) : (s.bump reg n).unsent = s.unsent := rfl

end Sys2Proof.Machine
end

