-- ==== Sys2Proof/Laws/Link.lean ====
section
/-! SUPPORT. What sending a message to a host, answering a manager and giving back a credit do, each said once (R454, R465,
R477). -/

namespace Sys2Proof.Machine

/-! ## One port -/

theorem Port.Transmits.refl (p : Port) : p.Transmits p := rfl

theorem Port.Transmits.trans {a b c : Port} (h : a.Transmits b) (g : b.Transmits c) : a.Transmits c := Eq.trans g h

/-- One flit sent changes the sender's own fields alone, and none of what is sent, held or owed. -/
theorem Port.sendOne_spec (p : Port) (kind seq : Nat) (payload : List Byte) : p.Transmits (p.sendOne kind seq payload) ∧
    (p.sendOne kind seq payload).sent = p.sent ∧ (p.sendOne kind seq payload).held = p.held ∧
    (p.sendOne kind seq payload).credits = p.credits ∧ (p.sendOne kind seq payload).owed = p.owed := by
  unfold Port.sendOne
  generalize p.flitHdr kind seq = h
  generalize scramble p.width p.txScr (buildFlit h payload) = r
  dsimp only
  generalize p.onLanes r.1 = l
  generalize (if kind == 0 then 0 else p.sinceIdle + 1) = i
  exact ⟨rfl, rfl, rfl, rfl, rfl⟩

/-- So does a data flit with the idle one that may go before it. -/
theorem Port.sendData_spec (p : Port) (seq : Nat) (payload : List Byte) : p.Transmits (p.sendData seq payload) ∧
    (p.sendData seq payload).sent = p.sent ∧ (p.sendData seq payload).held = p.held ∧
    (p.sendData seq payload).credits = p.credits ∧ (p.sendData seq payload).owed = p.owed := by
  unfold Port.sendData
  split
  · have h := Port.sendOne_spec p 0 0 []
    have g := Port.sendOne_spec p.sendIdle 1 seq payload
    exact ⟨Eq.trans g.1 h.1, g.2.1.trans h.2.1, g.2.2.1.trans h.2.2.1, g.2.2.2.1.trans h.2.2.2.1, g.2.2.2.2.trans h.2.2.2.2⟩
  · exact Port.sendOne_spec p 1 seq payload

/-- Filling the replay buffer leaves all but the sender's own fields. -/
theorem Port.fill_spec (n : Nat) : ∀ p : Port, p.Transmits (p.fill n) ∧ (p.fill n).sent = p.sent ∧ (p.fill n).held = p.held ∧
    (p.fill n).credits = p.credits ∧ (p.fill n).owed = p.owed := by
  induction n with
  | zero => intro p; exact ⟨rfl, rfl, rfl, rfl, rfl⟩
  | succ n ih =>
    intro p
    rw [Port.fill]
    split
    · exact ⟨rfl, rfl, rfl, rfl, rfl⟩
    · have hd := Port.sendData_spec p p.txSeq (padTo 238 (p.backlog.take 238))
      dsimp only
      generalize p.sendData p.txSeq (padTo 238 (p.backlog.take 238)) = r at hd ⊢
      generalize p.replay ++ [_] = l
      generalize (p.txSeq + 1) % 4096 = q
      generalize p.backlog.drop 238 = b
      have h := ih { r with replay := l, txSeq := q, backlog := b }
      have h1 : Port.kept { r with replay := l, txSeq := q, backlog := b } = r.kept := rfl
      exact ⟨Eq.trans h.1 (h1.trans hd.1), h.2.1.trans hd.2.1, h.2.2.1.trans hd.2.2.1, h.2.2.2.1.trans hd.2.2.2.1,
        h.2.2.2.2.trans hd.2.2.2.2⟩

theorem Port.transmit_spec (p : Port) (m : OutMsg) : p.Transmits (p.transmit m) ∧ (p.transmit m).sent = p.sent ++ [m] ∧
    (p.transmit m).held = p.held ∧ (p.transmit m).credits = p.credits ∧ (p.transmit m).owed = p.owed := by
  unfold Port.transmit
  have h := Port.fill_spec Config.replayCap
    { p with sent := p.sent ++ [m], backlog := p.backlog ++ (cutFlits 3 m.bytes).flatten }
  exact ⟨h.1.trans rfl, h.2⟩

theorem Port.Transmits.linked {a b : Port} (h : a.Transmits b) : b.linked = a.linked := by
  have h1 := congrArg Port.linked (show b.kept = a.kept from h)
  exact h1

theorem Port.Transmits.trainState {a b : Port} (h : a.Transmits b) : b.trainState = a.trainState := by
  have h1 := congrArg Port.trainState (show b.kept = a.kept from h)
  exact h1

/-! ## A message -/

/-- A port changed: the others stay, and so does all else. -/
theorem State.updPort_other (s : State) (p r : PortId) (f : Port → Port) (h : r ≠ p) : (s.updPort p f).port r = s.port r :=
  State.port_updPort_ne s f h

/-- What sending a message does. -/
theorem State.send_spec (s : State) (p : PortId) (m : OutMsg) :
    s.Sends (s.send p m) p m ∧ s.send p m = { s with ports := (s.send p m).ports, counters := (s.send p m).counters } ∧
    (∀ r, (s.port r).Transmits ((s.send p m).port r)) ∧ (∀ r, r ≠ p → (s.send p m).port r = s.port r) ∧
    ((s.port p).linked = true → (s.send p m).counters = s.counters) := by
  unfold State.send
  dsimp only
  cases hl : (s.port p).linked with
  | false =>
    have hc : (s.port p).canSend m.mtype = false := by simp [Port.canSend, hl]
    simp only [Bool.not_false, if_true]
    split
    · rename_i hw
      refine ⟨?_, rfl, ?_, fun r hr => State.port_updPort_ne s _ hr, by simp⟩
      · simp only [State.Sends, hc, hl, hw, State.port_updPort, Bool.false_or, Bool.false_eq_true, if_false, if_true]
        exact List.prefix_rfl
      · intro r
        by_cases hr : r = p
        · subst hr
          rw [State.port_updPort]
          rfl
        · rw [State.port_updPort_ne s _ hr]
          rfl
    · rename_i hw
      refine ⟨?_, rfl, fun r => rfl, fun r _ => rfl, by simp⟩
      simp only [State.Sends, hc, hl, hw, Bool.false_or, Bool.false_eq_true, if_false]
      exact ⟨rfl, rfl⟩
  | true =>
    simp only [Bool.not_true, Bool.false_eq_true, if_false]
    split
    · rename_i hw
      have hc : (s.port p).canSend m.mtype = false := by
        simp only [Bool.or_eq_true, beq_iff_eq] at hw
        simp only [Port.canSend, hl, Bool.true_and, Bool.and_eq_false_iff, Bool.not_eq_false', bne_eq_false_iff_eq]
        exact hw
      refine ⟨?_, rfl, ?_, fun r hr => State.port_updPort_ne s _ hr, fun _ => rfl⟩
      · simp only [State.Sends, hc, hl, State.port_updPort, Bool.true_or, Bool.false_eq_true, if_false, if_true]
        exact List.prefix_rfl
      · intro r
        by_cases hr : r = p
        · subst hr
          rw [State.port_updPort]
          rfl
        · rw [State.port_updPort_ne s _ hr]
          rfl
    · rename_i hw
      have hc : (s.port p).canSend m.mtype = true := by
        simp only [Bool.or_eq_true, beq_iff_eq, not_or] at hw
        simp only [Port.canSend, hl, Bool.true_and, Bool.and_eq_true, Bool.not_eq_true', bne_iff_ne, ne_eq]
        exact ⟨by simpa using hw.1, hw.2⟩
      have ht := Port.transmit_spec { s.port p with
        credits := (s.port p).credits.set (outQueue m.mtype) ((s.port p).credits.get (outQueue m.mtype) - 1) } m
      refine ⟨?_, rfl, ?_, fun r hr => State.port_updPort_ne s _ hr, fun _ => rfl⟩
      · simp only [State.Sends, hc, State.port_updPort, if_true]
        rw [ht.2.1]
      · intro r
        by_cases hr : r = p
        · subst hr
          rw [State.port_updPort]
          exact ht.1.trans rfl
        · rw [State.port_updPort_ne s _ hr]
          rfl

theorem State.sendFree_spec (s : State) (p : PortId) (m : OutMsg) :
    s.sendFree p m = { s with ports := (s.sendFree p m).ports } ∧ (∀ r, (s.port r).Transmits ((s.sendFree p m).port r)) ∧
    (∀ r, r ≠ p → (s.sendFree p m).port r = s.port r) ∧
    (s.port p).sent <+: ((s.sendFree p m).port p).sent ∧ ((s.sendFree p m).port p).held = (s.port p).held := by
  unfold State.sendFree
  split
  · exact ⟨rfl, fun r => rfl, fun r _ => rfl, List.prefix_rfl, rfl⟩
  · have ht := Port.transmit_spec (s.port p) m
    refine ⟨rfl, ?_, fun r hr => State.port_updPort_ne s _ hr, ?_, ?_⟩
    · intro r
      by_cases hr : r = p
      · subst hr
        rw [State.port_updPort]
        exact ht.1
      · rw [State.port_updPort_ne s _ hr]
        rfl
    · rw [State.port_updPort, ht.2.1]
      exact List.prefix_append _ _
    · rw [State.port_updPort, ht.2.2.1]

/-- What giving back a credit does: it may send a CREDIT, and nothing else that a host is sent is disturbed. -/
theorem State.giveCredit_spec (s : State) (p : PortId) (q : Nat) :
    s.giveCredit p q = { s with ports := (s.giveCredit p q).ports } ∧ (∀ r, (s.port r).Transmits ((s.giveCredit p q).port r)) ∧
    (∀ r, r ≠ p → (s.giveCredit p q).port r = s.port r) ∧
    (s.port p).sent <+: ((s.giveCredit p q).port p).sent ∧ ((s.giveCredit p q).port p).held = (s.port p).held := by
  unfold State.giveCredit
  dsimp only
  split
  · refine ⟨rfl, ?_, fun r hr => State.port_updPort_ne s _ hr, ?_, ?_⟩
    · intro r
      by_cases hr : r = p
      · subst hr
        rw [State.port_updPort]
        rfl
      · rw [State.port_updPort_ne s _ hr]
        rfl
    · rw [State.port_updPort]
    · rw [State.port_updPort]
  · generalize OutMsg.mk 0x08 0 0 _ = m
    have h := State.sendFree_spec (s.updPort p fun pt => { pt with owed := [] }) p m
    refine ⟨h.1.trans rfl, ?_, fun r hr => (h.2.2.1 r hr).trans (State.port_updPort_ne s _ hr), ?_, ?_⟩
    · intro r
      refine Port.Transmits.trans ?_ (h.2.1 r)
      by_cases hr : r = p
      · subst hr
        rw [State.port_updPort]
        rfl
      · rw [State.port_updPort_ne s _ hr]
        rfl
    · have := h.2.2.2.1
      rw [State.port_updPort] at this
      exact this
    · rw [h.2.2.2.2, State.port_updPort]

/-- A message sent stays sent when a later part of the same command leaves the port's lists or appends to them. -/
theorem State.Sends.mono {s t u : State} {p : PortId} {m : OutMsg} (h : s.Sends t p m) (hl : (s.port p).linked = true)
    (h1 : (t.port p).sent <+: (u.port p).sent) (h2 : (t.port p).held <+: (u.port p).held) : s.Sends u p m := by
  unfold State.Sends at h ⊢
  simp only [hl, Bool.true_or, if_true] at h ⊢
  split at h
  · rename_i hc
    simp only [hc, if_true]
    exact h.trans h1
  · rename_i hc
    simp only [hc, Bool.false_eq_true, if_false]
    exact h.trans h2

/-! ## Answers to managers -/

theorem State.answerTo_spec (s : State) (m : Manager) (cmd st x : Nat) (d : List Byte) (hl : s.linkUp m = true) :
    s.OnlyAnswers (s.answerTo m cmd st x d) m (answerBytes cmd st x d) := by
  cases m with
  | smbus => exact ⟨rfl, rfl, fun p => rfl⟩
  | smbusRecovery => exact ⟨rfl, rfl, fun p => rfl⟩
  | port p tag =>
    have h := State.send_spec s p ⟨0x16, tag.toNat, 0, answerBytes cmd st x d⟩
    refine ⟨h.1, ?_, h.2.2.1⟩
    have hc := h.2.2.2.2 hl
    have he := h.2.1
    rw [hc] at he
    have hb : (s.send p ⟨0x16, tag.toNat, 0, answerBytes cmd st x d⟩).smbus = s.smbus := by rw [he]
    show s.send p _ = { s with ports := (s.send p _).ports, smbus := (s.send p _).smbus }
    rw [hb]
    exact he

theorem State.creditBack_spec (s : State) (m : Manager) :
    s.creditBack m = { s with ports := (s.creditBack m).ports } ∧ (∀ r, (s.port r).Transmits ((s.creditBack m).port r)) ∧
    (∀ r, (s.port r).sent <+: ((s.creditBack m).port r).sent) ∧ ∀ r, ((s.creditBack m).port r).held = (s.port r).held := by
  cases m with
  | smbus => exact ⟨rfl, fun r => rfl, fun r => List.prefix_rfl, fun r => rfl⟩
  | smbusRecovery => exact ⟨rfl, fun r => rfl, fun r => List.prefix_rfl, fun r => rfl⟩
  | port p tag =>
    have h := State.giveCredit_spec s p 3
    refine ⟨h.1, h.2.1, fun r => ?_, fun r => ?_⟩
    · by_cases hr : r = p
      · subst hr; exact h.2.2.2.1
      · have := h.2.2.1 r hr
        simp only [State.creditBack]
        rw [this]
    · by_cases hr : r = p
      · subst hr; exact h.2.2.2.2
      · exact congrArg Port.held (h.2.2.1 r hr)

/-- An answer stays one when the command's credit goes back. -/
theorem State.OnlyAnswers.credit {s t : State} {m : Manager} {bs : List Byte} (h : s.OnlyAnswers t m bs) (hl : s.linkUp m = true) :
    s.OnlyAnswers (t.creditBack m) m bs := by
  have hc := State.creditBack_spec t m
  refine ⟨?_, ?_, fun p => (h.2.2 p).trans (hc.2.1 p)⟩
  · cases m with
    | smbus => exact h.1
    | smbusRecovery => exact h.1
    | port p tag =>
      exact State.Sends.mono h.1 hl (hc.2.2.1 p) (by rw [hc.2.2.2 p])
  · rw [hc.1]
    have := h.2.1
    rw [this]

/-- A command that is served and only answers. -/
theorem State.manage_answers {s : State} {m : Manager} {rom : Bool} {f : State → State} {bs : List Byte}
    (hs : s.serves m rom = true) (hl : s.linkUp m = true) (h : s.OnlyAnswers (f s) m bs) :
    s.OnlyAnswers (s.manage m rom f) m bs := by
  unfold State.manage
  rw [if_pos hs]
  exact h.credit hl

end Sys2Proof.Machine
end

