-- ==== Sys2Proof/WellFormed.lean ====
section
/-! DEFINITION. Which commands the sender may form: the checks a command's operands pass before it can stand for an event
of the module. A command outside them names no event of the manual; the meanings are total all the same. -/

namespace Sys2Proof

/-- The level of a unit address (R26). -/
def QKey.level (q : QKey) : Nat := q.unit.toNat / 8192

/-- A queue is named by a unit that exists, every field below its level zero (R26 to R28); the trowels' stream U is held by
piers and the module only (R25, R59). -/
def QKey.wf (q : QKey) : Bool :=
  let u := q.unit.toNat
  match q.level with
  | 0 => u / 16 % 16 < 12 && q.stream != 3
  | 1 => u / 16 % 16 < 12 && u % 16 == 0 && q.stream != 3
  | 2 => u % 256 == 0 && q.stream != 3
  | 3 => u % 1024 == 0
  | 4 => u == 0x8000
  | _ => false

/-- An address of the 52-bit module address map (R30). -/
def addrWf (a : Nat) : Bool := a < 0x10_0000_0000_0000

/-- One access of a window: at least a byte and at most the 256 of the longest Plumbline access (R452). -/
def lenWf (n : Nat) : Bool := 1 ≤ n && n ≤ 256

/-- Whether a source still sends commands: none comes from a host that has departed (R465). -/
def Source.here : Source → Bool
  | .gone _ => false
  | _ => true

/-- Whether a command's operands are within the ranges the manual gives them. -/
def Instr.wf : Instr → Bool
  | .mmul q | .spmm q | .spmmt q | .tcopy q | .rownorm q | .rowsoftmax q | .act q | .reduce q | .topk q | .pack q =>
    q.wf && q.stream != 3
  | .sddmm q | .dmask q => q.wf && q.stream != 3 && q.stream != 0
  | .prune q | .regrow q | .update q | .ckpt q | .exportShards q => q.wf && q.stream == 3
  | .move q | .signal q | .wait q | .headerDecode q | .headerComplete q | .submissionEnqueue q
  | .tableStoreAvailable q => q.wf
  | .submissionLineWrite src a d | .keystoneValueWrite src a d | .keystoneAddWrite src a d | .keystoneTasWrite src a d
  | .watchdogKick src a d | .registerWrite src a d => src.here && addrWf a && lenWf d.length
  | .submissionLineRead src a n | .keystoneTasRead src a n | .counterRead src a n => src.here && addrWf a && lenWf n
  | .corbelStateArrival _ _ row => row < 0x8000
  | .finishPass _ q | .maskRewrite _ q | .applyComplete _ q => q.wf
  | .runAheadFetch _ a _ => addrWf a && a % 64 == 0
  | .repointLine u a _ =>
    match u with
    | .channel _ _ => a < 50331648
    | .mortarBank _ _ => a < 65536
    | .bedBank _ _ => a < 256
  | .cxlDeviceArrival _ dev => dev.capacityMib < 0x20_0000_0000
  | .soundingResult u res =>
    match u, res with
    | .laneGroup _ _ _, _ => false
    | .gddrRegion _ _ _, .held ls => !ls.isEmpty
    | .mortarSet _ _ _, .failed => false
    | .mortarSet _ _ _, .failedWay _ => true
    | _, .held _ | _, .failedWay _ => false
    | _, _ => true
  | .spareTakeover _ | .routineSpareSounding _ _ => true
  | .laneGroupTest _ _ _ lanes => lanes < 2 ^ 84
  | .linkCycleReceive _ _ cycle side => cycle.length == 1000 && side.length == 14
  | .flitReceive _ f => f.length == 256
  | .memRead _ _ a _ => addrWf a
  | .memWrite _ _ a d => addrWf a && lenWf d.length
  | .watch _ _ p => p.length == 32
  | .admitMsg _ _ p => p.length == 16
  | .ident _ p => p.length == 64
  | .credit _ p => p.length == 8
  | .updateData _ _ d => d.length ≤ 4096
  | .attest _ n => n.length == 32
  | .masonLoadStore _ _ op a n d => addrWf a && (match op with
    | .store => 1 ≤ d.length && d.length ≤ 64
    | .atomic .loadReserved => n == 4 || n == 8
    | .atomic _ => (n == 4 || n == 8) && d.length == n
    | _ => 1 ≤ n && n ≤ 64)
  | .keystoneUpdateCycle _ | .keystoneDeferredTas _ | .stepAdvance | .slotChange _ | .stationaryTileLoaded _ _
  | .chiselJobStart _ _ | .listScanClose _ _ | .tableStoreLoad _ | .deferEntryPlace _ | .deferEntryDrain _
  | .fingerprintRecheck _ _ _ | .ckptWriteDone _ | .ckptDrainDone _ | .gddr7Retrain _ _ | .evacuationCopyDone _
  | .cxlOrderlyDeparture _ | .cxlSurpriseDeparture _ | .courseSleep _ | .courseWake _ | .pierSleep _ | .pierWake _
  | .repointingWake _ _ | .inPierResetFlush _ | .boundaryResync _ | .domainDeclaredFailed _ _ | .codewordError _ _
  | .marginMonitorTrip _ _ _ | .masonExchange _ _ | .logWrite
  | .plumblineTraining _ _ | .quickRetrain _ _ | .replayTimeout _ | .ackTimer _ | .idleFlitSend _ | .submit _ _ _
  | .watchMet _ _ | .programCompletion _ | .lateNotice | .hostDeparture _ | .status _ | .bind _ _ _ | .unbind _
  | .stop _ _ | .stopHoldExpiry | .start _ _ _ | .eventNoticeFromHost _ | .mgmtUnknownCommand _ _ | .updateBegin _ _ _
  | .updateCommit _ | .updateAbort _ | .updateSessionTimeout | .identity _ _ | .logInfo _ | .logRead _ _ _
  | .sensorRead _ _ _ | .powerDown _ _ | .powerUp _ | .sensorSample _ _ _ | .standbySupplyUp | .skovlaperBoot _
  | .mainSupplyUp | .mainSupplyLoss _ | .pwrDisChange _ | .standbySupplyLoss | .cxlWaitTimeout | .heartbeatLoss _
  | .watchdogExpiry _ | .skovlaperRejoin _ | .masonSaveTimeout _ _ => true

/-- The stream queue that a command names, if it names one. -/
def Instr.queue : Instr → Option QKey
  | .mmul q | .spmm q | .spmmt q | .sddmm q | .tcopy q | .rownorm q | .rowsoftmax q | .act q | .reduce q | .topk q
  | .pack q | .prune q | .regrow q | .update q | .dmask q | .ckpt q | .exportShards q | .move q | .signal q | .wait q
  | .headerDecode q | .headerComplete q | .submissionEnqueue q | .finishPass _ q | .maskRewrite _ q
  | .tableStoreAvailable q | .applyComplete _ q => some q
  | .submissionLineWrite _ _ _ | .submissionLineRead _ _ _ | .keystoneValueWrite _ _ _ | .keystoneAddWrite _ _ _
  | .keystoneTasRead _ _ _ | .keystoneTasWrite _ _ _ | .keystoneUpdateCycle _ | .keystoneDeferredTas _ | .stepAdvance
  | .slotChange _ | .stationaryTileLoaded _ _ | .corbelStateArrival _ _ _ | .chiselJobStart _ _ | .listScanClose _ _
  | .tableStoreLoad _ | .deferEntryPlace _ | .deferEntryDrain _ | .fingerprintRecheck _ _ _ | .ckptWriteDone _
  | .ckptDrainDone _ | .runAheadFetch _ _ _ | .repointLine _ _ _ | .gddr7Retrain _ _ | .evacuationCopyDone _
  | .cxlDeviceArrival _ _ | .cxlOrderlyDeparture _ | .cxlSurpriseDeparture _ | .courseSleep _ | .courseWake _
  | .pierSleep _ | .pierWake _ | .repointingWake _ _ | .inPierResetFlush _ | .boundaryResync _
  | .domainDeclaredFailed _ _ | .codewordError _ _ | .marginMonitorTrip _ _ _ | .soundingResult _ _
  | .spareTakeover _ | .masonExchange _ _ | .routineSpareSounding _ _ | .linkCycleReceive _ _ _ _
  | .laneGroupTest _ _ _ _ | .logWrite | .plumblineTraining _ _ | .quickRetrain _ _ | .flitReceive _ _
  | .replayTimeout _ | .ackTimer _ | .idleFlitSend _ | .memRead _ _ _ _ | .memWrite _ _ _ _ | .submit _ _ _
  | .watch _ _ _ | .watchMet _ _ | .admitMsg _ _ _ | .ident _ _ | .credit _ _ | .programCompletion _ | .lateNotice
  | .hostDeparture _ | .status _ | .bind _ _ _ | .unbind _ | .stop _ _ | .stopHoldExpiry | .start _ _ _
  | .eventNoticeFromHost _ | .mgmtUnknownCommand _ _ | .updateBegin _ _ _ | .updateData _ _ _ | .updateCommit _
  | .updateAbort _ | .updateSessionTimeout | .identity _ _ | .attest _ _ | .logInfo _ | .logRead _ _ _
  | .sensorRead _ _ _ | .powerDown _ _ | .powerUp _ | .sensorSample _ _ _ | .standbySupplyUp | .skovlaperBoot _
  | .mainSupplyUp | .mainSupplyLoss _ | .pwrDisChange _ | .standbySupplyLoss | .cxlWaitTimeout | .heartbeatLoss _
  | .watchdogExpiry _ | .watchdogKick _ _ _ | .skovlaperRejoin _ | .counterRead _ _ _ | .registerWrite _ _ _
  | .masonLoadStore _ _ _ _ _ _ | .masonSaveTimeout _ _ => none

end Sys2Proof
end

