-- ==== Sys2Proof/Laws/PerInstr.lean ====
section
/-! SUPPORT. For every command: the queue that a well-formed command names exists. -/

namespace Sys2Proof.Laws.Named

/-- A well-formed command that names a queue names one that a unit holds. -/
def Statement (i : Instr) : Prop := i.wf = true → ∀ q, i.queue = some q → q.wf = true

theorem every (i : Instr) : Statement i := by
  cases i <;> simp +contextual [Statement, Instr.wf, Instr.queue]

theorem mmul (q : QKey) : Statement (.mmul q) := every _
theorem spmm (q : QKey) : Statement (.spmm q) := every _
theorem spmmt (q : QKey) : Statement (.spmmt q) := every _
theorem sddmm (q : QKey) : Statement (.sddmm q) := every _
theorem tcopy (q : QKey) : Statement (.tcopy q) := every _
theorem rownorm (q : QKey) : Statement (.rownorm q) := every _
theorem rowsoftmax (q : QKey) : Statement (.rowsoftmax q) := every _
theorem act (q : QKey) : Statement (.act q) := every _
theorem reduce (q : QKey) : Statement (.reduce q) := every _
theorem topk (q : QKey) : Statement (.topk q) := every _
theorem pack (q : QKey) : Statement (.pack q) := every _
theorem prune (q : QKey) : Statement (.prune q) := every _
theorem regrow (q : QKey) : Statement (.regrow q) := every _
theorem update (q : QKey) : Statement (.update q) := every _
theorem dmask (q : QKey) : Statement (.dmask q) := every _
theorem ckpt (q : QKey) : Statement (.ckpt q) := every _
theorem exportShards (q : QKey) : Statement (.exportShards q) := every _
theorem move (q : QKey) : Statement (.move q) := every _
theorem signal (q : QKey) : Statement (.signal q) := every _
theorem wait (q : QKey) : Statement (.wait q) := every _
theorem headerDecode (q : QKey) : Statement (.headerDecode q) := every _
theorem headerComplete (q : QKey) : Statement (.headerComplete q) := every _
theorem submissionLineWrite (src : Source) (addr : Nat) (data : List Byte) : Statement (.submissionLineWrite src addr data) := every _
theorem submissionEnqueue (q : QKey) : Statement (.submissionEnqueue q) := every _
theorem submissionLineRead (src : Source) (addr : Nat) (len : Nat) : Statement (.submissionLineRead src addr len) := every _
theorem keystoneValueWrite (src : Source) (addr : Nat) (data : List Byte) : Statement (.keystoneValueWrite src addr data) := every _
theorem keystoneAddWrite (src : Source) (addr : Nat) (data : List Byte) : Statement (.keystoneAddWrite src addr data) := every _
theorem keystoneTasRead (src : Source) (addr : Nat) (len : Nat) : Statement (.keystoneTasRead src addr len) := every _
theorem keystoneTasWrite (src : Source) (addr : Nat) (data : List Byte) : Statement (.keystoneTasWrite src addr data) := every _
theorem keystoneUpdateCycle (key : KeyId) : Statement (.keystoneUpdateCycle key) := every _
theorem keystoneDeferredTas (key : KeyId) : Statement (.keystoneDeferredTas key) := every _
theorem stepAdvance  : Statement (.stepAdvance) := every _
theorem slotChange (p : PierId) : Statement (.slotChange p) := every _
theorem stationaryTileLoaded (c : CourseId) (stream : Fin 3) : Statement (.stationaryTileLoaded c stream) := every _
theorem corbelStateArrival (c : CourseId) (stream : Fin 3) (row : Nat) : Statement (.corbelStateArrival c stream row) := every _
theorem chiselJobStart (p : PierId) (wall : Fin 4) : Statement (.chiselJobStart p wall) := every _
theorem finishPass (p : PierId) (q : QKey) : Statement (.finishPass p q) := every _
theorem maskRewrite (p : PierId) (q : QKey) : Statement (.maskRewrite p q) := every _
theorem listScanClose (c : CourseId) (stream : Fin 3) : Statement (.listScanClose c stream) := every _
theorem tableStoreAvailable (q : QKey) : Statement (.tableStoreAvailable q) := every _
theorem tableStoreLoad (c : CoreId) : Statement (.tableStoreLoad c) := every _
theorem applyComplete (p : PierId) (q : QKey) : Statement (.applyComplete p q) := every _
theorem deferEntryPlace (quoin : QuoinId) : Statement (.deferEntryPlace quoin) := every _
theorem deferEntryDrain (quoin : QuoinId) : Statement (.deferEntryDrain quoin) := every _
theorem fingerprintRecheck (p : PierId) (tensor : Nat) (entry : Nat) : Statement (.fingerprintRecheck p tensor entry) := every _
theorem ckptWriteDone (p : PierId) : Statement (.ckptWriteDone p) := every _
theorem ckptDrainDone (p : PierId) : Statement (.ckptDrainDone p) := every _
theorem runAheadFetch (c : CoreId) (addr : Nat) (codeError : Bool) : Statement (.runAheadFetch c addr codeError) := every _
theorem repointLine (u : RepointUnit) (addr : Nat) (res : EccResult) : Statement (.repointLine u addr res) := every _
theorem gddr7Retrain (p : PierId) (channel : Fin 7) : Statement (.gddr7Retrain p channel) := every _
theorem evacuationCopyDone (p : PierId) : Statement (.evacuationCopyDone p) := every _
theorem cxlDeviceArrival (port : Fin 8) (dev : CxlDevice) : Statement (.cxlDeviceArrival port dev) := every _
theorem cxlOrderlyDeparture (port : Fin 8) : Statement (.cxlOrderlyDeparture port) := every _
theorem cxlSurpriseDeparture (port : Fin 8) : Statement (.cxlSurpriseDeparture port) := every _
theorem courseSleep (c : CourseId) : Statement (.courseSleep c) := every _
theorem courseWake (c : CourseId) : Statement (.courseWake c) := every _
theorem pierSleep (p : PierId) : Statement (.pierSleep p) := every _
theorem pierWake (p : PierId) : Statement (.pierWake p) := every _
theorem repointingWake (p : PierId) (course : Option (Fin 48)) : Statement (.repointingWake p course) := every _
theorem inPierResetFlush (d : Domain) : Statement (.inPierResetFlush d) := every _
theorem boundaryResync (d : Domain) : Statement (.boundaryResync d) := every _
theorem domainDeclaredFailed (d : Domain) (crossing : Nat) : Statement (.domainDeclaredFailed d crossing) := every _
theorem codewordError (at_ : EccPlace) (res : EccResult) : Statement (.codewordError at_ res) := every _
theorem marginMonitorTrip (u : SUnit) (monitor : Nat) (code : Nat) : Statement (.marginMonitorTrip u monitor code) := every _
theorem soundingResult (u : SUnit) (res : SoundTest) : Statement (.soundingResult u res) := every _
theorem spareTakeover (u : SUnit) : Statement (.spareTakeover u) := every _
theorem masonExchange (p : PierId) (core : Fin 8) : Statement (.masonExchange p core) := every _
theorem routineSpareSounding (u : SUnit) (failed : Bool) : Statement (.routineSpareSounding u failed) := every _
theorem linkCycleReceive (link : Fin 48) (dir : Bool) (cycle sideBand : List Byte) : Statement (.linkCycleReceive link dir cycle sideBand) := every _
theorem laneGroupTest (link : Fin 48) (dir : Bool) (group : Fin 10) (failedLanes : Nat) : Statement (.laneGroupTest link dir group failedLanes) := every _
theorem logWrite  : Statement (.logWrite) := every _
theorem plumblineTraining (port : PortId) (out : TrainOutcome) : Statement (.plumblineTraining port out) := every _
theorem quickRetrain (port : PortId) (got : Option (List (List Byte))) : Statement (.quickRetrain port got) := every _
theorem flitReceive (port : PortId) (flit : List Byte) : Statement (.flitReceive port flit) := every _
theorem replayTimeout (port : PortId) : Statement (.replayTimeout port) := every _
theorem ackTimer (port : PortId) : Statement (.ackTimer port) := every _
theorem idleFlitSend (port : PortId) : Statement (.idleFlitSend port) := every _
theorem memRead (port : PortId) (tag : U32) (addr : Nat) (rlen : Fin 256) : Statement (.memRead port tag addr rlen) := every _
theorem memWrite (port : PortId) (tag : U32) (addr : Nat) (data : List Byte) : Statement (.memWrite port tag addr data) := every _
theorem submit (port : PortId) (tag : U32) (hdr : Header) : Statement (.submit port tag hdr) := every _
theorem watch (port : PortId) (tag : U32) (payload : List Byte) : Statement (.watch port tag payload) := every _
theorem watchMet (port : PortId) (watchTag : U32) : Statement (.watchMet port watchTag) := every _
theorem admitMsg (port : PortId) (tag : U32) (payload : List Byte) : Statement (.admitMsg port tag payload) := every _
theorem ident (port : PortId) (payload : List Byte) : Statement (.ident port payload) := every _
theorem credit (port : PortId) (payload : List Byte) : Statement (.credit port payload) := every _
theorem programCompletion (number : Nat) : Statement (.programCompletion number) := every _
theorem lateNotice  : Statement (.lateNotice) := every _
theorem hostDeparture (port : PortId) : Statement (.hostDeparture port) := every _
theorem status (m : Manager) : Statement (.status m) := every _
theorem bind (m : Manager) (hostId : U16) (context : U64) : Statement (.bind m hostId context) := every _
theorem unbind (m : Manager) : Statement (.unbind m) := every _
theorem stop (m : Manager) (mode : Byte) : Statement (.stop m mode) := every _
theorem stopHoldExpiry  : Statement (.stopHoldExpiry) := every _
theorem start (m : Manager) (slot : Fin 4) (keep : Bool) : Statement (.start m slot keep) := every _
theorem eventNoticeFromHost (m : Manager) : Statement (.eventNoticeFromHost m) := every _
theorem mgmtUnknownCommand (m : Manager) (code : Byte) : Statement (.mgmtUnknownCommand m code) := every _
theorem updateBegin (m : Manager) (target : Byte) (length : U32) : Statement (.updateBegin m target length) := every _
theorem updateData (m : Manager) (offset : U32) (data : List Byte) : Statement (.updateData m offset data) := every _
theorem updateCommit (m : Manager) : Statement (.updateCommit m) := every _
theorem updateAbort (m : Manager) : Statement (.updateAbort m) := every _
theorem updateSessionTimeout  : Statement (.updateSessionTimeout) := every _
theorem identity (m : Manager) (chunk : U16) : Statement (.identity m chunk) := every _
theorem attest (m : Manager) (nonce : List Byte) : Statement (.attest m nonce) := every _
theorem logInfo (m : Manager) : Statement (.logInfo m) := every _
theorem logRead (m : Manager) (count : Byte) (first : U64) : Statement (.logRead m count first) := every _
theorem sensorRead (m : Manager) (first : Fin 128) (count : Byte) : Statement (.sensorRead m first count) := every _
theorem powerDown (m : Manager) (force : Bool) : Statement (.powerDown m force) := every _
theorem powerUp (m : Manager) : Statement (.powerUp m) := every _
theorem sensorSample (sensor : Fin 128) (value : Int) (setPoint : Int) : Statement (.sensorSample sensor value setPoint) := every _
theorem standbySupplyUp  : Statement (.standbySupplyUp) := every _
theorem skovlaperBoot (d : Bool) : Statement (.skovlaperBoot d) := every _
theorem mainSupplyUp  : Statement (.mainSupplyUp) := every _
theorem mainSupplyLoss (shortPin : Bool) : Statement (.mainSupplyLoss shortPin) := every _
theorem pwrDisChange (high : Bool) : Statement (.pwrDisChange high) := every _
theorem standbySupplyLoss  : Statement (.standbySupplyLoss) := every _
theorem cxlWaitTimeout  : Statement (.cxlWaitTimeout) := every _
theorem heartbeatLoss (watchdog : Bool) : Statement (.heartbeatLoss watchdog) := every _
theorem watchdogExpiry (d : Bool) : Statement (.watchdogExpiry d) := every _
theorem watchdogKick (src : Source) (addr : Nat) (data : List Byte) : Statement (.watchdogKick src addr data) := every _
theorem skovlaperRejoin (d : Bool) : Statement (.skovlaperRejoin d) := every _
theorem counterRead (src : Source) (addr : Nat) (len : Nat) : Statement (.counterRead src addr len) := every _
theorem registerWrite (src : Source) (addr : Nat) (data : List Byte) : Statement (.registerWrite src addr data) := every _
theorem masonLoadStore (p : PierId) (core : Fin 8) (op : MasonOp) (addr : Nat) (len : Nat) (data : List Byte) : Statement (.masonLoadStore p core op addr len data) := every _
theorem masonSaveTimeout (p : PierId) (core : Fin 8) : Statement (.masonSaveTimeout p core) := every _

end Sys2Proof.Laws.Named
end

