-- ==== Sys2Proof/Tests/Slice0.lean ====
section
/-! SUPPORT. Tests of the model on small states: ill-formed commands, figures from the manual's tables, and, for the statements
that have hypotheses, states and operands that meet them. -/

namespace Sys2Proof.Tests

open Machine

/-! ## Ill-formed commands, one for each check of `Instr.wf` -/

theorem test_wf_queue_level : (Instr.wait ⟨0xA000, 0⟩).wf = false := by decide
theorem test_wf_queue_course : (Instr.wait ⟨0x00C0, 0⟩).wf = false := by decide
theorem test_wf_queue_fields : (Instr.wait ⟨0x2001, 0⟩).wf = false := by decide
theorem test_wf_queue_core_u : (Instr.wait ⟨0, 3⟩).wf = false := by decide
theorem test_wf_queue_wall : (Instr.wait ⟨0x4010, 1⟩).wf = false := by decide
theorem test_wf_queue_pier : (Instr.wait ⟨0x6100, 3⟩).wf = false := by decide
theorem test_wf_queue_module : (Instr.wait ⟨0x8001, 3⟩).wf = false := by decide
theorem test_wf_course_stream : (Instr.mmul ⟨0x6000, 3⟩).wf = false := by decide
theorem test_wf_sddmm_g : (Instr.sddmm ⟨0, 0⟩).wf = false := by decide
theorem test_wf_dmask_g : (Instr.dmask ⟨0, 0⟩).wf = false := by decide
theorem test_wf_u_stream : (Instr.update ⟨0x6000, 1⟩).wf = false := by decide
theorem test_wf_address : (Instr.counterRead (.skov false) (2 ^ 52) 8).wf = false := by decide
theorem test_wf_read_empty : (Instr.counterRead (.skov false) 0 0).wf = false := by decide
theorem test_wf_read_long : (Instr.counterRead (.skov false) 0 257).wf = false := by decide
theorem test_wf_write_empty : (Instr.registerWrite (.skov false) 0 []).wf = false := by decide
theorem test_wf_write_address : (Instr.keystoneAddWrite (.skov false) (2 ^ 52) [0]).wf = false := by decide
theorem test_wf_corbel_row : (Instr.corbelStateArrival ⟨0, 0⟩ 0 0x8000).wf = false := by decide
theorem test_wf_finish_queue : (Instr.finishPass 0 ⟨0xA000, 0⟩).wf = false := by decide
theorem test_wf_run_ahead_line : (Instr.runAheadFetch ⟨0, 0, 0⟩ 8 false).wf = false := by decide
theorem test_wf_repoint_channel : (Instr.repointLine (.channel 0 0) 50331648 .clean).wf = false := by decide
theorem test_wf_repoint_mortar : (Instr.repointLine (.mortarBank 0 0) 65536 .clean).wf = false := by decide
theorem test_wf_repoint_bed : (Instr.repointLine (.bedBank ⟨0, 0, 0⟩ 0) 256 .clean).wf = false := by decide
theorem test_wf_cxl_capacity : (Instr.cxlDeviceArrival 0 ⟨true, some (0, 0), true, true, true, true, 0x20_0000_0000⟩).wf = false := by decide
theorem test_wf_sounding_lane : (Instr.soundingResult (.laneGroup 0 false 0) .passed).wf = false := by decide
theorem test_wf_sounding_held : (Instr.soundingResult (.keyBlock 0) (.held [0])).wf = false := by decide
theorem test_wf_held_none : (Instr.soundingResult (.gddrRegion 0 0 0) (.held [])).wf = false := by decide
theorem test_wf_cycle : (Instr.linkCycleReceive 0 false [] (List.replicate 14 0)).wf = false := by decide
theorem test_wf_lanes : (Instr.laneGroupTest 0 false 0 (2 ^ 84)).wf = false := by decide
theorem test_wf_flit : (Instr.flitReceive 0 [0]).wf = false := by decide
theorem test_wf_mem_read : (Instr.memRead 0 0 (2 ^ 52) 0).wf = false := by decide
theorem test_wf_mem_write : (Instr.memWrite 0 0 0 []).wf = false := by decide
theorem test_wf_watch : (Instr.watch 0 0 [0]).wf = false := by decide
theorem test_wf_admit : (Instr.admitMsg 0 0 [0]).wf = false := by decide
theorem test_wf_ident : (Instr.ident 0 [0]).wf = false := by decide
theorem test_wf_credit : (Instr.credit 0 [0]).wf = false := by decide
theorem test_wf_update_data : (Instr.updateData (.smbus true) 0 (List.replicate 4097 0)).wf = false := by
  rw [Instr.wf, List.length_replicate]; decide
theorem test_wf_attest : (Instr.attest (.smbus true) [0]).wf = false := by decide
theorem test_wf_mason_load : (Instr.masonLoadStore 0 0 .load 0 65 []).wf = false := by decide
theorem test_wf_mason_store : (Instr.masonLoadStore 0 0 .store 0 8 []).wf = false := by decide
theorem test_wf_mason_address : (Instr.masonLoadStore 0 0 .fetch (2 ^ 52) 4 []).wf = false := by decide
theorem test_wf_module_queue : (Instr.update ⟨0x8000, 3⟩).wf = true := by decide

/-! ## Figures from the manual -/

/-- R150: fp4 code 0x7 is 6, fp8a code 0x7E is 448. -/
theorem test_fp4_largest : decodeCode .fp4 0x7 = .fin false 3 1 := by decide
theorem test_fp8a_largest : decodeCode .fp8a 0x7E = .fin false 14 5 := by decide
/-- R154: int8 code 0x80 is −128. -/
theorem test_int8_lowest : decodeCode .int8 0x80 = .ofInt (-128) := by decide
/-- R228: code 0x4 places the slots at positions 0 and 1. -/
theorem test_sel24 : sel24 0x4 = [(0, 0), (1, 1)] := by decide
/-- R382: the map after reset gives logical channel 0 device 0, its spare device 6. -/
theorem test_chan_map : fld 0x1AC688 2 0 = 0 ∧ fld 0x1AC688 20 18 = 6 := by decide
/-- R150: fp8a's one NaN, and a format's specification. -/
theorem test_fp8a_nan : decodeCode .fp8a 0x7F = .nan := by decide
theorem witness_rounding : Fmt.fp16.spec = some .s16 := rfl

/-! ## States for the statements -/

/-- A pier that runs, with its bond pattern all of stream F. -/
def runPier : Pier :=
  { Pier.reset with
    awake := true, coursesAwake := List.range 48
    cfg := { PierCfg.reset with bondLo := 0x5555_5555_5555_5555, bondHi := 0x5555_5555_5555_5555 } }

/-- A port with its link Active, a host bound, and credits of every queue. -/
def upPort : Port :=
  { Port.reset with
    present := true, trainState := 5, linked := true, bound := true, rate := 2, width := 8
    credits := [(0, 16), (1, 16), (2, 16), (3, 16)] }

/-- The module running an image, with both Skovlapers up. -/
def live : State :=
  { State.reset with
    tick := 100
    power := { Power.reset with standby := true, main := true, pwrDis := false, regulators := true }
    func := { Func.reset with state := 3, slot := 1, checkA := 1, loaded := true, ever := true }
    piers := Vector.replicate 8 runPier
    ports := Vector.replicate 2 upPort
    skovs := #v[{ Skov.reset false with up := true, keys := true }, { Skov.reset true with up := true, keys := true }] }

/-- The module in standby with its Skovlapers up. -/
def standby : State :=
  { live with power := { live.power with main := false, regulators := false }, func := { Func.reset with state := 1 } }

/-- A header of an opcode and stream for a unit. -/
def head (op stream unit : Nat) : Header := ⟨BitVec.ofNat 64 (op + 2 ^ 8 * stream + 2 ^ 16 * unit), 0, 0, 0, 0, 0, 0, 0⟩

/-- An entry at a phase. -/
def entry (h : Header) (ph : Phase) : QEntry := { QEntry.fresh h .image with phase := ph }

/-- The running module with one entry in the queue of its header. -/
def withHead (h : Header) (ph : Phase) : State := { live with queues := [⟨h.key, [entry h ph]⟩] }

/-- A state with one entry that has started, in the queue of its header, its shares begun on all their piers. -/
def startedIn (s : State) (h : Header) (ph : Phase) : State :=
  let ops := s.readOps h 0
  let ps := s.sharePiers h 0 ops
  let s : State := { s with queues := [⟨h.key, [{ entry h ph with ops := ops, shares := ps, begun := ps }]⟩] }
  let seqs := if inPierQueue h.key && !atCourse h.key then [queueSeq h.key] else []
  let here := if atCourse h.key then [queueSeq h.key] else []
  ps.foldl (fun (s : State) p => s.updPier p (·.joinLines (seqs ++ here ++ sharePath h.key h) h.stream h.key)) s
def started (h : Header) (ph : Phase) : State := startedIn live h ph

/-- Queue F and queue U of pier 0, and queue F of its first wall. -/
def qF : QKey := ⟨0x6000, 1⟩
def qW : QKey := ⟨0x4000, 1⟩
def qU : QKey := ⟨0x6000, 3⟩

/-! ## The block -/

theorem witness_pilot_tick : live.pending = [] ∧ live.power.standby = true ∧ live.func.state ≠ 2 ∧ live.func.state ≠ 4 ∧
    live.admits = [] ∧ State.reset.power.standby = false := by decide
theorem witness_step_sound : Memory.wf live.mem = true ∧ live.held.length ≤ Config.heldCap ∧
    (live.skov false).active ≠ (live.skov true).active ∧ live.func.state ≤ 6 ∧ live.func.slot ≤ 2 ∧ live.tick < 2 ^ 64 := by decide
theorem witness_flash_kept : flashCommand .logWrite = false := by decide
theorem witness_slot_change : (live.pier 7).awake = true ∧ (State.reset.pier 7).awake = false := by decide

/-- Queue F of core 0's course, and a product's walks: its first tile on course 0, and that tile's second link on course 3. -/
def qC : QKey := ⟨0, 1⟩
def tileAt (link : Nat) : WalkItem := ⟨0, 0, 0, link, link == 1, 0, 0, 3, 64, 0, 16, 0⟩
def rowAt (link : Nat) : RowState := ⟨tileAt link, 0, [[(0, 0)]]⟩
def walkOf (course : Nat) (items : List WalkItem) (arrived rows : List RowState) (scan : Bool) : Walk :=
  ⟨course, 1, qC, items, 0, arrived, rows, [], scan, scan, 0, 0⟩
def walking (scan : Bool) : State :=
  live.updPier 0 fun p => (({ p with
    walks := [walkOf 0 [tileAt 0] [] [rowAt 0] scan, walkOf 3 [tileAt 1] [] [] false] } : Pier).joinLines [0] 1 qC).joinLines [3] 1 qC
theorem witness_walks : ((walking false).pier 0).WalksDiffer ∧
    ((walking false).pier 0).walkAt 0 1 = some (walkOf 0 [tileAt 0] [] [rowAt 0] false) ∧ ((walking false).pier 0).walkAt 0 2 = none ∧
    ((walking false).pier 0).nextLoad (walkOf 0 [tileAt 0] [] [rowAt 0] false) = some (tileAt 0) ∧
    ((walking false).pier 0).mayIssue (walkOf 0 [tileAt 0] [] [rowAt 0] false) (tileAt 0) = true ∧
    ((walking false).pier 0).inOrder (walkOf 0 [tileAt 0] [] [rowAt 0] false) (tileAt 0) = true ∧
    ((walking false).pier 0).bufferFor 0 1 = some 1 ∧
    ((walking true).pier 0).mayIssue (walkOf 0 [tileAt 0] [] [rowAt 0] true) (tileAt 0) = false := by unfold Pier.WalksDiffer; decide
theorem witness_corbel : [tileAt 1].find? (fun i => i.link != 0 && (walkOf 3 [tileAt 1] [] [] false).arrivals i < i.rows) = some (tileAt 1) ∧
    (tileAt 1).prev ≠ 3 ∧ (walkOf 3 [tileAt 1] [] [] false).arrivals (tileAt 1) = 0 ∧ 16 * (tileAt 1).width = 256 ∧
    ((walking false).pier 0).walkAt 3 1 = some (walkOf 3 [tileAt 1] [] [] false) := by decide
theorem test_tile_loaded : ∃ t, exec (.stationaryTileLoaded ⟨0, 0⟩ 1) (walking false) = .next t ∧
    ((t.pier 0).tiles.map fun b => (b.course, b.buf, b.stream)) = [(0, 1, 1)] := ⟨_, rfl, by decide⟩

/-! ## Headers -/

theorem witness_products : ∃ x, (started (head 1 1 0x4000) .ready).canRun qW 1 x := ⟨_, rfl, by decide⟩
theorem witness_sddmm : ∃ x, (started (head 4 1 0x4000) .ready).canRun qW 4 x := ⟨_, rfl, by decide⟩
theorem witness_rows : ∃ x, (started (head 8 1 0x4000) .ready).canRun qW 8 x := ⟨_, rfl, by decide⟩
theorem witness_topk : ∃ x, (started (head 0x0A 1 0x4000) .ready).canRun qW 0x0A x := ⟨_, rfl, by decide⟩
theorem witness_trowels : ∃ x, (started (head 0x0E 3 0x6000) .ready).canRun qU 0x0E x := ⟨_, rfl, by decide⟩
theorem witness_ckpt : ∃ x, (started (head 0x10 3 0x8000) .ready).canRun ⟨0x8000, 3⟩ 0x10 x := ⟨_, rfl, by decide⟩

/-- Memory of three int8 tensors of one element each on pier 0: their descriptors at 0, 0x40 and 0x100, their bytes at 0x80, 0xC0 and
0x90. -/
def elements : List Host.Cell :=
  [(0, 0x80), (7, 0x07), (8, 1), (12, 1), (16, 1), (20, 1), (42, 0x80), (43, 0x3F), (0x40, 0xC0), (0x47, 0x07), (0x48, 1), (0x4C, 1),
    (0x50, 1), (0x54, 1), (0x6A, 0x80), (0x6B, 0x3F), (0x80, 0x25), (0x90, 0x03), (0x100, 0x90), (0x107, 0x07), (0x108, 1), (0x10C, 1),
    (0x110, 1), (0x114, 1), (0x12A, 0x80), (0x12B, 0x3F)]

/-- The running module with a header of an opcode on them: d at 0x40, a at 0, and for a product b at 0x100. -/
def copying (op : Nat) : State :=
  startedIn { live with mem := elements }
    { head op 1 0x4000 with
      w3 := BitVec.ofNat 64 (2 ^ 63 + 0x40), w4 := BitVec.ofNat 64 (2 ^ 63)
      w5 := BitVec.ofNat 64 (if op = 1 then 2 ^ 63 + 0x100 else 0) } .ready

theorem witness_performed_memory : ∃ x, (copying 5).canRun qW 5 x ∧ ∃ t, exec (.tcopy qW) (copying 5) = .next t ∧
    memGet t.mem 0xC0 ≠ memGet (copying 5).mem 0xC0 := by
  refine ⟨_, ⟨rfl, ?_⟩, _, rfl, ?_⟩
  · decide
  · decide

/-- The head of a queue. -/
def front (s : State) (q : QKey) : QEntry := (s.queue q).headD (entry (head 0x14 1 0x6000) .queued)

theorem origin_only {t : Tens} (h : t.e0 = 1 ∧ t.e1 = 1 ∧ t.e2 = 1 ∧ t.e3 = 1) {i : Index4} (m : t.has i) : i = (0, 0, 0, 0) := by
  obtain ⟨i0, i1, i2, i3⟩ := i
  obtain ⟨h0, h1, h2, h3⟩ := h
  simp only [Tens.has, h0, h1, h2, h3, Nat.lt_one_iff] at m
  simp only [m]

/-- One element in open memory, apart from the sources' one each. -/
theorem writable_one {u : State} {e : Env} {any row : Bool} {d : Tens} {srcs : List Tens} {l : Loc} {a : Nat}
    (one : ∀ t ∈ d :: srcs, t.e0 = 1 ∧ t.e1 = 1 ∧ t.e2 = 1 ∧ t.e3 = 1) (here : d.at row e.p (0, 0, 0, 0) = some l)
    (size : l.size = 1 ∧ l.comp = none ∧ wrap52 (l.addr + 0) = a) (home : u.memHome a = some e.p) (alive : u.dead e.p (lineOf a) = false)
    (clean : lineOf a ∉ u.poison) (apart : ∀ t ∈ srcs, ∀ m, t.at row e.p (0, 0, 0, 0) = some m → l.meets m = false)
    (bed : (u.pier e.p).bed = []) (fresh : ∀ h, u.staleGrad h e.epoch d.tid = false) : u.writable e any row d srcs := by
  refine ⟨fun i hi => ?_, by simp [bed], fresh⟩
  have := origin_only (one d (by simp)) hi.1
  subst this
  refine ⟨l, here, fun b hb => ?_, fun j m hj ne _ => absurd (origin_only (one d (by simp)) hj.1) ne, fun t ht j m hj at_ => ?_⟩
  · have : b = a := by
      rcases hb with ⟨i, hi, rfl⟩ | ⟨c, hc, _⟩
      · rw [size.1] at hi
        obtain rfl : i = 0 := by omega
        exact size.2.2
      · rw [size.2.1] at hc; cases hc
    subst this
    exact ⟨⟨e.p, home, fun _ => rfl, alive⟩, clean⟩
  · have := origin_only (one t (by simp [ht])) hj
    subst this
    exact apart t ht m at_

/-- The share of the header on `elements`. -/
def theShare (op : Nat) : Env := (copying op).envAt 0 qW (front (copying op) qW)

theorem witness_vector_values : ∀ op ∈ [0x05, 0x12, 0x08, 0x09], Sound (copying op) ∧
    (copying op).canRun qW op (front (copying op) qW) ∧ (front (copying op) qW).bad = none ∧
    (front (copying op) qW).left = [0] ∧ (copying op).outside qW (front (copying op) qW).hdr 0 = false := by
  unfold Sound State.canRun; decide

theorem witness_vector_tensors : ∀ op ∈ [0x05, 0x12, 0x08, 0x09], (theShare op).tA.count ≠ 0 ∧ (theShare op).tA.fmt = 7 ∧
    (theShare op).tD.fmt = 7 ∧ (theShare op).tD.owns 0 0 0 0 0 = true ∧ refOn (theShare op).h.refC = false := by decide

theorem witness_vector_writable : (copying 0x05).writable (theShare 0x05) false false (theShare 0x05).tD.flat [(theShare 0x05).tA.flat] ∧
    (copying 0x12).writable (theShare 0x12) true false { (theShare 0x12).tD.flat with fmt := (theShare 0x12).tA.flat.fmt } [(theShare 0x12).tA.flat] ∧
    (copying 0x08).writable (theShare 0x08) false true (theShare 0x08).tD [(theShare 0x08).tA] ∧
    (copying 0x09).writable (theShare 0x09) false true (theShare 0x09).tD [(theShare 0x09).tA] := by
  refine ⟨?_, ?_, ?_, ?_⟩ <;>
    exact writable_one (a := 0xC0) (l := ⟨0xC0, 0, 1, none⟩) (by decide) rfl (by decide) (by decide) (by decide) (by decide) (by decide) rfl (by decide)

theorem witness_activated : (copying 8).fusedFor (theShare 8) = [] ∧ bitAt (theShare 8).h.imm 6 = false ∧
    ((copying 8).tabEntry 0 ((theShare 8).rowCore (theShare 8).tD 0 0 0) 0).kind = 0 := by decide

theorem witness_product_values : Sound (copying 1) ∧ (copying 1).canRun qW 1 (front (copying 1) qW) ∧
    (front (copying 1) qW).bad = none ∧ (front (copying 1) qW).left = [0] ∧ (copying 1).outside qW (front (copying 1) qW).hdr 0 = false ∧
    (theShare 1).tA.count = 1 ∧ (theShare 1).tB.count = 1 ∧ (theShare 1).tB.rows = 1 ∧ (theShare 1).tA.fmt = 7 ∧
    (theShare 1).tB.fmt = 7 ∧ (theShare 1).tD.fmt = 7 ∧ fld (theShare 1).h.imm 10 0 = 0 ∧ (kParts 1 1 (theShare 1).L).length = 1 := by
  unfold Sound State.canRun; decide

theorem witness_product_writable :
    (copying 1).writable (theShare 1) false false (theShare 1).tD [(theShare 1).tA, (theShare 1).tB] ∧
    ∀ pl t y, (copying 1).rowDone (theShare 1) pl t y = none := by
  refine ⟨writable_one (a := 0xC0) (l := ⟨0xC0, 0, 1, none⟩) (by decide) rfl (by decide) (by decide) (by decide) (by decide) (by decide) rfl (by decide),
    fun pl t y => ?_⟩
  have : ((copying 1).pier (theShare 1).p).walks = [] := by decide
  rw [State.rowDone, this]; rfl

/-- 3 × 7 + 5 × 2 is 31, fp32 code 0x41F80000 (R150). -/
theorem witness_group_sum : f32Code (combined 16 256 2 [.ofInt 3, .ofInt 5] [some (.ofInt 7), some (.ofInt 2)]) = 0x41F8_0000 := by
  decide

/-- A U header of pier 0 on `elements`, d a block list for a mask's, its parameter's entry at 0x1000 with an accumulation pending that is
not this epoch's; the neighbour's checkpoint region of 1 MiB. -/
def trowelling (op : Nat) : State :=
  let mem := memWrite (memWrite elements 0x1020 [0, 0, 0x10]) 0x1030 (leBytes 8 0xFFFF_FFFF_FFFF_FFFF)
  let mem := if op ≤ 0x0D then memSet (memSet mem 0x47 0x47) 0x78 8 else mem
  startedIn (({ live with mem := mem }.updPier 0 fun p => { p with
      cfg := { p.cfg with paramBase := 0x1000, paramRange := 0x10_0000, normBase := 0x2000 } }).updPier 4 fun p => { p with
        cfg := { p.cfg with ckptBase := BitVec.ofNat 64 (0x10_0000_0000 + 2 ^ 52) } })
    { head op 3 0x6000 with w3 := BitVec.ofNat 64 (2 ^ 63 + 0x40), w4 := BitVec.ofNat 64 (2 ^ 63) } .ready

theorem witness_trowel_memory : ∀ op ∈ [0x0C, 0x0D, 0x0E, 0x10, 0x11], (trowelling op).canRun qU op (front (trowelling op) qU) := by
  unfold State.canRun; decide
theorem witness_prune_memory : ∃ t, exec (.prune qU) (trowelling 0x0C) = .next t ∧ memGet t.mem 0x1032 ≠ memGet (trowelling 0x0C).mem 0x1032 := by
  refine ⟨_, rfl, ?_⟩; decide +kernel
theorem witness_regrow_memory : ∃ t, exec (.regrow qU) (trowelling 0x0D) = .next t ∧ memGet t.mem 0x1032 ≠ memGet (trowelling 0x0D).mem 0x1032 := by
  refine ⟨_, rfl, ?_⟩; decide +kernel
theorem witness_update_memory : ∃ t, exec (.update qU) (trowelling 0x0E) = .next t ∧ memGet t.mem 0x1032 ≠ memGet (trowelling 0x0E).mem 0x1032 := by
  refine ⟨_, rfl, ?_⟩; decide +kernel
theorem witness_ckpt_memory : ∃ t, exec (.ckpt qU) (trowelling 0x10) = .next t ∧
    memGet t.mem 0x10_0000_0040 ≠ memGet (trowelling 0x10).mem 0x10_0000_0040 := by
  refine ⟨_, rfl, ?_⟩; decide +kernel
theorem witness_export_memory : ∃ t, exec (.exportShards qU) (trowelling 0x11) = .next t ∧ memGet t.mem 0xC0 ≠ memGet (trowelling 0x11).mem 0xC0 := by
  refine ⟨_, rfl, ?_⟩; decide +kernel

/-- R101, R159: int8 37 × 3 is 111, scales 1; R210: a sum over one element is that element. -/
theorem test_mmul : ∃ t, exec (.mmul qW) (copying 1) = .next t ∧ memGet t.mem 0xC0 = 111 := by
  refine ⟨_, rfl, ?_⟩
  decide +kernel
theorem test_reduce : ∃ t, exec (.reduce qW) (copying 9) = .next t ∧ memGet t.mem 0xC0 = 0x25 := by
  refine ⟨_, rfl, ?_⟩
  decide +kernel
theorem test_move : ∃ t, exec (.move qW) (copying 0x12) = .next t ∧ memGet t.mem 0xC0 = 0x25 := by
  refine ⟨_, rfl, ?_⟩
  decide +kernel

/-- An ACT for core 0 whose table 1 is there (kind 1, no builtin), without a store. -/
def lookup : Header := { head 8 1 0 with w3 := BitVec.ofNat 64 (2 ^ 63 + 0x40), w7 := 1 }
def tabled : State := startedIn { live with
    mem := [(16, 1), (0x40, 0xC0), (0x47, 0x07), (0x48, 1), (0x4C, 1), (0x50, 1), (0x54, 1), (0x6A, 0x80), (0x6B, 0x3F)] }
    lookup .ready

theorem witness_table_stores : ∃ x, tabled.head qC = some x ∧ x.phase = .ready ∧ x.hdr.opcode = 8 ∧
    tabled.heldBack qC x.hdr x.policy x.ops = false ∧ (∀ p ∈ x.shares, p ∈ x.begun) ∧ x.left ≠ [] ∧
    ∀ p ∈ x.left, tabled.shareTurn qC x.hdr p = true ∧ tabled.needsTable (tabled.envAt p qC x) = true := ⟨_, rfl, by decide⟩
theorem witness_table_available : ∃ x, (started lookup .table).head qC = some x ∧ x.phase = .table ∧
    ¬∃ p ∈ x.left, p ∈ x.begun ∧ (started lookup .table).needsTable ((started lookup .table).envAt p qC x) = true := ⟨_, rfl, by decide⟩
theorem witness_table_load : Sound live ∧ live.func.loaded = true := by unfold Sound; decide
theorem witness_table_tested : ∃ x ∈ ({ live with sounding := [⟨.course ⟨0, 3⟩, 90, false, none⟩] } : State).sounding,
    x.old = none ∧ x.unit = .course ⟨0, 3⟩ := by decide

theorem witness_wait : ∃ x, (started (head 0x14 1 0x6000) .ready).canRun qF 0x14 x := ⟨_, rfl, by decide⟩
theorem witness_signal : ∃ x, (started (head 0x13 1 0x6000) .ready).head qF = some x ∧ x.phase = .ready ∧ x.hdr.opcode = 0x13 ∧
    (started (head 0x13 1 0x6000) .ready).heldBack qF x.hdr x.policy x.ops = false ∧ ¬(x.hdr.sigEn = true ∧ x.hdr.sigOp = 2) :=
  ⟨_, rfl, by decide⟩

/-- A SIGNAL with a test-and-set of keystone 0. -/
def tasHeader : Header := { head 0x13 1 0x6000 with w1 := BitVec.ofNat 64 (2 ^ 47 + 2 ^ 49) }
theorem witness_signal_tas : ∃ x, (started tasHeader .ready).head qF = some x ∧ x.phase = .ready ∧ x.hdr.opcode = 0x13 ∧
    (started tasHeader .ready).heldBack qF x.hdr x.policy x.ops = false ∧ x.hdr.sigEn = true ∧ x.hdr.sigOp = 2 ∧
    ∀ p ∈ x.shares, ¬(x.hdr.stream = 0 ∧ 3 < unitLevel x.hdr.unit ∧ live.classHas x.hdr.cls p = false) := ⟨_, rfl, by decide⟩
/-- The same of stream G for the module, of a class that pier 0 is not in. -/
theorem witness_signal_out : 3 < unitLevel (head 0x13 0 0x8000).unit ∧ (head 0x13 0 0x8000).stream = 0 ∧
    live.classHas (head 0x13 0 0x8000).cls 0 = false := by decide

/-! ## From submission to completion -/

/-- Headers of WAIT that wait for keystone 0 to reach 5, and for nothing. -/
def waiting : Header := { head 0x14 1 0x6000 with w1 := BitVec.ofNat 64 (2 ^ 15), w2 := 5 }
def plain : Header := head 0x14 1 0x6000
/-- A malformed one: MMUL without operands. -/
def bad : Header := head 1 1 0x6000

theorem witness_decode_waits : (withHead waiting .queued).holding = false ∧ live.asleepBefore waiting.unit 1 = none ∧
    live.malformed waiting .image 0 = false ∧ live.headerMet waiting = false ∧ live.headerMet bad = true ∧
    live.malformed bad .image 0 = true ∧ bad.waitInval = false := by decide
theorem witness_decode_holding : ({ live with func := { live.func with state := 5 } } : State).holding = true := by decide
theorem witness_decode_asleep : (State.reset.unitFailed plain) = false ∧ State.reset.asleepBefore plain.unit 1 ≠ none := by decide
theorem witness_decode_held : (live.updPier 0 fun p => { p with cfg := PierCfg.reset }).heldBack qF plain 0 [] = true := by decide
theorem witness_decode_failed : (live.updPier 0 fun p => { p with failed := [domainNo (.mortar 0)] }).unitFailed plain = true ∧
    live.heldBack qF plain 0 (live.readOps plain 0) = false := by decide
theorem witness_header_started : (withHead plain .queued).head qF = some (entry plain .queued) ∧ live.holding = false ∧
    live.asleepBefore plain.unit plain.stream = none ∧ live.malformed plain .image (live.queuePier qF) = false ∧
    live.headerMet plain = true ∧ live.heldBack qF plain 0 (live.readOps plain 0) = false ∧ live.unitFailed plain = false := by decide
theorem witness_header_completes : ∃ x, (withHead plain .ran).head qF = some x ∧ x.phase = .ran ∧ x.jobs = 0 := ⟨_, rfl, by decide⟩
theorem witness_header_sends : tasHeader.sigEn = true ∧ tasHeader.sigOp = 2 ∧ tasHeader.opcode = 0x13 ∧
    ({ tasHeader with w1 := BitVec.ofNat 64 (2 ^ 47 + 2 ^ 48) } : Header).sigOp = 1 := by decide
/-- A header of core 0 whose course runs it, and one behind it. -/
def ofCourse : State := { (withHead (head 0x14 1 0) .queued).updPier 0 (·.joinLines [0] 1 qC) with waitingSubs := [] }
theorem witness_in_turn : ofCourse.inTurn qC = true ∧ ofCourse.inTurn ⟨1, 1⟩ = false ∧ atCourse ⟨1, 1⟩ = true ∧
    (entry (head 0x14 1 0) .queued).begun = [] ∧ ofCourse.shareRoom qC (head 0x14 1 0) 0 = true := by decide

/-- A submission that waits at queue F of pier 0. -/
def held : WaitingSub := ⟨qF, plain, .image, none⟩
theorem witness_submission_enqueued : ({ live with waitingSubs := [held] } : State).waitingSubs.find? (fun w => w.key == qF) = some held ∧
    held.hdr.key = qF ∧ ({ live with waitingSubs := [held] } : State).queueRoom qF = true := by decide

/-- The first address of pier 0's control block. -/
def ctl : Nat := 0xF_FF00_0000_0000
theorem witness_line_write : live.place (ctl + 0x10_0000) = .control 0 0x10_0000 ∧ (headerBytes plain).length = 64 ∧
    headerOf (headerBytes plain) = plain ∧ unitExists plain.unit = true ∧ live.hasRoom plain.key = true := by decide
theorem witness_line_last : live.place (ctl + 0x10_00C0) = .control 0 0x10_00C0 ∧ (0x10_00C0 : Nat) < 0x10_0100 ∧
    (0x10_00C0 : Nat) % 64 = 0 := by decide
theorem witness_line_full : ({ live with queues := [⟨qF, List.replicate 32 (entry plain .queued)⟩] } : State).hasRoom plain.key = false := by
  decide
theorem witness_reaches : live.reaches (.host 0 7) 0 2 ∧ live.reaches (.mason 3 1) 3 1 ∧ live.reachesRegs (.skov true) 0 2 :=
  ⟨⟨⟨by decide, by decide, by decide⟩, by decide, by decide⟩, rfl, .inr ⟨true, rfl⟩⟩

/-! ## Keystones -/

theorem witness_keystone_write : live.place (ctl + 0x3_FFC8) = .control 0 0x3_FFC8 ∧ (0x3_FFC8 : Nat) < 0x4_0000 ∧
    0x3_FFC8 % 8 = 0 ∧ 0x3_FFC8 % 64 / 8 = 1 ∧ (leBytes 8 5).length = 8 := by decide
theorem witness_keystone_read : live.place (ctl + 0x10) = .control 0 0x10 ∧ 0x10 % 64 = 16 := by decide
theorem witness_keystone_short : live.place ctl = .control 0 0 ∧ (leBytes 4 5).length = 4 ∧ (live.pier 0).awake = true := by decide
theorem witness_keystone_skov : live.place (ctl + 8) = .control 0 8 ∧ live.deadPier 0 = false ∧
    live.place (ctl + 0x10_0000) = .control 0 0x10_0000 := by decide

/-- Keystone 3 of pier 0 with one operation arriving on port 6. -/
def arriving (kind : Nat) : State := live.updPier 0 fun p => { p with keyArriving := [⟨3, 6, kind, 5, .none⟩] }
/-- And with one test-and-set deferred. -/
def deferred : State := live.updPier 0 fun p => { p with keyDeferred := [⟨3, 6, 2, 5, .none⟩] }

theorem witness_keystone_cycle : (takeArriving 3 [] ((arriving 0).pier 0).keyArriving).1 ≠ [] ∧
    (deferred.pier 0).keyDeferred.filter (fun o => keyLocal o.key == 3) ≠ [] ∧
    3 ≠ fld (live.pier 0).cfg.keyStep.toNat 14 0 := by decide
theorem test_keystone_add : ∃ t, exec (.keystoneUpdateCycle 3) (arriving 0) = .next t ∧ (t.pier 0).keys.get 3 = 5 :=
  ⟨_, rfl, by decide⟩
theorem test_keystone_set : ∃ t, exec (.keystoneUpdateCycle 3) (arriving 1) = .next t ∧ (t.pier 0).keys.get 3 = 5 :=
  ⟨_, rfl, by decide⟩
theorem witness_keystone_deferred : (deferred.pier 0).keyDeferred.filter (fun o => keyLocal o.key == 3) = [⟨3, 6, 2, 5, .none⟩] ∧
    (5 : Nat) < 2 ^ 32 ∧ (deferred.pier 0).keys.get 3 < 2 ^ 32 := by decide
theorem witness_step_advanced : ({ live with stepDone := some 36 } : State).stepDone = some 36 ∧ 36 + 64 ≤ live.tick ∧
    ¬(live.tick < 36 + 64) ∧ live.tick < 37 + 64 := by decide
/-- A header that waits for its signal to be applied, which arrives. -/
def closing : State := (withHead tasHeader .closing).updPier 0 fun p => { p with keyArriving := [⟨0, 6, 0, 5, .signal qF⟩] }
theorem witness_keystone_signal : (takeArriving 0 [] (closing.pier 0).keyArriving).1 = [⟨0, 6, 0, 5, .signal qF⟩] ∧
    closing.head qF = some (entry tasHeader .closing) := by decide
theorem test_signal_applied : ∃ t, exec (.keystoneUpdateCycle 0) closing = .next t ∧ t.queue qF = [] := ⟨_, rfl, by decide⟩

/-! ## Chisel engines and trowels -/

/-- A job of queue F. -/
def job (body : JobBody) (taken : Option (Fin 4)) : Job := ⟨qF, body, some 1, 0, taken⟩
/-- A rewrite of the tensor with the zero descriptor. -/
def rewriting : RewriteJob := ⟨.zero, 0, [], [], true, [], 0x0C, 0, (false, false)⟩
def withJob (j : Job) : State := (withHead plain .ran).updPier 0 fun p => { p with jobs := [j] }

theorem witness_chisel_started : bitAt ((withJob (job (.topk 0) none)).pier 0).chiselOut 1 = false ∧
    job (.topk 0) none ∈ ((withJob (job (.topk 0) none)).pier 0).jobs ∧ ((withJob (job (.topk 0) none)).pier 0).serves 1 1 = true ∧
    bitAt 2 1 = true := by decide
theorem witness_chisel_yields : (job (.rewrite rewriting) (some 1)).rank = 3 ∧ (job (.topk 0) none).rank < 3 := by decide
theorem witness_finish_pass : job (.finish .zero (false, false)) (some 1) ∈ ((withJob (job (.finish .zero (false, false)) (some 1))).pier 0).jobs ∧
    ∃ x, (withJob (job (.finish .zero (false, false)) (some 1))).queue qF = [x] := ⟨by decide, _, rfl⟩
theorem witness_mask_rewrite : job (.rewrite rewriting) (some 1) ∈ ((withJob (job (.rewrite rewriting) (some 1))).pier 0).jobs ∧
    ∃ x, (withJob (job (.rewrite rewriting) (some 1))).queue qF = [x] := ⟨by decide, _, rfl⟩

/-- An apply of the zero descriptor to close, on a pier whose parameter table at 0x1000 has one entry, of tensor 0. -/
def applied : State :=
  (withHead { head 0x0E 3 0x6000 with w7 := 0x100 } .ran).updPier 0 fun p => { p with
    applies := [⟨qU, Desc.zero.tens, 0, 7, 0, 0, 0, 0, [], (false, false)⟩]
    cfg := { p.cfg with paramBase := 0x1000, paramRange := 0x10_0000, normBase := 0x2000 } }

theorem witness_apply_completes : ∃ j x e, (applied.pier 0).applies.find? (fun j => j.q == qU) = some j ∧ applied.queue qU = [x] ∧
    j.q = qU ∧ applied.pentry 0 j.tensor = some e ∧ e.at_ = 0x1000 ∧ applied.memHome 0x1030 = some 0 ∧ e.at_ + 64 ≤ 2 ^ 52 ∧
    j.fps = [] ∧ 4096 * fld (applied.pier 0).cfg.normBase.toNat 51 12 = 0x2000 := by
  refine ⟨_, _, _, rfl, rfl, rfl, rfl, ?_⟩
  decide

/-- A block-update of the zero descriptor. -/
def update : DeferEntry := ⟨Desc.zero.tens, Desc.zero.tens, 0, 0, false, false, 0, 0, 0, 0, qU, [0, 0, 0, 0], [1], []⟩
theorem witness_deferral_placed :
    ((live.updQuoin 0 fun q => { q with placing := [update] }).quoin 0).placing = [update] ∧ (live.quoin 0).queue.length < 65536 ∧
    live.reach (cornerPier 0) 0 = .ok := by decide
theorem witness_deferral_drained : ((live.updQuoin 0 fun q => { q with queue := [update] }).quoin 0).queue = [update] ∧
    live.place 0 ≠ .absent ∧ live.place 0x1000_0000_0000 = .absent := by decide

/-- A parameter whose one entry is trained, with its descriptor known, and a stored fingerprint of 1. -/
def checked (fp : Nat) : State :=
  (applied.updPier 0 fun p => { p with applies := [], known := [(0, .zero)], cfg := { p.cfg with fprintBase := 0x3000 } }) |>
    fun s => { s with queues := [], mem := memWrite [] 0x1022 [0x10] |> fun m => memWrite m 0x3000 (leBytes 8 fp) }

theorem witness_recheck_same : ∃ e, (checked 0).pentry 0 0 = some e ∧ e.trained = true ∧
    (checked 0).storedFp 0 Desc.zero.tens 0 0 = some ((checked 0).copyFp 0 Desc.zero.tens 0) := ⟨_, rfl, by decide⟩
theorem witness_recheck_lost : ∃ e, (checked 1).pentry 0 0 = some e ∧ e.trained = true ∧ (checked 1).uBusy 0 0 = false ∧
    (checked 1).storedFp 0 Desc.zero.tens 0 0 ≠ some ((checked 1).copyFp 0 Desc.zero.tens 0) ∧ Desc.zero.tens.replicas 0 = [] :=
  ⟨_, rfl, by decide⟩
theorem witness_recheck_mending : ∃ y ∈ (((checked 1).updPier 0 fun p => { p with repairing := [⟨0, 0, none⟩] }).pier 0).repairing,
    y.tensor = 0 ∧ y.shard = 0 := by decide
/-- A parameter of one shard at pier 0 with a replica at pier 1, whose copy is the one that the stored fingerprint tells. -/
def shared : Tens := { Desc.zero.tens with own := some ⟨0, 0, 0, [0, 0], 1, 1, [0x200]⟩ }
theorem witness_recheck_heir : shared.replicas 0 = [1] ∧ shared.ownerOf 0 0 = 0 := by decide

/-- A checkpoint that pier 0 writes, or drains into the window of CXL port 0. -/
def ckptState (drain draining : Bool) (records : Nat) (present : Bool) : State :=
  { (withHead (head 0x10 3 0x6000) .ran).updPier 0 fun p => { p with
      ckpt := some ⟨qU, drain, 7, 3, records, 64, [], draining⟩, cfg := { p.cfg with ckptCxl := 0x1000_0000_0000 } } with
    cxl := Vector.replicate 8 { CxlPort.reset with present := true, registered := present, sizeMib := 256 } }

theorem witness_ckpt_written : ((ckptState true false 1 true).pier 0).ckpt = some ⟨qU, true, 7, 3, 1, 64, [], false⟩ ∧
    (∃ x, (ckptState true false 1 true).queue qU = [x]) ∧ (ckptState true false 1 true).drainTarget 0 = some 0x1000_0000_0000 ∧
    (ckptState true false 1 false).drainTarget 0 = none := by
  refine ⟨by decide, ⟨_, rfl⟩, by decide, by decide⟩
theorem witness_ckpt_drained : ((ckptState true true 1 true).pier 0).ckpt = some ⟨qU, true, 7, 3, 1, 64, [], true⟩ ∧
    (ckptState true true 1 true).memHome 0x1000_0000_0000 ≠ none := by decide
theorem witness_ckpt_empty : ((ckptState true false 0 true).pier 0).ckpt = some ⟨qU, true, 7, 3, 0, 64, [], false⟩ ∧
    (ckptState true false 1 true).deadPier 4 = false := by decide

/-! ## Memory, sleep and failures -/

/-- A dirty line of CXL port 0's window in pier 0's mortar. -/
def cxlLine : MortLine := ⟨0x1000_0000_0000, 0, true, 0, some (List.replicate 64 0)⟩
def tier : State :=
  { live.updPier 0 fun p => { p with mortar := [cxlLine] } with
    cxl := Vector.replicate 8 { CxlPort.reset with present := true, registered := true, sizeMib := 256 } }

theorem witness_run_ahead : live.place 0x1000_0000_0000 = .absent ∧ live.place ctl = .control 0 0 ∧
    live.memHome 0x4_0000_0000 = some 1 ∧ live.memHome 0 = some 0 ∧ live.place 0 = .gddr 0 0 ∧
    (live.pier 0).holds 0 = false := by decide
theorem witness_run_ahead_cxl : tier.place 0x1000_0000_0040 = .cxl 0 0x40 ∧ tier.memHome 0x1000_0000_0040 = some (cornerPier 0) ∧
    (tier.pier 0).holds 0x1000_0000_0040 = false ∧ (tier.pier 0).holds 0x1000_0000_0000 = true := by decide
theorem witness_repoint : tier.repointPlace (.mortarBank 0 0) 0 = some (.mortar 0 0x1000_0000_0000) ∧
    live.repointPlace (.mortarBank 0 0) 65535 = none := by decide
theorem witness_retrain : ((live.updPier 0 fun p => { p with retrained := [(2, 1)] }).pier 0).retrained.get 2 ≠ 0 ∧
    live.tick + 1 < 1 + 5000000 ∧ (live.pier 0).retrained.get 2 = 0 := by decide
theorem witness_evacuation : fld (setFld 0x1AC688 22 21 1) 22 21 = 1 ∧ fld (setFld 0x1AC688 22 21 1) 25 23 < 6 ∧
    live.uRan.get 0 = 0 ∧ fld 0x1AC688 22 21 ≠ 1 := by decide
theorem witness_cxl_arrival : live.power.regulators = true ∧ (live.cxlPort 7).registered = false ∧
    (tier.cxlPort 7).registered = true := by decide
theorem witness_cxl_departure : tier.windowLines 0 = [cxlLine] ∧ cxlLine.line % 64 = 0 ∧ cxlLine.line < 2 ^ 52 ∧
    (∀ x ∈ (tier.quoin 0).queue ++ (tier.quoin 0).placing, x.port ≠ 0) ∧ tier.drainingTo 0 = [] := by decide
theorem witness_course_sleep : fld (live.pier 0).cfg.sleep.toNat 15 0 ≠ 0 ∧ live.courseBusy ⟨0, 47⟩ = false ∧
    (live.updPier 0 (·.joinLines [0] 1 qC)).courseBusy ⟨0, 0⟩ = true := by decide
/-- Core 0's engine has followed a run up to its pier's first line. -/
theorem witness_run_tracked : ∃ r ∈ ((live.updPier 0 fun p => { p with runs := [⟨0, [0]⟩] }).pier 0).runs, r.core = coreNo ⟨0, 0, 0⟩ ∧
    ∃ top ∈ r.tops, top < 512 ∧ 512 ≤ top + 512 := by decide
theorem witness_cxl_plain : (tier.quoin 0).queue.filter (fun x => x.port == 0) = [] ∧ (tier.cxlPort 0).partnered = true ∧
    (State.reset.cxlPort 0).partnered = false := by decide

/-- A pier awake with nothing to do, past its commitments. -/
def idle : State := live.updPier 0 fun p => { p with coursesAwake := [] }
theorem witness_pier_sleep : (idle.pier 0).awake = true ∧ fld (idle.pier 0).cfg.sleep.toNat 47 16 ≠ 0 ∧ idle.pierBusy 0 = false ∧
    live.pierBusy 0 = true := by decide
theorem witness_wakes : live.mayRun 0 (.mortar 0) = true ∧ live.mayRun 0 (.course ⟨0, 0⟩) = true ∧
    State.reset.mayRun 0 (.mortar 0) = false ∧ ((live.updPier 0 fun p => { p with awake := false }).pier 0).awake = false := by decide
/-- The same long after: their idle windows of 159 and 50,001 ticks have passed. -/
def rested : State := { idle with tick := 50001 }
theorem witness_idle_windows : cdiv (256 * fld (rested.pier 0).cfg.sleep.toNat 15 0) 26 = 158 ∧
    fld (rested.pier 0).cfg.sleep.toNat 47 16 = 50000 ∧ (rested.pier 0).stirred + 1 + 50000 ≤ rested.tick ∧
    rested.courseBusy ⟨0, 0⟩ = false ∧ rested.pierBusy 0 = false := by decide
theorem witness_last_asleep : ∀ r, (State.reset.pier r).awake = false := by decide
/-- A crossing before course 3 of pier 0 that has held two entries since tick 0. -/
def crossing (now : Nat) : State :=
  { live with tick := now, crossHeld := [(domainNo (.course ⟨0, 3⟩), 2), (1000 + domainNo (.course ⟨0, 3⟩), 1)] }
theorem witness_young : (crossing 4095).tick + 1 < (crossing 4095).crossHeld.get (1000 + domainNo (.course ⟨0, 3⟩)) + 4096 ∧
    ¬((crossing 4096).tick + 1 < (crossing 4096).crossHeld.get (1000 + domainNo (.course ⟨0, 3⟩)) + 4096) ∧
    (crossing 4096).crossHeld.get (domainNo (.course ⟨0, 3⟩)) ≠ 0 := by decide
theorem witness_resets : inPier (.mason 0 0) = true ∧ inPier (.cxl 0) = false := by decide
theorem witness_domain_failed : live.activeUp = true ∧ live.isFailed (.gddr 0 0) = false ∧
    (live.updPier 0 fun p => { p with failed := [domainNo (.gddr 0 0)] }).isFailed (.gddr 0 0) = true ∧
    State.reset.activeUp = false := by decide
theorem witness_domain_spare : live.isFailed (.spareCourse 7) = false ∧ live.isFailed (.spareMason 7) = false ∧
    (live.pier 7).idleMason = some 8 := by decide

/-! ## Errors, soundings and spares -/

theorem witness_codeword : (∀ k c, EccPlace.bed ⟨0, 0, 0⟩ 0 ≠ .keystone k c) ∧ tier.poisonedBy (.mortar 0 0x1000_0000_0000) =
    some 0x1000_0000_0000 ∧ live.poisonedBy (.mortar 0 0) = none :=
  ⟨fun _ _ => nofun, by decide, by decide⟩
/-- The check line of the first eight lines of pier 0. -/
theorem witness_check_line : checkOf 0 = (0, 0) ∧ live.deviceLine 0 5 2 = some (.check 512) ∧
    live.checkedLines 0 5 2 ≠ [] ∧ (live.onSpare 0 0).1 = false := by decide
theorem witness_cxl_poison : tier.inWindow 0 0x1000_0000_0044 = true ∧ tier.inWindow 1 0x1000_0000_0044 = false := by decide

/-- A core being sounded since tick 90. -/
def sounded (u : SUnit) (old : Option Nat) : State := { live with sounding := [⟨u, 90, false, old⟩] }
theorem witness_sounding : (sounded (.core ⟨0, 0, 15⟩) none).sounding.find? (fun x => x.unit == .core ⟨0, 0, 15⟩) =
      some ⟨.core ⟨0, 0, 15⟩, 90, false, none⟩ ∧ (live.pier 0).idleCore 0 = some 16 ∧ (live.pier 0).idleCourse = some 48 ∧
    (live.pier 0).idleMason = some 8 ∧ (live.pier 0).keysUsed < 256 ∧ (live.pier 0).repair.get 63 < 64 ∧
    (live.pier 0).soundings = [] := by decide
theorem witness_sounding_channel : fld (live.pier 0).chanMap.toNat 17 15 = 5 ∧ fld (live.pier 0).chanMap.toNat 20 18 ≠ 7 ∧
    fld (live.pier 0).chanMap.toNat 22 21 = 0 := by decide
theorem witness_spare_takeover : (∃ x ∈ (sounded (.core ⟨0, 0, 15⟩) none).sounding, x.unit = .core ⟨0, 0, 15⟩ ∧ x.old = none) ∧
    live.courseBusy ⟨0, 0⟩ = false ∧ (live.pier 0).idleCore 0 = some 16 := by decide
theorem witness_spare_course : (∃ x ∈ (sounded (.course ⟨0, 3⟩) none).sounding, x.unit = .course ⟨0, 3⟩ ∧ x.old = none) ∧
    (live.pier 0).idleCourse = some 48 := by decide
/-- A mason core whose state is being saved since a tick. -/
def saving (at_ : Nat) : State :=
  { live.updPier 0 fun p => { p with masons := p.masons.set 0 { Mason.reset 0 with saving := some at_ } } with tick := 50000 }
theorem witness_mason_exchange : (saving 0).savingAt 0 0 = some 0 ∧ ¬((saving 0).tick < 0 + 50000) ∧ 0 + 50000 ≤ (saving 0).tick ∧
    ((saving 0).pier 0).idleMason = some 8 ∧ (saving 1).tick < 1 + 50000 := by decide
theorem witness_spare_due : ({ live with tick := hourTicks } : State).runs 0 = true ∧ (live.pier 0).cfg.spareTicks = hourTicks ∧
    (live.pier 0).routineAt.get (live.routineNo (.keyBlock 0)) + (live.pier 0).cfg.spareTicks ≤ hourTicks ∧
    sparePier (.keyBlock 0) = some 0 := by decide
theorem witness_spare_idle : live.idleSpare (.keyBlock 0) = some 4096 ∧ live.idleSpare (.laneGroup 0 false 0) = some 80 := by decide
theorem witness_link : (47 : Nat) ∉ live.retired ∧ (∃ x ∈ (sounded (.laneGroup 47 true 9) none).sounding, x.unit = .laneGroup 47 true 9) ∧
    live.laneSpares.get 949 + 4 ≤ 4 ∧ 4 < live.laneSpares.get 949 + 5 := by decide
/-- The same with a share at work on the course. -/
def soundedBusy : State := (sounded (.core ⟨0, 0, 15⟩) none).updPier 0 (·.joinLines [0] 1 qW)
theorem witness_awaits_spare : soundedBusy.awaitsSpare (.core ⟨0, 0, 15⟩) = true ∧ soundedBusy.courseRunning ⟨0, 0⟩ = true ∧
    (sounded (.core ⟨0, 0, 15⟩) none).courseRunning ⟨0, 0⟩ = false ∧ live.awaitsSpare (.core ⟨0, 0, 15⟩) = false := by decide
theorem witness_course_failed : domainNo (.course ⟨0, 3⟩) ∈
    ((live.updPier 0 fun p => { p with failed := [domainNo (.course ⟨0, 3⟩)] }).pier 0).failed := by decide
/-- A header of course 3 whose course has failed and waits for its exchange. -/
theorem witness_course_exchange : (live.updPier 0 fun p => { p with failed := [domainNo (.course ⟨0, 3⟩)] }).courseFailed (head 0x14 1 0x30) = true ∨
    (live.updPier 0 fun p => { p with failed := [domainNo (.course ⟨0, 3⟩)] }).courseFailed (head 8 1 0x30) = true := by decide
/-- A keystone operation that waits on link 0 behind a cycle being replayed. -/
def waitingOnLink : State := { live with linkFails := [(0, 1)], linkHeld := [⟨0, [], 1, ⟨4099, 8, 0, 5, .none⟩⟩] }
theorem witness_link_held : waitingOnLink.linkRuns 0 = true ∧ (State.reset.linkRuns 0) = false ∧
    waitingOnLink.linkHeld.filter (fun y => y.link == 2 * 0 + b2n false) = waitingOnLink.linkHeld ∧
    (∀ y ∈ waitingOnLink.linkHeld, y.rest = []) ∧ ∃ l ∈ edgeLinks (linkEdge 0), l ≠ 0 ∧ l ∉ live.retired := by decide
theorem test_link_replayed : ∃ t, exec (.linkCycleReceive 0 false [] (List.replicate 14 0)) waitingOnLink = .next t ∧
    (t.pier 1).keyArriving.map (·.operand) = [5] ∧ t.linkHeld = [] := ⟨_, rfl, by decide⟩

/-- A record held since tick 90. -/
def logging : State := { live with held := [(90, errorRecord 1 1 0 0 0 90)] }
theorem witness_log : logging.held = [(90, errorRecord 1 1 0 0 0 90)] ∧ (logging.skov false).up = true := by decide

/-! ## Plumbline -/

theorem witness_training : (pairsTried.zip [false, true, false, false]).find? (·.2) = some ((2, 4), true) ∧
    (pairsTried.zip [false, false, false, false]).find? (·.2) = none ∧ live.power.regulators = true ∧
    (live.port 0).linked = true ∧ (live.port 0).trainState = 5 ∧ (State.reset.port 0).linked = false := by decide
/-- R444: a training flit's bytes. -/
theorem test_training_flit : ((TrainFlit.bytes ⟨3, 3, 3, 2, 0xFF, 5⟩).take 10).map (·.toNat) = [2, 0, 0, 0, 3, 3, 3, 2, 0xFF, 5] := by decide
/-- A port at each state of its training. -/
def training (n : Nat) : State := live.updPort 0 fun p => { p with trainState := n }
theorem witness_training_states : ∀ n < 5, (training n).power.regulators = true ∧ ((training n).port 0).trainState = n := by decide
theorem witness_lanes : ((training 3).port 0).goodLanes.length = 8 ∧ offers [] 2 8 = true := by decide
/-- R446, R492: quick retrain retires the lane that failed, and the spare's assignment is recorded. -/
theorem test_lane_spared : ∃ t, exec (.quickRetrain 0 (some [])) (live.updPort 0 fun p =>
      { p with linked := true, trainState := 5, reversed := false, spareUsed := false, laneFails := [2] }) = .next t ∧
    (t.port 0).spareUsed = true ∧ (t.port 0).retired = 2 ∧
    (t.held.map fun h => (h.2.cls, h.2.response, h.2.detail0, h.2.detail1)) = [(7, 8, 8, 2)] := ⟨_, rfl, by decide⟩
theorem witness_partner : (partnerSays [(TrainFlit.bytes ⟨3, 3, 3, 2, 4, 5⟩).take 10]).map (·.failed) = some 4 ∧ offers [] 2 8 = true := by
  decide

/-- A port with one flit in its replay buffer, sent n times, and an ack owed. -/
def replaying (n : Nat) : State :=
  live.updPort 0 fun p => { p with replay := [⟨0, [1], n⟩], ackOwed := true, retrains := [100, 90, 80] }
theorem witness_replay : ((replaying 4).port 0).replay = [⟨0, [1], 4⟩] ∧ ((replaying 4).port 0).trainState = 5 ∧
    ((replaying 4).port 0).retrains ≠ [] ∧ (replaying 4).tick < 100 + 50000 ∧ ((replaying 3).port 0).ackOwed = true := by decide

theorem witness_three_retrains : ∃ m n k, ((replaying 4).port 0).retrains = [m, n, k] ∧ m < k + 50000 := ⟨100, 90, 80, by decide⟩
theorem witness_two_retrains : ((live.port 0).retrains = []) ∧ (live.port 0).sinceIdle ≤ 2047 := by decide
theorem witness_hears : live.hears 0 1 ∧ live.hears 1 5 ∧ (live.port 0).bound = true ∧ 3 ≤ live.func.state :=
  ⟨⟨by decide, by decide, by decide⟩, ⟨by decide, by decide, by decide⟩, by decide, by decide⟩
theorem witness_memory_requests : live.memHome 0xFF = some 0 ∧ 0xFF % 256 + 1 ≤ 256 ∧ 256 < 0xFF % 256 + 2 ∧
    live.place 0x1000_0000_0000 = .absent := by decide
theorem witness_submissions : plain.unit = 0x6000 ∧ unitExists plain.unit = true ∧ live.hasRoom plain.key = true ∧
    unitExists (head 0x14 1 0xA000).unit = false := by decide
theorem witness_blocked : ({ live with waitingSubs := [⟨qF, plain, .host 0 0, none⟩] } : State).blocked 0 3 = true := by decide
theorem witness_watches : fld (leAt (List.replicate 32 0) 0 8) 31 18 = 0 ∧ fld (leAt (List.replicate 32 0) 0 8) 17 15 = 0 ∧
    (live.port 0).watches.length < 64 := by decide
/-- A watch that is met. -/
def metWatch : Watch := ⟨0, 0, 0, 0, 0, 9, 9, true⟩
theorem witness_watch_met : (((live.updPort 0 fun p => { p with watches := [metWatch] }).port 0).watches.find?
    fun w => w.tag == (9 : U32).toNat && w.met) = some metWatch := by decide
theorem witness_memory_refused : ({ live.updPier 0 fun p => { p with failed := [domainNo (.mortar 0)] } with poison := [0x40] } : State).dead 0 0 = true ∧
    lineOf (0x40 + 1) = 0x40 ∧ live.dead 0 0 = false ∧ live.deadPier 0 = false := by decide

/-- Class 0 defined, on pier 0: G pattern, 64 slots, one header, service 2^39 ticks. -/
def classy : State :=
  { live.updPier 0 fun p => { p with cfg := { p.cfg with bondLo := 0, bondHi := 0 } } with
    promises := [(0, 2 ^ 39 + 2 ^ 40 + 64 * 2 ^ 41 + 2 ^ 48), (4, 2 ^ 52)] }
theorem witness_admitted : classy.classDefined 0 = true ∧ (classy.judgeRequest 0 0 false classy.tick).1 = 0 ∧
    classy.classCount 0 = 1 ∧ (live.judgeRequest 0 0 false 100).1 = 1 ∧ classy.memHome (classy.classRing 0) = some 0 := by decide

/-- The same with a request that has come in the tick. -/
def admitting : State := { classy with admits := [⟨0, 7, List.replicate 16 0⟩] }
theorem witness_admitting : admitting.pending = [] ∧ admitting.power.standby = true ∧ Sound admitting ∧
    admitting.admits = [] ++ ⟨0, 7, List.replicate 16 0⟩ :: [] ∧ (0 : PortId).val = admitting.admitRot % 2 ∧
    (admitting.judgeRequest 0 (fld (leAt (List.replicate 16 0) 0 8) 5 0) (fld (leAt (List.replicate 16 0) 0 8) 31 6 != 0) admitting.tick).1 = 0 := by
  unfold Sound; decide
/-- A request whose program has completed, and one that is late. -/
def asked (done : Option Nat) (promised : Nat) : State :=
  { live with requests := [⟨0, 0, 0, 1, 2, 50, promised, 0, 1, false, done, false, false, 0, 0xFFFF, false⟩] }
theorem witness_program_completion : (asked (some 90) 200).activeUp = true ∧ (asked (some 90) 200).tick ≤ 200 ∧
    (∃ r, (asked (some 90) 200).requests.find? (fun r => r.number == 0) = some r ∧ r.completed = some 90 ∧ r.failed = false) :=
  ⟨by decide, by decide, _, rfl, by decide⟩
/-- The active Skovlaper is down, the standby up. -/
def standIn (s : State) : State := s.updSkov false fun k => { k with up := false }
theorem witness_stand_in : (standIn (asked (some 90) 200)).anySkov = true ∧ (standIn (asked (some 90) 200)).activeUp = false ∧
    ((asked (some 90) 200).requests.map (·.number)).Nodup := by decide
theorem witness_late : ∃ r, (asked none 100).requests.filter (fun r => !r.delivered && r.promised ≤ 100) = [r] ∧ r.departed = false :=
  ⟨_, rfl, rfl⟩

/-! ## Management -/

theorem witness_serves : live.serves (.smbus true) false = true ∧ live.linkUp (.smbus true) = true ∧ live.serves (.port 0 1) false = true ∧
    live.linkUp (.port 0 1) = true ∧ State.reset.serves (.smbus true) true = false := by decide
theorem witness_identity : live.identityReady = true ∧ State.reset.identityReady = false ∧ knownCommand 0x7F = false :=
  ⟨rfl, rfl, by decide⟩
theorem witness_bindings : live.func.context = 0 ∧ (5 : U64).toNat ≠ ({ live.func with context := 4 } : Func).context := by decide
theorem witness_stop : live.func.state = 3 ∧ live.func.downAfter = false ∧ live.anyBusy = false ∧ live.requests = [] ∧
    (live.port 0).bound = true ∧ (∀ q, (live.quoin q).queue = [] ∧ (live.quoin q).placing = []) := by decide
/-- Stopping by abort since tick 0, at its hold. -/
def stopping : State :=
  { live with tick := 500000, func := { live.func with state := 4, stopStep := 3, stopAbort := true, stopSince := 0 } }
theorem witness_stop_hold : stopping.func.state = 4 ∧ stopping.func.stopStep = 3 ∧ 0 + 500000 ≤ stopping.tick := by decide
theorem witness_start : ({ live with func := { live.func with state := 6 } } : State).serves (.port 0 1) false = true ∧
    (live.port 0).bound = true ∧ (1 : Fin 4) ≠ 3 := by decide
/-- Waiting for CXL windows since tick 0, without a timeout. -/
def loading : State := { live with func := { live.func with state := 2, cxlWait := 1 } }
theorem witness_cxl_wait : loading.func.state = 2 ∧ loading.func.loaded = true ∧ loading.power.regulators = true ∧
    loading.func.waitSince + 50000000 * loading.func.cxlTimeout ≤ loading.tick := by decide
theorem witness_update_begin : live.session = none ∧ live.func.state ≠ 2 ∧ (1024 : U32).toNat = 1024 := by decide
/-- A session of the SMBus controller for image slot B. -/
def session : Session := ⟨(.smbus true), 1, 1000, 0, 1, List.replicate 64 0, 90⟩
def updating : State := { live with session := some session }
theorem witness_update_data : updating.serves (.smbus true) updating.sessionFirmware = true ∧ sameOwner (.smbus true) session.owner = true ∧
    session.next ≤ 752 ∧ 752 + 248 ≤ session.length ∧ sameOwner (.port 0 1) session.owner = false := by decide
theorem witness_update_timeout : updating.tick < session.lastTick + 500000000 := by decide
/-- A mason core's store that waits at a submission line. -/
theorem witness_stop_mason : ({ live with waitingSubs := [⟨qF, plain, .image, some (.mason 3 1)⟩] } : State).waitingSubs.map (·.ack) =
    [some (.mason 3 1)] ∧ (live.pier 3).masons[(1 : Fin 8).val]? = some (Mason.reset 1) := by decide

/-! ## Power, Skovlapers and sensors -/

theorem witness_power : (standby.mayIdle ↔ False) ∧ ({ standby with power := { standby.power with main := true } } : State).mayIdle := by
  unfold State.mayIdle; decide
theorem witness_main_lost : live.power.regulators = true ∧ standby.power.regulators = false ∧ standby.func.state = 1 := by decide
theorem witness_skov_boot : ({ State.reset with power := { Power.reset with standby := true } } : State).power.standby = true ∧
    (State.reset.skov true).decided = false ∧ State.reset.func.state = 0 := by decide
theorem witness_skov_rejoin : ({ live with skovs := #v[live.skovs[0], Skov.reset true] } : State).power.standby = true ∧
    (Skov.reset true).decided = false ∧ (Skov.reset true).active = false ∧ live.func.state ≠ 0 ∧ (live.skov false).up = true := by decide
theorem witness_heartbeat : live.power.standby = true ∧ (live.skov !live.activeD).up = true := by decide
theorem witness_watchdog : (({ live with tick := 5000000 } : State).skov false).up = true ∧
    (live.skov false).kickTick + max 1 (live.skov false).wdogMs * 50000 ≤ 5000000 := by decide
theorem witness_sensors : live.sensorLevel.get 83 = 0 ∧ beyond 83 0 0 3 false = false ∧ live.power.regulators = true := by decide
theorem witness_watchdog_kick : (live.skov false).up = true ∧ (State.reset.skov false).up = false ∧ (leBytes 4 5).length ≠ 8 ∧
    live.reaches (.mason 3 0) (cornerPier 1) 2 := ⟨by decide, by decide, by decide, rfl⟩

/-- In Standby, all else permitting, the 54 V supply returns from its trip. -/
def returning : State :=
  { standby with power := { standby.power with main := true }, sensorLevel := [(64, 3)] }
theorem witness_supply_returns : returning.sensorLevel.get 64 = 3 ∧ ({ returning with sensorLevel := [] } : State).mayIdle ∧
    beyond 64 54000 0 1 true = false := by
  unfold State.mayIdle; decide
theorem witness_unsent : ({ live with unsent := [(⟨0, 0, 0, 1, 2, 50, 200, 0, 1, false, some 90, false, false, 0, 0xFFFF, false⟩, [])] } : State).unsent ≠ [] := by
  decide

/-! ## Registers and mason cores -/

theorem witness_registers : live.place (ctl + 0x20_0080) = .control 0 0x20_0080 ∧ 0x20_0080 % 8 = 0 ∧
    pierCounter 0x40 = false ∧ live.place (ctl + 0x80_1000) = .control 0 0x80_1000 := by decide
theorem witness_mason : (live.pier 0).awake = true ∧ live.isFailed (.mason 0 7) = false ∧ live.memHome 0 = some 0 ∧
    live.memHome 0x4_0000_0000 = some 1 ∧ live.place (ctl + 0x100_0000) = .control 1 0 := by decide
/-- A mason core that runs, with a reservation of line 0 which its L2 still holds. -/
def reserving : State :=
  live.updPier 0 fun p => { p with
    masons := p.masons.modify 0 fun m => { m with waits := false, reserve := some 0 }, mortar := [⟨0, 0, false, 1, none⟩] }
theorem witness_mason_runs : (∃ m, (reserving.pier 0).masons[(0 : Fin 8).val]? = some m ∧ m.waits = false) ∧ reserving.waitingSubs = [] ∧
    reserving.isFailed (.mason 0 0) = false ∧ reserving.deadPier 0 = false ∧ reserving.reservation 0 0 0 = true ∧
    live.reservation 0 0 0 = false ∧ reserving.dead 0 0 = false := ⟨⟨_, rfl, rfl⟩, by decide⟩
theorem witness_mason_poison : lineOf 0x44 ∈ ({ reserving with poison := [0x40] } : State).poison ∧ 0x44 % 64 + 8 ≤ 64 ∧
    ({ reserving with poison := [0x40] } : State).memHome 0x44 = some 0 := by decide
theorem test_store_conditional : ∃ t, exec (.masonLoadStore 0 0 (.atomic .storeConditional) 0 8 (leBytes 8 5)) reserving = .next t ∧
    memGet t.mem 0 = 5 ∧ (t.pier 0).masons.map (·.reserve) = List.replicate 8 none := ⟨_, rfl, by decide⟩

end Sys2Proof.Tests
end

section
/-! SUPPORT. Soundness: it holds at reset, and every step keeps it (R7, R467, R472, R498, R502, R511). -/

namespace Sys2Proof.Machine

/-- Settles O4: reset meets each range by computation. -/
theorem resetSound : Obligations.reset_sound := by
  unfold Obligations.reset_sound Sound
  decide

/-- Settles O5: a step is a pilot tick or a command over the rest of the queue, and `Up` says of both that they keep soundness. -/
theorem stepSound : Obligations.step_sound := by
  intro s t hs h
  unfold step at h
  split at h
  case h_1 => exact Host.Outcome.next.inj h ▸ (State.pilotTick_up (Up.refl True s)).sound hs
  case h_2 c rest _ =>
    have hrest : Sound { s with pending := rest } := hs
    exact (exec_up c (fun _ => trivial) h).sound hrest

end Sys2Proof.Machine
end

section
/-! SUPPORT. Accesses to control blocks: the bytes of a host's message read back (R452), a message that takes effect at once (R455), the
way from a command to the window that it names, and what an answer tells and leaves (R12, R32, R371, R453). -/

namespace Sys2Proof.Machine

/-! ## Little-endian bytes (R9) -/

@[simp] theorem length_leBytes (n x : Nat) : (leBytes n x).length = n := by
  induction n generalizing x with
  | zero => rfl
  | succ n ih => simp [leBytes, ih]

/-- The bytes of a number hold it, as far as they reach. -/
theorem ofBytes_leBytes (n x : Nat) : ofBytes (leBytes n x) = x % 2 ^ (8 * n) := by
  induction n generalizing x with
  | zero => simp [leBytes, ofBytes, Nat.mod_one]
  | succ n ih =>
    have hpow : 2 ^ (8 * (n + 1)) = 256 * 2 ^ (8 * n) := by rw [Nat.mul_succ, Nat.pow_add, Nat.mul_comm]
    rw [leBytes, ofBytes, ih, Nat.shiftRight_eq_div_pow, hpow, Nat.mod_mul]
    simp

theorem ofBytes_lt (bs : List Byte) : ofBytes bs < 2 ^ (8 * bs.length) := by
  induction bs with
  | nil => simp [ofBytes]
  | cons b bs ih =>
    have hb := b.isLt
    have hpow : 2 ^ (8 * (b :: bs).length) = 256 * 2 ^ (8 * bs.length) := by
      rw [List.length_cons, Nat.mul_succ, Nat.pow_add, Nat.mul_comm]
    rw [ofBytes, hpow]
    omega

/-- A number of n bytes is below 2^(8 n). -/
theorem leAt_lt (bs : List Byte) (i n : Nat) : leAt bs i n < 2 ^ (8 * n) :=
  Nat.lt_of_lt_of_le (ofBytes_lt _) (Nat.pow_le_pow_right (by decide) (Nat.mul_le_mul_left 8 (List.length_take_le n _)))

/-- The number at the front of bytes that begin with one. -/
theorem leAt_leBytes_append (n x : Nat) (bs : List Byte) : leAt (leBytes n x ++ bs) 0 n = x % 2 ^ (8 * n) := by
  rw [leAt, List.drop_zero, List.take_left' (length_leBytes n x), ofBytes_leBytes]

theorem fld_eq (x hi lo : Nat) : fld x hi lo = x / 2 ^ lo % 2 ^ (hi - lo + 1) := by rw [fld, Nat.shiftRight_eq_div_pow]

/-! ## The message of a host's access (R452) -/

section Message

variable (mtype : Nat) (tag : U32) (a n : Nat) (data : List Byte)

theorem length_msgBytes : (msgBytes mtype tag.toNat a n data).length = 16 + data.length := by simp [msgBytes]; omega

theorem drop_msgBytes : (msgBytes mtype tag.toNat a n data).drop 16 = data := by
  rw [msgBytes]
  exact List.drop_left' (by simp)

/-- The first word of a message: type, length and tag. -/
theorem msgBytes_word0 : leAt (msgBytes mtype tag.toNat a n data) 0 8 = (mtype + 2 ^ 8 * data.length + 2 ^ 32 * tag.toNat) % 2 ^ 64 := by
  rw [msgBytes, List.append_assoc, leAt_leBytes_append]

/-- The second word: address and rlen. -/
theorem msgBytes_word1 : leAt (msgBytes mtype tag.toNat a n data) 8 8 = a % 2 ^ 52 + 2 ^ 52 * (n % 256) := by
  have h8 : (msgBytes mtype tag.toNat a n data).drop 8 = leBytes 8 (a % 2 ^ 52 + 2 ^ 52 * (n % 256)) ++ data := by
    rw [msgBytes, List.append_assoc]
    exact List.drop_left' (by simp)
  have hw := leAt_leBytes_append 8 (a % 2 ^ 52 + 2 ^ 52 * (n % 256)) data
  rw [leAt, List.drop_zero] at hw
  rw [leAt, h8, hw]
  omega

theorem msgBytes_type (ht : mtype < 256) : (byteAt (msgBytes mtype tag.toNat a n data) 0).toNat = mtype := by
  simp [msgBytes, byteAt, leBytes]
  omega

variable {mtype} {data}

/-- The fields of the message that its type, tag, address and rlen are read from. -/
theorem msgBytes_fields (ht : mtype < 256) (hd : data.length ≤ 256) :
    let m := msgBytes mtype tag.toNat a n data
    fld (leAt m 0 8) 7 0 = mtype ∧ BitVec.ofNat 32 (fld (leAt m 0 8) 63 32) = tag ∧ fld (leAt m 8 8) 51 0 = wrap52 a ∧
      fld (leAt m 8 8) 59 52 = n % 256 := by
  have htag := tag.isLt
  simp only [fld_eq, msgBytes_word0, msgBytes_word1, wrap52]
  refine ⟨by omega, ?_, by omega, by omega⟩
  have h32 : (mtype + 2 ^ 8 * data.length + 2 ^ 32 * tag.toNat) % 2 ^ 64 / 2 ^ 32 % 2 ^ (63 - 32 + 1) = tag.toNat := by omega
  rw [h32, BitVec.ofNat_toNat, BitVec.setWidth_eq]

end Message

/-- A read of 1 to 256 bytes that nothing holds back takes effect, and its credit is given back (R454, R455). -/
theorem State.message_read {s : State} {p : PortId} (hh : s.hears p 1) (tag : U32) (a : Nat) {n : Nat} (h1 : 1 ≤ n) (h2 : n ≤ 256) :
    s.message p (msgBytes 1 tag.toNat a (n + 255) []) = (s.takeRead (.host p tag) (wrap52 a) n).giveCredit p 0 := by
  obtain ⟨htrain, -, hblock⟩ := hh
  obtain ⟨hf0, hf1, hf2, hf3⟩ := msgBytes_fields tag a (n + 255) (show 1 < 256 by decide) (show ([] : List Byte).length ≤ 256 by decide)
  have hn : (n + 255) % 256 + 1 = n := by omega
  have htype := msgBytes_type 1 tag a (n + 255) [] (by decide)
  simp [State.message, htrain, htype, length_msgBytes, lengthOk, State.arrive, hblock, State.take, hf0, hf1, hf2, hf3, hn]

/-- So does a write of 1 to 256 bytes. -/
theorem State.message_write {s : State} {p : PortId} (hh : s.hears p 2) (tag : U32) (a : Nat) {data : List Byte}
    (h1 : 1 ≤ data.length) (h2 : data.length ≤ 256) :
    s.message p (msgBytes 2 tag.toNat a 0 data) = (s.takeWrite (.host p tag) (wrap52 a) data).giveCredit p 0 := by
  obtain ⟨htrain, -, hblock⟩ := hh
  obtain ⟨hf0, hf1, hf2, -⟩ := msgBytes_fields tag a 0 (show 2 < 256 by decide) h2
  have htype := msgBytes_type 2 tag a 0 data (by decide)
  simp [State.message, htrain, htype, length_msgBytes, lengthOk, State.arrive, hblock, State.take, hf0, hf1, hf2, drop_msgBytes, h1, h2]

/-! ## Places -/

@[simp] theorem State.place_wrap52 (s : State) (a : Nat) : s.place (wrap52 a) = s.place a := by
  have h : wrap52 (wrap52 a) = wrap52 a := Nat.mod_mod _ _
  rw [State.place, State.place, h]

/-- An address of a control block gives its pier and offset, and the other way round. -/
theorem State.place_control {s : State} {a off : Nat} {p : PierId} (h : s.place a = .control p off) :
    wrap52 a = controlBase p + off ∧ off < 0x100_0000 := by
  unfold State.place at h
  dsimp only at h
  split at h
  · cases h
  split at h
  · split at h <;> cases h
  split at h
  case isFalse => cases h
  case isTrue hc =>
    obtain ⟨rfl, rfl⟩ := Place.control.inj h
    simp only [Bool.and_eq_true, decide_eq_true_eq] at hc
    simp only [controlBase, pierOf]
    omega

theorem State.place_of_base (s : State) (p : PierId) {off : Nat} (h : off < 0x100_0000) :
    s.place (controlBase p + off) = .control p off := by
  have hp := p.isLt
  have hbase : controlBase p = 0xF_FF00_0000_0000 + 0x100_0000 * p.val := rfl
  generalize ha : controlBase p + off = a
  have hw : wrap52 a = a := Nat.mod_eq_of_lt (by omega)
  have hpier : pierOf ((a - 0xF_FF00_0000_0000) / 0x100_0000) = p := Fin.ext (by simp only [pierOf]; omega)
  have hoff : (a - 0xF_FF00_0000_0000) % 0x100_0000 = off := by omega
  unfold State.place
  rw [hw]
  dsimp only
  rw [if_neg (by omega), if_neg (by rw [Bool.and_eq_true, decide_eq_true_eq, decide_eq_true_eq]; omega),
    if_pos (by rw [Bool.and_eq_true, decide_eq_true_eq, decide_eq_true_eq]; omega), hpier, hoff]

/-- The byte of a control block in its 256-byte line is that of its address. -/
theorem State.place_mod {s : State} {a off : Nat} {p : PierId} (h : s.place a = .control p off) : a % 256 = off % 256 := by
  obtain ⟨hw, -⟩ := State.place_control h
  simp only [wrap52, controlBase] at hw
  omega

/-- SKOV_WDOG lies at offset 0x80_1008 of its quoin's corner pier (R554). -/
theorem State.place_wdog (s : State) (d : Bool) : s.place (skovReg d 8) = .control (cornerPier (if d then 3 else 1)) 0x80_1008 :=
by
  have hreg : skovReg d 8 = controlBase (cornerPier (if d then 3 else 1)) + 0x80_1008 := by
    simp only [skovReg, quoinReg, Nat.add_assoc]
  rw [hreg]
  exact s.place_of_base _ (by decide)

theorem State.place_ne_wdog {s : State} {a off : Nat} {p : PierId} (h : s.place a = .control p off) (hoff : off ≠ 0x80_1008) (d : Bool) :
    a ≠ skovReg d 8 := by
  rintro rfl
  rw [s.place_wdog d] at h
  exact hoff (Place.control.inj h).2.symm

/-! ## Windows -/

theorem windowOf_keys (p : PierId) {off : Nat} (h : off < 0x4_0000) : windowOf p off = .keys := by simp [windowOf, h]

theorem windowOf_lines (p : PierId) {off : Nat} (h1 : 0x10_0000 ≤ off) (h2 : off < 0x10_0100) : windowOf p off = .lines := by
  have h0 : ¬off < 0x4_0000 := by omega
  simp [windowOf, h0, h1, h2]

theorem windowOf_pier (p : PierId) {off : Nat} (h1 : 0x20_0000 ≤ off) (h2 : off < 0x40_0000) : windowOf p off = .pier := by
  have h0 : ¬off < 0x4_0000 := by omega
  have h3 : ¬off < 0x10_0100 := by omega
  simp [windowOf, h0, h3, h1, h2]

@[simp] theorem cornerQuoin_cornerPier (q : QuoinId) : cornerQuoin (cornerPier q) = some q := by revert q; decide

theorem windowOf_quoin (q : QuoinId) {off : Nat} (h1 : 0x80_0000 ≤ off) (h2 : off < 0x90_0000) :
    windowOf (cornerPier q) off = .quoin q := by
  have h0 : ¬off < 0x4_0000 := by omega
  have h3 : ¬off < 0x10_0100 := by omega
  have h4 : ¬off < 0x40_0000 := by omega
  simp [windowOf, h0, h3, h4, h1, h2]

/-! ## From a command to its window -/

/-- What is left to do once an access has acted: a host's message gives its credit back (R454). -/
def State.afterAccess (s : State) (src : Source) : State :=
  match src with
  | .host p _ => s.giveCredit p 0
  | _ => s

/-- A host may reach control blocks as R456, R463 and R468 say: bound, while an image runs, within 256 bytes. -/
theorem State.hostGate_none {s : State} {p : PortId} {tag : U32} {a n : Nat} (hb : (s.port p).bound = true) (hf : 3 ≤ s.func.state)
    (hfit : a % 256 + n ≤ 256) : s.hostGate (.host p tag) a n = none := by
  have hf' : ¬s.func.state ≤ 2 := by omega
  simp [State.hostGate, hb, hf', within256, hfit]

/-- A host's access of n bytes stays within 256 aligned ones (R456). -/
def accessFits (src : Source) (a n : Nat) : Prop := ∀ p tag, src = .host p tag → 1 ≤ n ∧ a % 256 + n ≤ 256

theorem accessFits_of_place {s : State} {src : Source} {a off n : Nat} {p : PierId} (h : s.place a = .control p off) (h1 : 1 ≤ n)
    (h2 : off % 256 + n ≤ 256) : accessFits src a n := fun _ _ _ => ⟨h1, by rw [State.place_mod h]; exact h2⟩

/-- A read of a window by a source that reaches it. -/
theorem State.windowRead_reaches {s : State} {src : Source} {a n off : Nat} {pier : PierId} {ok : Window → Nat → Bool}
    (hp : s.place a = .control pier off) (hok : ok (windowOf pier off) off = true) (hr : s.reachesRegs src pier 1) (hfit : accessFits src a n) :
    s.windowRead src a n ok = (s.controlRead src pier off n).afterAccess src := by
  unfold State.windowRead State.windowAt
  rw [hp]
  simp only [hok, Bool.not_true, Bool.false_eq_true, if_false]
  match src, hr, hfit with
  | .host p tag, hr, hfit =>
    obtain ⟨hh, hb, hf⟩ := hr.resolve_right (by simp)
    obtain ⟨h1, h2⟩ := hfit p tag rfl
    have hm : wrap52 a % 256 + n ≤ 256 := by simp only [wrap52]; omega
    simp only
    rw [State.message_read hh tag a h1 (by omega), State.takeRead, State.hostGate_none hb hf hm]
    simp only [State.accessRead, State.place_wrap52, hp, State.afterAccess]
  | .gone p, hr, _ => simp [State.reachesRegs, State.reaches] at hr
  | .mason p k, _, _ => simp only [State.accessRead, hp, State.afterAccess]
  | .skov d, _, _ => simp only [State.accessRead, hp, State.afterAccess]

/-- A write of a window by a source that reaches it, other than a Skovlaper's of its own SKOV_WDOG. -/
theorem State.windowWrite_reaches {s : State} {src : Source} {a off : Nat} {data : List Byte} {pier : PierId} {ok : Window → Nat → Bool}
    (hp : s.place a = .control pier off) (hok : ok (windowOf pier off) off = true) (hr : s.reachesRegs src pier 2)
    (hfit : accessFits src a data.length) (hw : ∀ d, src = .skov d → a ≠ skovReg d 8) :
    s.windowWrite src a data ok = (s.controlWrite src pier off data).afterAccess src := by
  unfold State.windowWrite State.windowAt
  rw [hp]
  simp only [hok, Bool.not_true, Bool.false_eq_true, if_false]
  match src, hr, hfit, hw with
  | .host p tag, hr, hfit, _ =>
    obtain ⟨hh, hb, hf⟩ := hr.resolve_right (by simp)
    obtain ⟨h1, h2⟩ := hfit p tag rfl
    have hm : wrap52 a % 256 + data.length ≤ 256 := by simp only [wrap52]; omega
    simp only
    rw [State.message_write hh tag a h1 (by omega), State.takeWrite, State.hostGate_none hb hf hm]
    simp only [State.accessWrite, State.place_wrap52, hp, State.afterAccess]
  | .gone p, hr, _, _ => simp [State.reachesRegs, State.reaches] at hr
  | .mason p k, _, _, _ => simp only [State.accessWrite, hp, State.afterAccess]
  | .skov d, _, _, hw =>
    have ha : (a == skovReg d 8) = false := by simpa using hw d rfl
    simp only [ha, Bool.false_eq_true, if_false, State.accessWrite, hp, State.afterAccess]

/-! ## Answers -/

/-- The parts of two states from which an answer is told are the same. -/
structure State.SameEnds (s u : State) : Prop where
  ports : u.ports = s.ports
  skovs : u.skovs = s.skovs
  masons : ∀ q, (u.pier q).masons = (s.pier q).masons

theorem State.SameEnds.refl (s : State) : s.SameEnds s := ⟨rfl, rfl, fun _ => rfl⟩

theorem State.SameEnds.port {s u : State} (h : s.SameEnds u) (p : PortId) : u.port p = s.port p := by
  rw [State.port, State.port, h.ports]

/-- A source that an answer reaches: a host with a link, a mason core or a Skovlaper. -/
def State.answerable (s : State) (src : Source) : Prop :=
  match src with
  | .host p _ => (s.port p).linked = true
  | .gone _ => False
  | .mason _ _ | .skov _ => True

theorem State.reachesRegs.answerable {s : State} {src : Source} {pier : PierId} {n : Nat} (h : s.reachesRegs src pier n) :
    s.answerable src := by
  match src, h with
  | .host p tag, h => exact (h.resolve_right (by simp)).1.2.1
  | .gone p, h => simp [State.reachesRegs, State.reaches] at h
  | .mason p k, _ => trivial
  | .skov d, _ => trivial

theorem State.SameEnds.answerable {s u : State} (h : s.SameEnds u) {src : Source} (hs : s.answerable src) : u.answerable src := by
  match src, hs with
  | .host p tag, hs => simpa only [State.answerable, h.port] using hs
  | .mason p k, _ => trivial
  | .skov d, _ => trivial

theorem State.SameEnds.acked {s u t : State} (h : s.SameEnds u) {src : Source} {st : Nat} (hs : s.answerable src)
    (ha : u.Acked t src st) : s.Acked t src st := by
  match src, hs with
  | .host p tag, _ => simpa only [State.Acked, State.Sends, h.port, h.masons, h.skovs] using ha
  | .mason p k, _ => simpa only [State.Acked, h.ports, h.masons, h.skovs] using ha
  | .skov d, _ => simpa only [State.Acked, State.updSkov, h.ports, h.masons, h.skovs] using ha

theorem State.SameEnds.told {s u t : State} (h : s.SameEnds u) {src : Source} {st n v : Nat} (hs : s.answerable src)
    (ha : u.Told t src st n v) : s.Told t src st n v := by
  match src, hs with
  | .host p tag, _ => simpa only [State.Told, State.Sends, h.port, h.masons, h.skovs] using ha
  | .mason p k, _ => simpa only [State.Told, h.ports, h.masons, h.skovs] using ha
  | .skov d, _ => simpa only [State.Told, State.updSkov, h.ports, h.masons, h.skovs] using ha

/-- A message to a host with a link, and its access's credit given back: nothing but the ports changes. -/
theorem State.send_afterAccess (s : State) {p : PortId} (hl : (s.port p).linked = true) (m : OutMsg) :
    let t := (s.send p m).giveCredit p 0
    s.Sends t p m ∧ (∀ r, (s.port r).Transmits (t.port r)) ∧ t = { s with ports := t.ports } := by
  obtain ⟨hsend, hframe, htr, -, hcount⟩ := s.send_spec p m
  obtain ⟨gframe, gtr, -, gsent, gheld⟩ := (s.send p m).giveCredit_spec p 0
  refine ⟨hsend.mono hl gsent (by rw [gheld]), fun r => (htr r).trans (gtr r), ?_⟩
  rw [hcount hl] at hframe
  rw [gframe, hframe]

/-- A mason core told something: nothing else of its pier changes, and no other pier. -/
theorem State.AnswersAlone.updMason (s : State) (p : PierId) (f : List Mason → List Mason) :
    s.AnswersAlone (s.updPier p fun pr => { pr with masons := f pr.masons }) := by
  refine ⟨fun q => ?_, rfl⟩
  by_cases hq : q = p
  · rw [hq, State.pier_updPier]
  · rw [State.pier_updPier_ne s _ hq]

theorem State.masons_updMason (s : State) (p q : PierId) (f : List Mason → List Mason) :
    ((s.updPier p fun pr => { pr with masons := f pr.masons }).pier q).masons =
      if q = p then f (s.pier q).masons else (s.pier q).masons := by
  split
  · next hq => rw [hq, State.pier_updPier]
  · next hq => rw [State.pier_updPier_ne s _ hq]

/-- What answering a write does, up to the end of its access. -/
theorem State.answerWrite_afterAccess {s : State} {src : Source} (hs : s.answerable src) (st : Nat) :
    let t := (s.answerWrite src st).afterAccess src
    s.Acked t src st ∧ s.AnswersAlone t := by
  match src, hs with
  | .host p tag, hs =>
    obtain ⟨hsend, htr, hframe⟩ := s.send_afterAccess hs (memAck tag st)
    simp only [State.answerWrite, State.afterAccess]
    rw [hframe] at hsend htr ⊢
    exact ⟨⟨hsend, htr, fun _ => rfl, rfl⟩, fun _ => rfl, rfl⟩
  | .mason p k, _ =>
    have hm := fun q => State.masons_updMason s p q fun ms => ms.modify k.val fun m => { m with faulted := if st == 0 then 0 else 2 }
    exact ⟨⟨rfl, rfl, fun q => (hm q).trans (by simp only [beq_iff_eq])⟩, State.AnswersAlone.updMason s p _⟩
  | .skov d, _ => exact ⟨⟨rfl, fun _ => rfl, rfl⟩, fun _ => rfl, rfl⟩

/-- What answering a read does, up to the end of its access. -/
theorem State.answerRead_afterAccess {s : State} {src : Source} (hs : s.answerable src) (st n v : Nat) :
    let t := (s.answerRead src st n v).afterAccess src
    s.Told t src st n v ∧ s.AnswersAlone t := by
  match src, hs with
  | .host p tag, hs =>
    obtain ⟨hsend, htr, hframe⟩ := s.send_afterAccess hs ⟨0x11, tag.toNat, st, leBytes n v⟩
    simp only [State.answerRead, State.afterAccess]
    rw [hframe] at hsend htr ⊢
    exact ⟨⟨hsend, htr, fun _ => rfl, rfl⟩, fun _ => rfl, rfl⟩
  | .mason p k, _ =>
    have hm := fun q => State.masons_updMason s p q fun ms =>
      ms.modify k.val fun m => { m with loaded := v, faulted := if st == 0 then 0 else 1 }
    exact ⟨⟨rfl, rfl, fun q => (hm q).trans (by simp only [beq_iff_eq])⟩, State.AnswersAlone.updMason s p _⟩
  | .skov d, _ => exact ⟨⟨rfl, fun _ => rfl, rfl⟩, fun _ => rfl, rfl⟩

/-! ## Packets -/

/-- Packets sent turn the rotations of their edges, and change nothing else (R22). -/
theorem State.sendPackets_frame (path : List (Nat × Nat)) (n : Nat) (s : State) :
    s.sendPackets path n = { s with edgeRot := (s.sendPackets path n).edgeRot } := by
  have hfold : ∀ (path : List (Nat × Nat)) (s : State), let t := path.foldl (fun (s : State) e => s.turnEdge e.1 e.2 n) s
      t = { s with edgeRot := t.edgeRot } := by
    intro path
    induction path with
    | nil => intro s; rfl
    | cons e path ih => intro s; exact ih (s.turnEdge e.1 e.2 n)
  unfold State.sendPackets
  split
  · rfl
  · exact hfold path s

theorem State.hostTrip_frame (s : State) (src : Source) (p : PierId) :
    s.hostTrip src p = { s with edgeRot := (s.hostTrip src p).edgeRot } := by
  have htwo : ∀ t : PortId, (s.sendPackets (quoinEdges (portQuoin t) p) 1).sendPackets (backEdges (portQuoin t) p) 1 =
      { s with edgeRot := ((s.sendPackets (quoinEdges (portQuoin t) p) 1).sendPackets (backEdges (portQuoin t) p) 1).edgeRot } := by
    intro t
    rw [State.sendPackets_frame, State.sendPackets_frame (quoinEdges _ _)]
  match src with
  | .host t _ | .gone t => exact htwo t
  | .mason _ _ | .skov _ => rfl

theorem State.SameEnds.hostTrip (s : State) (src : Source) (p : PierId) : s.SameEnds (s.hostTrip src p) := by
  rw [State.hostTrip_frame]
  exact ⟨rfl, rfl, fun _ => rfl⟩

end Sys2Proof.Machine
end

section
/-! SUPPORT. Registers of a control block, read and written (R12 to R14, R166, R206, R502, R548, R558). -/

namespace Sys2Proof.Machine

/-! ## Aligned and other accesses -/

theorem isRegs_iff (w : Window) (off : Nat) : isRegs w off = true ↔ w = .pier ∨ ∃ q, w = .quoin q := by
  cases w <;> simp [isRegs]

/-- A source that reaches a block reaches its registers with aligned accesses of 8 bytes. -/
theorem mayReach_regs {s : State} {src : Source} {p : PierId} {w : Window} {off m : Nat} {write : Bool}
    (hw : isRegs w off = true) (hr : s.reachesRegs src p m) (h8 : off % 8 = 0) : mayReach src p w off 8 write = true := by
  match src, hr with
  | .host _ _, _ => rfl
  | .gone _, _ => rfl
  | .mason mp k, hr =>
    have hmp : mp = p := hr.resolve_right (by simp)
    simp [mayReach, hmp, h8]
  | .skov d, _ =>
    obtain rfl | ⟨q, rfl⟩ := (isRegs_iff w off).mp hw <;> rfl

section Access

variable {s : State} {src : Source} {p : PierId} {off m : Nat} (hw : isRegs (windowOf p off) off = true)
include hw

theorem State.controlRead_register (hr : s.reachesRegs src p m) (h8 : off % 8 = 0) :
    s.controlRead src p off 8 =
      ((s.hostTrip src p).regRead p off).2.answerRead src 0 8 ((s.hostTrip src p).regRead p off).1 := by
  unfold State.controlRead
  dsimp only
  rw [mayReach_regs hw hr h8]
  obtain hw | ⟨q, hw⟩ := (isRegs_iff _ _).mp hw <;> simp [hw, h8]

theorem State.controlWrite_register {data : List Byte} (hr : s.reachesRegs src p m) (h8 : off % 8 = 0) (hd : data.length = 8) :
    s.controlWrite src p off data = ((s.hostTrip src p).regWrite p off (leAt data 0 8)).answerWrite src 0 := by
  unfold State.controlWrite
  dsimp only
  rw [hd, mayReach_regs hw hr h8]
  obtain hw | ⟨q, hw⟩ := (isRegs_iff _ _).mp hw <;> simp [hw, h8]

/-- An access of another width or alignment is refused (R12), a mason core's before its window acts. -/
theorem State.controlRead_register_bad {n : Nat} (hn : n ≠ 8 ∨ off % 8 ≠ 0) : s.controlRead src p off n = s.answerRead src 1 n 0 := by
  unfold State.controlRead
  dsimp only
  cases mayReach src p (windowOf p off) off n false with
  | false => rfl
  | true => obtain hw | ⟨q, hw⟩ := (isRegs_iff _ _).mp hw <;> simp [hw, hn]

theorem State.controlWrite_register_bad {data : List Byte} (hn : data.length ≠ 8 ∨ off % 8 ≠ 0) :
    s.controlWrite src p off data = s.answerWrite src 1 := by
  unfold State.controlWrite
  dsimp only
  cases mayReach src p (windowOf p off) off data.length true with
  | false => rfl
  | true => obtain hw | ⟨q, hw⟩ := (isRegs_iff _ _).mp hw <;> simp [hw, hn]

end Access

/-! ## What a register read and write do -/

theorem State.regRead_frame (s : State) (p : PierId) (off : Nat) :
    (s.regRead p off).2 = { s with counters := (s.regRead p off).2.counters } := by
  unfold State.regRead
  dsimp only
  split
  · split <;> rfl
  · split <;> rfl
  · rfl

theorem State.regRead_pier (s : State) {p : PierId} {off : Nat} (hw : windowOf p off = .pier) :
    s.regRead p off = if pierCounter (off - 0x20_0000)
      then (s.counters.get (controlBase p + off), { s with counters := s.counters.set (controlBase p + off) 0 })
      else (s.pierWord p (off - 0x20_0000), s) := by
  unfold State.regRead
  rw [hw]

theorem State.regRead_quoin (s : State) {p : PierId} {q : QuoinId} {off : Nat} (hw : windowOf p off = .quoin q) :
    s.regRead p off = if quoinCounter q (off - 0x80_0000)
      then (s.counters.get (controlBase p + off), { s with counters := s.counters.set (controlBase p + off) 0 })
      else (s.quoinWord q (off - 0x80_0000), s) := by
  unfold State.regRead
  rw [hw]

/-- What an access of a register leaves beside counters: its pier but for a mason core's answer, and all else. -/
def State.RegisterKept (s t : State) : Prop :=
  (∀ p, { t.pier p with masons := [] } = { s.pier p with masons := [] }) ∧
  t = { s with counters := t.counters, ports := t.ports, piers := t.piers, skovs := t.skovs, edgeRot := t.edgeRot }

/-- COUNTER_READ of an aligned register: what the register read gives is told, and its counters stay. -/
theorem State.counterRead_aligned {s : State} {src : Source} {p : PierId} {off addr : Nat} (hp : s.place addr = .control p off)
    (h8 : off % 8 = 0) (hr : s.reachesRegs src p 1) (hw : isRegs (windowOf p off) off = true) :
    let r := (s.hostTrip src p).regRead p off
    ∃ t, exec (.counterRead src addr 8) s = .next t ∧ t.counters = r.2.counters ∧ s.Told t src 0 8 r.1 ∧ s.RegisterKept t := by
  intro r
  have hends : s.SameEnds r.2 := by
    rw [State.regRead_frame, State.hostTrip_frame]
    exact ⟨rfl, rfl, fun _ => rfl⟩
  obtain ⟨htold, hpier, hframe⟩ := State.answerRead_afterAccess (hends.answerable hr.answerable) 0 8 r.1
  refine ⟨_, congrArg Host.Outcome.next (State.windowRead_reaches hp hw hr (accessFits_of_place hp (by decide) (by omega))), ?_⟩
  rw [State.controlRead_register hw hr h8]
  refine ⟨by rw [hframe], hends.told hr.answerable htold, fun q => ?_, ?_⟩
  · rw [hpier q, State.regRead_frame, State.hostTrip_frame]
    rfl
  · rw [hframe, State.regRead_frame, State.hostTrip_frame]

/-! ## Words that a trip of packets leaves -/

theorem State.pierWord_hostTrip (s : State) (src : Source) (p r : PierId) (w : Nat) :
    (s.hostTrip src p).pierWord r w = s.pierWord r w := by
  rw [State.hostTrip_frame]
  rfl

theorem State.quoinWord_hostTrip (s : State) (src : Source) (p : PierId) (q : QuoinId) (w : Nat) :
    (s.hostTrip src p).quoinWord q w = s.quoinWord q w := by
  rw [State.hostTrip_frame]
  rfl

theorem State.counters_hostTrip (s : State) (src : Source) (p : PierId) : (s.hostTrip src p).counters = s.counters := by
  rw [State.hostTrip_frame]

/-! ## The command forms of an access -/

theorem State.counterRead_misaligned {s : State} {src : Source} {p : PierId} {off addr n : Nat} (hp : s.place addr = .control p off)
    (hn : n ≠ 8 ∨ off % 8 ≠ 0) (hr : s.reachesRegs src p 1) (hw : isRegs (windowOf p off) off = true) (hfit : accessFits src addr n) :
    ∃ t, exec (.counterRead src addr n) s = .next t ∧ s.Told t src 1 n 0 ∧ s.AnswersAlone t := by
  refine ⟨_, congrArg Host.Outcome.next (State.windowRead_reaches hp hw hr hfit), ?_⟩
  rw [State.controlRead_register_bad hw hn]
  exact State.answerRead_afterAccess hr.answerable 1 n 0

theorem State.registerWrite_misaligned {s : State} {src : Source} {p : PierId} {off addr : Nat} {data : List Byte}
    (hp : s.place addr = .control p off) (hn : data.length ≠ 8 ∨ off % 8 ≠ 0) (hr : s.reachesRegs src p 2)
    (hw : isRegs (windowOf p off) off = true) (hfit : accessFits src addr data.length) (hoff : off ≠ 0x80_1008) :
    ∃ t, exec (.registerWrite src addr data) s = .next t ∧ s.Acked t src 1 ∧ s.AnswersAlone t := by
  refine ⟨_, congrArg Host.Outcome.next
    (State.windowWrite_reaches hp hw hr hfit fun d _ => State.place_ne_wdog hp hoff d), ?_⟩
  rw [State.controlWrite_register_bad hw hn]
  exact State.answerWrite_afterAccess hr.answerable 1

/-- REGISTER_WRITE of an aligned register: what the register write leaves, and the answer. -/
theorem State.registerWrite_aligned {s : State} {src : Source} {p : PierId} {off addr : Nat} {data : List Byte}
    (hp : s.place addr = .control p off) (h8 : off % 8 = 0) (hd : data.length = 8) (hr : s.reachesRegs src p 2)
    (hw : isRegs (windowOf p off) off = true) (hoff : off ≠ 0x80_1008) {u : State}
    (hu : (s.hostTrip src p).regWrite p off (leAt data 0 8) = u) (hs : u.answerable src) :
    ∃ t, exec (.registerWrite src addr data) s = .next t ∧ u.Acked t src 0 ∧ u.AnswersAlone t := by
  have hfit : accessFits src addr data.length := accessFits_of_place hp (by omega) (by omega)
  refine ⟨_, congrArg Host.Outcome.next
    (State.windowWrite_reaches hp hw hr hfit fun d _ => State.place_ne_wdog hp hoff d), ?_⟩
  rw [State.controlWrite_register hw hr h8 hd, hu]
  exact State.answerWrite_afterAccess hs 0

theorem State.pier_updPier_ite (s : State) (p q : PierId) (f : Pier → Pier) :
    (s.updPier p f).pier q = if q = p then f (s.pier q) else s.pier q := by
  split
  · next h => rw [h, State.pier_updPier]
  · next h => rw [State.pier_updPier_ne s f h]

/-- An aligned write that changes a pier's flags, or nothing, and is acknowledged. -/
theorem State.registerWrite_pier {s : State} {src : Source} {p : PierId} {off addr : Nat} {data : List Byte} (f : Pier → Pier)
    (hf : ∀ pr, (f pr).masons = pr.masons)
    (hp : s.place addr = .control p off) (h8 : off % 8 = 0) (hd : data.length = 8) (hr : s.reachesRegs src p 2)
    (hw : isRegs (windowOf p off) off = true) (hoff : off ≠ 0x80_1008)
    (hu : (s.hostTrip src p).regWrite p off (leAt data 0 8) = (s.hostTrip src p).updPier p f) :
    ∃ t, exec (.registerWrite src addr data) s = .next t ∧ s.Acked t src 0 ∧
      (∀ q, { t.pier q with masons := [] } = { (if q = p then f (s.pier q) else s.pier q) with masons := [] }) ∧
      t = { s with ports := t.ports, piers := t.piers, skovs := t.skovs, edgeRot := t.edgeRot } := by
  have hpier : ∀ q, ((s.hostTrip src p).updPier p f).pier q = if q = p then f (s.pier q) else s.pier q := fun q => by
    rw [State.pier_updPier_ite, State.hostTrip_frame]
    rfl
  have hends : s.SameEnds ((s.hostTrip src p).updPier p f) := by
    refine ⟨(State.SameEnds.hostTrip s src p).ports, (State.SameEnds.hostTrip s src p).skovs, fun q => ?_⟩
    rw [hpier]
    split
    · exact hf _
    · rfl
  obtain ⟨t, ht, hack, hmasons, hframe⟩ :=
    State.registerWrite_aligned hp h8 hd hr hw hoff hu (hends.answerable hr.answerable)
  refine ⟨t, ht, hends.acked hr.answerable hack, fun q => by rw [hmasons, hpier], ?_⟩
  rw [hframe, State.hostTrip_frame]
  rfl

/-! ## What a register write does -/

theorem State.updPier_id (s : State) (p : PierId) : s.updPier p (fun pr => pr) = s := by
  simp [State.updPier]

section Write

variable (s : State) (p : PierId)

theorem State.regWrite_flushed (v : Nat) : s.regWrite p 0x20_0080 v =
    s.updPier p fun pr => { pr with fpFlushed := pr.fpFlushed &&& ~~~(BitVec.ofNat 64 v) } := by
  rw [State.regWrite, windowOf_pier p (by decide) (by decide)]
  rfl

theorem State.regWrite_nonfinite (v : Nat) : s.regWrite p 0x20_0088 v =
    s.updPier p fun pr => { pr with nonfinite := pr.nonfinite &&& ~~~(BitVec.ofNat 64 v) } := by
  rw [State.regWrite, windowOf_pier p (by decide) (by decide)]
  rfl

/-- Every other register of a pier takes no write (R13). -/
theorem State.regWrite_pier_other {off : Nat} (v : Nat) (hw : windowOf p off = .pier) (h1 : off ≠ 0x20_0080) (h2 : off ≠ 0x20_0088) :
    s.regWrite p off v = s.updPier p fun pr => pr := by
  rw [State.regWrite, hw, State.updPier_id]
  simp [h1, h2]

/-- So does every register of a quoin but SKOV_ROLE. -/
theorem State.regWrite_quoin_other {off : Nat} {q : QuoinId} (v : Nat) (hw : windowOf p off = .quoin q) (h1 : off ≠ 0x80_1000) :
    s.regWrite p off v = s.updPier p fun pr => pr := by
  rw [State.regWrite, hw, State.updPier_id]
  simp [h1]

theorem State.regWrite_role (d : Bool) (v : Nat) : s.regWrite (cornerPier (if d then 3 else 1)) 0x80_1000 v =
    s.updSkov d fun k => { k with takeovers := fld v 47 16 } := by
  rw [State.regWrite, windowOf_quoin _ (by decide) (by decide)]
  cases d <;> rfl

end Write

/-- The count in SKOV_ROLE is bytes 2 to 5 of what is written (R502). -/
theorem fld_leAt_takeovers {data : List Byte} (hd : data.length = 8) : fld (leAt data 0 8) 47 16 = leAt data 2 4 := by
  match data, hd with
  | [b0, b1, b2, b3, b4, b5, b6, b7], _ =>
    simp only [leAt, fld_eq, List.drop, List.take, ofBytes]
    omega

/-- REGISTER_WRITE of SKOV_ROLE (R502). -/
theorem State.registerWrite_role {s : State} {src : Source} {addr : Nat} {data : List Byte} (d : Bool)
    (hp : s.place addr = .control (cornerPier (if d then 3 else 1)) 0x80_1000) (hd : data.length = 8)
    (hr : s.reachesRegs src (cornerPier (if d then 3 else 1)) 2) :
    ∃ t, exec (.registerWrite src addr data) s = .next t ∧
      (s.updSkov d fun k => { k with takeovers := leAt data 2 4 }).Acked t src 0 ∧
      (∀ q, { t.pier q with masons := [] } = { s.pier q with masons := [] }) ∧
      t = { s with ports := t.ports, piers := t.piers, skovs := t.skovs, edgeRot := t.edgeRot } := by
  have hw : isRegs (windowOf (cornerPier (if d then 3 else 1)) 0x80_1000) 0x80_1000 = true := by
    rw [windowOf_quoin _ (by decide) (by decide)]
    rfl
  have hu := (s.hostTrip src (cornerPier (if d then 3 else 1))).regWrite_role d (leAt data 0 8)
  rw [fld_leAt_takeovers hd] at hu
  have hends : (s.updSkov d fun k => { k with takeovers := leAt data 2 4 }).SameEnds
      ((s.hostTrip src (cornerPier (if d then 3 else 1))).updSkov d fun k => { k with takeovers := leAt data 2 4 }) := by
    rw [State.hostTrip_frame]
    exact ⟨rfl, rfl, fun _ => rfl⟩
  have hs : (s.updSkov d fun k => { k with takeovers := leAt data 2 4 }).answerable src := hr.answerable
  obtain ⟨t, ht, hack, hmasons, hframe⟩ :=
    State.registerWrite_aligned hp (by decide) hd hr hw (by decide) hu (hends.answerable hs)
  refine ⟨t, ht, hends.acked hs hack, fun q => ?_, ?_⟩
  · rw [hmasons, State.hostTrip_frame]
    rfl
  · rw [hframe, State.hostTrip_frame]
    rfl

/-! ## The statement -/

theorem isRegs_pier (p : PierId) {off : Nat} (h1 : 0x20_0000 ≤ off) (h2 : off < 0x40_0000) : isRegs (windowOf p off) off = true := by
  rw [windowOf_pier p h1 h2]
  rfl

theorem isRegs_quoin (q : QuoinId) {off : Nat} (h1 : 0x80_0000 ≤ off) (h2 : off < 0x90_0000) :
    isRegs (windowOf (cornerPier q) off) off = true := by
  rw [windowOf_quoin q h1 h2]
  rfl

/-- A read of a window's register: a counter's value, which it leaves 0, or the value of another register (R13). -/
theorem State.counterRead_value {s : State} {src : Source} {p : PierId} {off addr : Nat} (hp : s.place addr = .control p off)
    (h8 : off % 8 = 0) (hr : s.reachesRegs src p 1) (hw : isRegs (windowOf p off) off = true) {v : Nat} {cs : Table}
    (hread : ((s.hostTrip src p).regRead p off).1 = v ∧ ((s.hostTrip src p).regRead p off).2.counters = cs) :
    ∃ t, exec (.counterRead src addr 8) s = .next t ∧ t.counters = cs ∧ s.Told t src 0 8 v ∧ s.RegisterKept t := by
  obtain ⟨rfl, rfl⟩ := hread
  exact State.counterRead_aligned hp h8 hr hw

/-- What a read of a counter gives and leaves, after the packets of the access. -/
theorem State.regRead_counter {s : State} {src : Source} {p : PierId} {off : Nat}
    (h : windowOf p off = .pier ∧ pierCounter (off - 0x20_0000) = true ∨
      ∃ q, windowOf p off = .quoin q ∧ quoinCounter q (off - 0x80_0000) = true) :
    ((s.hostTrip src p).regRead p off).1 = s.counters.get (controlBase p + off) ∧
      ((s.hostTrip src p).regRead p off).2.counters = s.counters.set (controlBase p + off) 0 := by
  obtain ⟨hw, hc⟩ | ⟨q, hw, hc⟩ := h
  · rw [State.regRead_pier _ hw, if_pos hc, State.counters_hostTrip]
    exact ⟨rfl, rfl⟩
  · rw [State.regRead_quoin _ hw, if_pos hc, State.counters_hostTrip]
    exact ⟨rfl, rfl⟩

/-- What a read of another register gives; it leaves every counter. -/
theorem State.regRead_pierWord {s : State} {src : Source} {p : PierId} {off : Nat} (hw : windowOf p off = .pier)
    (hc : pierCounter (off - 0x20_0000) = false) :
    ((s.hostTrip src p).regRead p off).1 = s.pierWord p (off - 0x20_0000) ∧
      ((s.hostTrip src p).regRead p off).2.counters = s.counters := by
  rw [State.regRead_pier _ hw, hc, State.pierWord_hostTrip]
  simp only [Bool.false_eq_true, if_false, true_and]
  exact State.counters_hostTrip s src p

theorem State.regRead_quoinWord {s : State} {src : Source} {p : PierId} {q : QuoinId} {off : Nat} (hw : windowOf p off = .quoin q)
    (hc : quoinCounter q (off - 0x80_0000) = false) :
    ((s.hostTrip src p).regRead p off).1 = s.quoinWord q (off - 0x80_0000) ∧
      ((s.hostTrip src p).regRead p off).2.counters = s.counters := by
  rw [State.regRead_quoin _ hw, hc, State.quoinWord_hostTrip]
  simp only [Bool.false_eq_true, if_false, true_and]
  exact State.counters_hostTrip s src p

/-- Settles O59: reads by what a register read gives in each window, writes by what a register write does. -/
theorem registers : Obligations.registers := by
  unfold Obligations.registers
  refine ⟨?reads, ?words, ?misaligned, ?writes⟩
  case reads =>
    intro src pier off addr s hp h8 hr own quoin rest
    refine ⟨fun hc => ?_, fun hown hc => ?_, fun q hq hc => ?_⟩
    · have hcount : windowOf pier off = .pier ∧ pierCounter (off - 0x20_0000) = true ∨
          ∃ q, windowOf pier off = .quoin q ∧ quoinCounter q (off - 0x80_0000) = true := by
        obtain ⟨⟨h1, h2⟩, hc⟩ | ⟨q, ⟨rfl, h1, h2⟩, hc⟩ := hc
        · exact .inl ⟨windowOf_pier pier h1 h2, hc⟩
        · exact .inr ⟨q, windowOf_quoin q h1 h2, hc⟩
      have hw : isRegs (windowOf pier off) off = true := by
        obtain ⟨hw, -⟩ | ⟨q, hw, -⟩ := hcount <;> rw [hw] <;> rfl
      obtain ⟨t, ht, hcs, htold, hkept⟩ := State.counterRead_value hp h8 hr hw (State.regRead_counter hcount)
      refine ⟨t, ht, htold, ?_, fun r hne => ?_, hkept⟩
      · rw [hcs, Table.get_set]
      · rw [hcs, Table.get_set_ne _ _ hne]
    · obtain ⟨h1, h2⟩ := hown
      exact State.counterRead_value hp h8 hr (isRegs_pier pier h1 h2) (State.regRead_pierWord (windowOf_pier pier h1 h2) hc)
    · obtain ⟨rfl, h1, h2⟩ := hq
      exact State.counterRead_value hp h8 hr (isRegs_quoin q h1 h2) (State.regRead_quoinWord (windowOf_quoin q h1 h2) hc)
  case words =>
    intro p s
    exact ⟨rfl, rfl, rfl, rfl, rfl, rfl, rfl, rfl⟩
  case misaligned =>
    intro src pier off addr data s hp h1 h2 fits rest
    have hrest : ∀ t, s.AnswersAlone t → rest t := by
      rintro t ⟨hpier, hframe⟩
      exact ⟨hpier, by rw [hframe]⟩
    have hfits : ∀ n, fits n → accessFits src addr n := fun n h p tag hsrc => ⟨(h p tag hsrc).1, (h p tag hsrc).2.2⟩
    refine ⟨fun n hn hr hfit => ?_, fun hn hr hfit => ?_⟩
    · obtain ⟨t, ht, htold, halone⟩ :=
        State.counterRead_misaligned hp hn hr (isRegs_pier pier h1 h2) (hfits _ hfit)
      exact ⟨t, ht, htold, hrest t halone⟩
    · obtain ⟨t, ht, hack, halone⟩ :=
        State.registerWrite_misaligned hp hn hr (isRegs_pier pier h1 h2) (hfits _ hfit) (by omega)
      exact ⟨t, ht, hack, hrest t halone⟩
  case writes =>
    intro src pier off addr data s hp h8 hd hr m rest done
    refine ⟨?_, ?_, fun h1 h2 hne1 hne2 => ?_, ?_, ?_⟩
    · rintro rfl
      exact State.registerWrite_pier (fun pr => { pr with fpFlushed := pr.fpFlushed &&& m }) (fun _ => rfl) hp h8 hd hr
        (isRegs_pier pier (by decide) (by decide)) (by decide) (State.regWrite_flushed _ _ (leAt data 0 8))
    · rintro rfl
      exact State.registerWrite_pier (fun pr => { pr with nonfinite := pr.nonfinite &&& m }) (fun _ => rfl) hp h8 hd hr
        (isRegs_pier pier (by decide) (by decide)) (by decide) (State.regWrite_nonfinite _ _ (leAt data 0 8))
    · exact State.registerWrite_pier _ (fun _ => rfl) hp h8 hd hr (isRegs_pier pier h1 h2) (by omega)
        (State.regWrite_pier_other _ _ _ (windowOf_pier pier h1 h2) hne1 hne2)
    · rintro q rfl h1 h2 hne1 hne2
      exact State.registerWrite_pier _ (fun _ => rfl) hp h8 hd hr (isRegs_quoin q h1 h2) hne2
        (State.regWrite_quoin_other _ _ _ (windowOf_quoin q h1 h2) hne1)
    · rintro d rfl rfl
      obtain ⟨t, ht, hack, hmasons, hframe⟩ := State.registerWrite_role d hp hd hr
      refine ⟨t, ht, hack, fun q => ?_, hframe⟩
      rw [hmasons, ite_self]

end Sys2Proof.Machine
end

section
/-! SUPPORT. Records and wakes: what a record handed to Skovlaper and a wake change (R22, R293, R435, R498, R530), and a keystone operation
on its way (R412, R496). -/

namespace Sys2Proof.Machine

/-! ## Records -/

/-- A record handed over touches what is held, and the counter of those dropped (R498). -/
theorem State.log_frame (s : State) (r : Record) : s.log r = { s with held := (s.log r).held, counters := (s.log r).counters } := by
  unfold State.log
  split
  · rfl
  · split
    · rfl
    · split <;> rfl

theorem State.event_frame (s : State) (code arg : Nat) :
    s.event code arg = { s with held := (s.event code arg).held, counters := (s.event code arg).counters } :=
  State.log_frame s _

/-- A change of the piers that run is an event or none (R530). -/
theorem State.runChange_frame (s t : State) :
    s.runChange t = { t with held := (s.runChange t).held, counters := (s.runChange t).counters } := by
  unfold State.runChange State.powerEvent
  split
  · rfl
  · exact State.event_frame t _ _

theorem State.runChange_same {s t : State} (h : s.powerState = t.powerState) : s.runChange t = t := by
  rw [State.runChange, if_pos (by simpa using h)]

/-- Run: the regulators on and some pier awake (R510). -/
theorem State.powerState_run (s : State) : s.powerState = 3 ↔ s.power.regulators = true ∧ ∃ p, (s.pier p).awake = true := by
  have hany : s.piers.toList.any (·.awake) = true ↔ ∃ p, (s.pier p).awake = true := by
    simp [Vector.any_eq_true, State.pier, Fin.exists_iff]
  unfold State.powerState
  cases s.power.regulators with
  | false => simp
  | true =>
    rw [← hany]
    cases s.piers.toList.any (·.awake) <;> simp

/-! ## Wakes -/

/-- The wake of a pier that runs begins its idle windows again. -/
theorem State.wakePier_awake {s : State} {p : PierId} (hd : s.deadPier p = false) (ha : (s.pier p).awake = true) :
    s.wakePier p = s.updPier p (·.stir s.tick) := by
  unfold State.deadPier at hd
  rw [State.wakePier, hd, ha]
  simp

/-- The wake of one that sleeps. -/
theorem State.wakePier_asleep {s : State} {p : PierId} (hd : s.deadPier p = false) (ha : (s.pier p).awake = false) :
    s.wakePier p = (s.runChange (s.updPier p fun pr => { pr.stir s.tick with awake := true, bondPos := 0 })).deliver (.mortar p) := by
  unfold State.deadPier at hd
  rw [State.wakePier, hd, ha]
  simp

/-- A pier of a failed mortar domain stays as it is (R438). -/
theorem State.wakePier_dead {s : State} {p : PierId} (hd : s.deadPier p = true) : s.wakePier p = s := by
  unfold State.deadPier at hd
  rw [State.wakePier, if_pos hd]

theorem State.Woken.stirred {s u : State} {p : PierId} (h : s.Woken u p) (n : Nat) : s.Woken (u.updPier p (·.stir n)) p := by
  obtain ⟨hawake, hbut, hother, hcross, hrun, hframe⟩ := h
  refine ⟨?_, ?_, fun r hr => ?_, hcross, hrun, ?_⟩
  · rw [State.pier_updPier]
    exact hawake
  · rw [State.pier_updPier]
    exact hbut
  · rw [State.pier_updPier_ne u _ hr, hother r hr]
  · rw [hframe]
    rfl

/-- An access or packet that reaches a pier which has not failed wakes it. -/
theorem State.wakePier_woken {s : State} {p : PierId} (hd : s.deadPier p = false) : s.Woken (s.wakePier p) p := by
  cases ha : (s.pier p).awake with
  | true =>
    rw [State.wakePier_awake hd ha]
    exact State.Woken.stirred ⟨ha, rfl, fun _ _ => rfl, fun _ => ⟨rfl, rfl⟩, fun _ => ⟨rfl, rfl⟩, rfl⟩ s.tick
  | false =>
    rw [State.wakePier_asleep hd ha]
    generalize hv : s.updPier p (fun pr => { pr.stir s.tick with awake := true, bondPos := 0 }) = v
    have hp : v.pier p = { (s.pier p).stir s.tick with awake := true, bondPos := 0 } := by rw [← hv, State.pier_updPier]
    have hrun : s.powerState = 3 → s.runChange v = v := by
      intro h3
      refine State.runChange_same (h3.trans (((State.powerState_run v).mpr ⟨?_, p, by rw [hp]⟩).symm))
      rw [← hv]
      exact ((State.powerState_run s).mp h3).1
    have hpiers : ∀ r, ((s.runChange v).deliver (.mortar p)).pier r = v.pier r := fun r => by
      rw [State.runChange_frame]
      rfl
    refine ⟨by rw [hpiers, hp], by rw [hpiers, hp]; rfl, fun r hr => ?_, fun h => ?_, fun h3 => ?_, ?_⟩
    · rw [hpiers, ← hv, State.pier_updPier_ne s _ hr]
    · rw [h] at ha
      cases ha
    · rw [hrun h3, ← hv]
      exact ⟨rfl, rfl⟩
    · rw [State.runChange_frame, ← hv]
      rfl

/-- Packets on the way leave a wake one. -/
theorem State.Woken.edges {s u : State} {p : PierId} (h : s.Woken u p) (e : Table) : s.Woken { u with edgeRot := e } p := by
  obtain ⟨hawake, hbut, hother, hcross, hrun, hframe⟩ := h
  exact ⟨hawake, hbut, hother, hcross, hrun, by rw [hframe]⟩

theorem State.Woken.ofEdges {s u : State} {p : PierId} {e : Table} (h : State.Woken { s with edgeRot := e } u p) : s.Woken u p := h

/-- A wake leaves what answers are told from. -/
theorem State.Woken.sameEnds {s u : State} {p : PierId} (h : s.Woken u p) : s.SameEnds u := by
  obtain ⟨-, hbut, hother, -, -, hframe⟩ := h
  refine ⟨by rw [hframe], by rw [hframe], fun q => ?_⟩
  by_cases hq : q = p
  · have hm := congrArg Pier.masons hbut
    rw [hq]
    exact hm
  · rw [hother q hq]

/-- A wake leaves the failed domains of its pier. -/
theorem State.Woken.deadPier {s u : State} {p : PierId} (h : s.Woken u p) : u.deadPier p = s.deadPier p := by
  have hf : (u.pier p).failed = (s.pier p).failed := (congrArg Pier.failed h.2.1 :)
  rw [State.deadPier, State.deadPier, hf]

/-- A second wake of a pier is a wake. -/
theorem State.Woken.again {s u : State} {p : PierId} (h : s.Woken u p) (hd : s.deadPier p = false) : s.Woken (u.wakePier p) p := by
  rw [State.wakePier_awake (h.deadPier.trans hd) h.1]
  exact h.stirred _

/-! ## Keystone operations on their way -/

/-- An operation that arrives on one of the requester ports is sent. -/
theorem State.keyArrive_sent (s : State) (key kind operand : Nat) (answer : TasAnswer) {port : Nat} (hport : port < 20) :
    s.KeySent (s.keyArrive (keyPier key) ⟨key % 32768, port, kind, operand % 2 ^ 32, answer⟩) key kind operand answer := by
  generalize hd : keyPier key = d
  unfold State.KeySent
  rw [hd]
  unfold State.keyArrive
  cases hdead : s.deadPier d with
  | true =>
    rw [State.wakePier_dead hdead]
    refine ⟨.inl ⟨⟨port, hport, ?_⟩, rfl, (fun h => by rw [hdead] at h; cases h), fun p hp => State.pier_updPier_ne s _ hp, ?_⟩, fun _ => ⟨rfl, rfl⟩, rfl⟩
    · rw [State.pier_updPier]
    · rw [State.pier_updPier]
  | false =>
    obtain ⟨hawake, hbut, hother, hcross, hrun, hframe⟩ := State.wakePier_woken hdead
    generalize s.wakePier d = u at hawake hbut hother hcross hrun hframe ⊢
    have hkeys : (u.pier d).keyArriving = (s.pier d).keyArriving := (congrArg Pier.keyArriving hbut :)
    refine ⟨.inl ⟨⟨port, hport, ?_⟩, ?_, fun _ => ?_, fun p hp => ?_, ?_⟩, hrun, ?_⟩
    · rw [State.pier_updPier, hkeys]
    · rw [hframe]
      rfl
    · rw [State.pier_updPier]
      exact hawake
    · rw [State.pier_updPier_ne u _ hp, hother p hp]
    · rw [State.pier_updPier]
      exact congrArg (fun pr : Pier => { pr with keyArriving := [] }) hbut
    · rw [hframe]
      rfl

/-- The link that a rotation gives is one of its edge's. -/
theorem State.rotateEdge_link (s : State) (e dir : Nat) : (s.rotateEdge e dir).1 ∈ edgeLinks e := by
  have hhead : (edgeLinks e).head! ∈ edgeLinks e := by
    unfold edgeLinks
    split <;> simp
  have hsub : ∀ l ∈ s.workingLinks e, l ∈ edgeLinks e := fun l hl => List.mem_of_mem_filter hl
  unfold State.rotateEdge
  dsimp only
  rw [List.getD_eq_getElem?_getD]
  cases h : (s.workingLinks e)[s.edgeRot.get (2 * e + dir) % (s.workingLinks e).length]? with
  | none => exact hhead
  | some l => exact hsub l (List.mem_of_getElem? h)

/-- Whether the links of the last edge of a route end at a pier, on one of its ports. -/
def arrivesAt (path : List (Nat × Nat)) (d : PierId) : Prop :=
  ∀ e, path.getLast? = some e → ∀ l ∈ edgeLinks e.1, 8 + (linkEnds d).idxOf l < 20

/-- The route from a quoin ends on a link of the keystone's pier (R18, R21). -/
theorem quoinEdges_arrives (q : QuoinId) (d : PierId) : arrivesAt (quoinEdges q d) d := by
  have h : (quoinEdges q d).getLast?.all (fun e => (edgeLinks e.1).all fun l => 8 + (linkEnds d).idxOf l < 20) = true := by
    revert q d
    decide
  intro e he l hl
  rw [he] at h
  simpa using (List.all_eq_true.mp h) l hl

/-- An operation on its way arrives at its keystone's pier, or waits on a link. -/
theorem State.keyTravel_sent (key kind operand : Nat) (answer : TasAnswer) (path : List (Nat × Nat)) :
    ∀ (last port : Nat) (s : State), (path = [] → 8 + (linkEnds (keyPier key)).idxOf last < 20) → arrivesAt path (keyPier key) →
      s.KeySent (State.keyTravel path last (keyPier key) ⟨key % 32768, port, kind, operand % 2 ^ 32, answer⟩ s) key kind operand answer := by
  induction path with
  | nil => intro last port s hlast _; exact s.keyArrive_sent key kind operand answer (hlast rfl)
  | cons edge rest ih =>
    obtain ⟨e, dir⟩ := edge
    intro last port s _ hpath
    have hlink := s.rotateEdge_link e dir
    unfold State.keyTravel
    generalize hr : s.rotateEdge e dir = r at hlink
    obtain ⟨l, u⟩ := r
    have hu : u = s.turnEdge e dir 1 := (congrArg Prod.snd hr).symm
    subst hu
    dsimp only
    split
    · next hheld =>
      refine ⟨.inr ⟨⟨2 * l + dir, rest, port, ?_, rfl⟩, rfl, rfl, rfl⟩, fun _ => ⟨rfl, rfl⟩, rfl⟩
      simpa [State.turnEdge] using hheld
    · refine ih l port (s.turnEdge e dir 1) (fun hrest => ?_) (fun x hx => hpath x ?_)
      · subst hrest
        exact hpath (e, dir) rfl l hlink
      · rw [List.getLast?_cons, hx]
        rfl

/-- An operation sent from a quoin. -/
theorem State.sendKey_quoin_sent (s : State) (q : QuoinId) (key kind operand : Nat) (answer : TasAnswer) :
    s.KeySent (s.sendKey (.quoin q) key kind operand answer) key kind operand answer :=
  s.keyTravel_sent key kind operand answer (quoinEdges q (keyPier key)) 0 0 (fun h => nomatch h) (quoinEdges_arrives q _)

end Sys2Proof.Machine
end

section
/-! SUPPORT. The keystone window (R410 to R414, R435, R438): what a write or read of each word of a keystone's line sends. -/

namespace Sys2Proof.Machine

/-! ## The window -/

/-- What a write of word 0, 1 or 2 of a keystone's line sends: a set, an add, a test-and-set (R410, R412). -/
def keyKind (i : Nat) : Nat := if i = 0 then 1 else if i = 1 then 0 else 2

theorem keyWordIs_keys (p : PierId) {off i : Nat} (h : off < 0x4_0000) (hi : off % 64 / 8 = i) :
    keyWordIs i (windowOf p off) off = true := by
  rw [windowOf_keys p h]
  simp [keyWordIs, hi]

/-- A host and the pier's own mason cores reach its keystones with any access, which the window judges itself (R411). -/
theorem mayReach_keys {s : State} {src : Source} {p : PierId} {m : Nat} (hr : s.reaches src p m) (off n : Nat) (write : Bool) :
    mayReach src p .keys off n write = true := by
  match src, hr with
  | .host _ _, _ => rfl
  | .mason mp k, hr =>
    have hmp : mp = p := hr
    simp [mayReach, hmp]

section Access

variable {s : State} {src : Source} {p : PierId} {off m : Nat} (hoff : off < 0x4_0000) (hr : s.reaches src p m)
include hoff hr

theorem State.controlWrite_keys (data : List Byte) : s.controlWrite src p off data =
    if s.deadPier p then s.answerWrite src 1 else (s.wakePier p).keyWrite src p off data := by
  unfold State.controlWrite
  dsimp only
  rw [windowOf_keys p hoff, mayReach_keys hr]
  rfl

theorem State.controlRead_keys (n : Nat) : s.controlRead src p off n =
    if s.deadPier p then s.answerRead src 1 n 0 else (s.wakePier p).keyRead src p off n := by
  unfold State.controlRead
  dsimp only
  rw [windowOf_keys p hoff, mayReach_keys hr]
  rfl

end Access

/-- A write of a word of a keystone's line sends its operation with the low 32 bits. -/
theorem State.keyWrite_word (s : State) (src : Source) (p : PierId) {off i : Nat} {data : List Byte} (hi : i < 3)
    (hoff : off % 64 = 8 * i) (hd : data.length = 8) :
    s.keyWrite src p off data = s.keyStore src p (4096 * p.val + off / 64) (keyKind i) (leAt data 0 4) := by
  have h8 : off % 8 = 0 := by omega
  have hw : off % 64 / 8 = i := by omega
  unfold State.keyWrite
  simp only [hd, h8, hw, bne_self_eq_false, Bool.or_self, Bool.false_eq_true, if_false]
  match i, hi with
  | 0, _ => rfl
  | 1, _ => rfl
  | 2, _ => rfl

/-- A write that is not 8 bytes is counted and answered with status 1 (R411). -/
theorem State.keyWrite_short (s : State) (src : Source) (p : PierId) (off : Nat) {data : List Byte} (hd : data.length ≠ 8) :
    s.keyWrite src p off data = ((s.hostTrip src p).bumpPier p kKeyBad 1).answerWrite src 1 := by
  unfold State.keyWrite
  rw [if_pos (by simp [hd])]

/-- The keystone of a line of a pier's window. -/
theorem keyPier_line (p : PierId) {off : Nat} (h : off < 0x4_0000) : keyPier (4096 * p.val + off / 64) = p := by
  have := p.isLt
  ext
  simp only [keyPier, pierOf]
  omega

theorem key_lt (p : PierId) {off : Nat} (h : off < 0x4_0000) : (4096 * p.val + off / 64) % 32768 = 4096 * p.val + off / 64 := by
  have := p.isLt
  omega

/-! ## By a mason core of the pier -/

/-- An operation has arrived at a pier, which has been woken. -/
def State.ArrivedAt (s t : State) (p : PierId) (op : KeyOp) : Prop :=
  ∃ u : State, s.Woken u p ∧ (t.pier p).keyArriving = (s.pier p).keyArriving ++ [op] ∧
    (∀ r, r ≠ p → t.pier r = u.pier r) ∧
    { t.pier p with masons := [], keyArriving := [] } = { u.pier p with masons := [], keyArriving := [] } ∧
    t = { u with piers := t.piers }

/-- The operation of a mason core arrives at its own pier, on port 6. -/
theorem State.sendKey_own (s : State) (p : PierId) {off : Nat} (hoff : off < 0x4_0000) (kind v : Nat) (answer : TasAnswer) (hv : v < 2 ^ 32) :
    s.sendKey (.pier p 6) (4096 * p.val + off / 64) kind v answer =
      s.keyArrive p ⟨4096 * p.val + off / 64, 6, kind, v, answer⟩ := by
  have hv32 : v % 0x1_0000_0000 = v := Nat.mod_eq_of_lt hv
  unfold State.sendKey
  simp only [keyPier_line p hoff, key_lt p hoff, hv32, beq_self_eq_true, if_true]

theorem State.Woken.keyArriving {s u : State} {p : PierId} (h : s.Woken u p) : (u.pier p).keyArriving = (s.pier p).keyArriving :=
  (congrArg Pier.keyArriving h.2.1 :)

theorem State.keyArrive_arrivedAt {s w : State} {p : PierId} (hw : s.Woken w p) (hd : s.deadPier p = false) (op : KeyOp) :
    s.ArrivedAt (w.keyArrive p op) p op := by
  have hu := hw.again hd
  unfold State.keyArrive
  refine ⟨w.wakePier p, hu, ?_, fun r hr => State.pier_updPier_ne _ _ hr, ?_, rfl⟩
  · rw [State.pier_updPier, hu.keyArriving]
  · rw [State.pier_updPier]

/-- What a mason core is told leaves the arrival. -/
theorem State.ArrivedAt.updMason {s t : State} {p : PierId} {op : KeyOp} (h : s.ArrivedAt t p op) (f : List Mason → List Mason) :
    s.ArrivedAt (t.updPier p fun pr => { pr with masons := f pr.masons }) p op := by
  obtain ⟨u, hw, hkey, hother, hbut, hframe⟩ := h
  refine ⟨u, hw, ?_, fun r hr => ?_, ?_, ?_⟩
  · rw [State.pier_updPier]
    exact hkey
  · rw [State.pier_updPier_ne t _ hr, hother r hr]
  · rw [State.pier_updPier]
    exact hbut
  · rw [hframe]
    rfl

theorem State.ArrivedAt.sameEnds_keyArrive {s w : State} {p : PierId} (hw : s.Woken w p) (hd : s.deadPier p = false) (op : KeyOp) :
    s.SameEnds (w.keyArrive p op) := by
  have he := (hw.again hd).sameEnds
  refine ⟨he.ports, he.skovs, fun q => ?_⟩
  unfold State.keyArrive
  rw [State.pier_updPier_ite]
  split
  · exact he.masons q
  · exact he.masons q

section Mason

variable {s : State} {p : PierId} (core : Fin 8) {off addr : Nat} (hp : s.place addr = .control p off) (hoff : off < 0x4_0000)
  (hd : s.deadPier p = false)
include hp hoff hd

theorem State.keyWindowWrite_mason {i : Nat} {data : List Byte} (hi : i < 3) (hword : off % 64 = 8 * i) (hlen : data.length = 8) :
    ∃ t, s.windowWrite (.mason p core) addr data (keyWordIs i) = t ∧
      s.ArrivedAt t p ⟨4096 * p.val + off / 64, 6, keyKind i, leAt data 0 4, .none⟩ ∧ s.Acked t (.mason p core) 0 := by
  have hr : s.reaches (.mason p core) p 2 := rfl
  have hw := State.wakePier_woken hd
  refine ⟨_, State.windowWrite_reaches hp (keyWordIs_keys p hoff (by omega)) (.inl hr)
    (accessFits_of_place hp (by omega) (by omega)) (fun d h => nomatch h), ?_⟩
  rw [State.controlWrite_keys hoff hr, hd, if_neg Bool.false_ne_true, State.keyWrite_word _ _ _ hi hword hlen]
  unfold State.keyStore
  simp only
  rw [State.sendKey_own _ _ hoff _ _ _ (leAt_lt data 0 4)]
  refine ⟨State.ArrivedAt.updMason (State.keyArrive_arrivedAt hw hd _) _, ?_⟩
  exact (State.ArrivedAt.sameEnds_keyArrive hw hd _).acked trivial (State.answerWrite_afterAccess (src := .mason p core) trivial 0).1

theorem State.keyWindowRead_mason (hword : off % 64 = 16) :
    ∃ t, s.windowRead (.mason p core) addr 8 (keyWordIs 2) = t ∧
      s.ArrivedAt t p ⟨4096 * p.val + off / 64, 6, 2, 1, .access (.mason p core)⟩ ∧ ∀ q, (t.pier q).masons = (s.pier q).masons := by
  have hr : s.reaches (.mason p core) p 1 := rfl
  have hw := State.wakePier_woken hd
  refine ⟨_, State.windowRead_reaches hp (keyWordIs_keys p hoff (by omega)) (.inl hr)
    (accessFits_of_place hp (by omega) (by omega)), ?_⟩
  have h8 : off % 8 = 0 := by omega
  have h2 : off % 64 / 8 = 2 := by omega
  rw [State.controlRead_keys hoff hr, hd, if_neg Bool.false_ne_true, State.keyRead, if_neg (by simp [h8]), h2]
  simp only
  rw [State.sendKey_own _ _ hoff _ _ _ (by decide)]
  exact ⟨State.keyArrive_arrivedAt hw hd _, (State.ArrivedAt.sameEnds_keyArrive hw hd _).masons⟩

end Mason

/-! ## By a host -/

/-- An operation of a host has been sent over the links, after the wake of its pier; the host is sent nothing yet but a credit. -/
def State.SentByHost (s t : State) (p : PierId) (key kind v : Nat) (answer : TasAnswer) : Prop :=
  ∃ u w : State, s.Woken u p ∧ u.KeySent w key kind v answer ∧ (∀ r, (s.port r).Transmits (t.port r)) ∧
    (∀ r, (s.port r).held = (t.port r).held) ∧ t = { w with ports := t.ports }

theorem State.sendKey_sentByHost {s : State} {p : PierId} (hd : s.deadPier p = false) (port : PortId) (q : QuoinId) (key kind v : Nat)
    (answer : TasAnswer) :
    s.SentByHost (((s.wakePier p).sendKey (.quoin q) key kind v answer).giveCredit port 0) p key kind v answer := by
  have hw := State.wakePier_woken hd
  have hk := (s.wakePier p).sendKey_quoin_sent q key kind v answer
  generalize s.wakePier p = u at hw hk ⊢
  generalize u.sendKey (.quoin q) key kind v answer = w at hk ⊢
  obtain ⟨gframe, gtr, gother, -, gheld⟩ := w.giveCredit_spec port 0
  have hports : w.ports = s.ports := by
    rw [hk.2.2]
    exact hw.sameEnds.ports
  have hport : ∀ r, w.port r = s.port r := fun r => by rw [State.port, State.port, hports]
  refine ⟨u, w, hw, hk, fun r => by rw [← hport]; exact gtr r, fun r => ?_, gframe⟩
  by_cases hr : r = port
  · rw [hr, gheld, hport]
  · rw [gother r hr, hport]

section Host

variable {s : State} {p : PierId} {port : PortId} {tag : U32} {off addr : Nat} (hp : s.place addr = .control p off) (hoff : off < 0x4_0000)
  (hd : s.deadPier p = false)
include hp hoff hd

theorem State.keyWindowWrite_host (hr : s.reaches (.host port tag) p 2) {i : Nat} {data : List Byte} (hi : i < 3)
    (hword : off % 64 = 8 * i) (hlen : data.length = 8) :
    ∃ t, s.windowWrite (.host port tag) addr data (keyWordIs i) = t ∧
      s.SentByHost t p (4096 * p.val + off / 64) (keyKind i) (leAt data 0 4) (.ack (.host port tag)) := by
  refine ⟨_, State.windowWrite_reaches hp (keyWordIs_keys p hoff (by omega)) (.inl hr)
    (accessFits_of_place hp (by omega) (by omega)) (fun d h => nomatch h), ?_⟩
  rw [State.controlWrite_keys hoff hr, hd, if_neg Bool.false_ne_true, State.keyWrite_word _ _ _ hi hword hlen]
  exact State.sendKey_sentByHost hd port _ _ _ _ _

theorem State.keyWindowRead_host (hr : s.reaches (.host port tag) p 1) (hword : off % 64 = 16) :
    ∃ t, s.windowRead (.host port tag) addr 8 (keyWordIs 2) = t ∧
      s.SentByHost t p (4096 * p.val + off / 64) 2 1 (.access (.host port tag)) := by
  refine ⟨_, State.windowRead_reaches hp (keyWordIs_keys p hoff (by omega)) (.inl hr)
    (accessFits_of_place hp (by omega) (by omega)), ?_⟩
  have h8 : off % 8 = 0 := by omega
  have h2 : off % 64 / 8 = 2 := by omega
  rw [State.controlRead_keys hoff hr, hd, if_neg Bool.false_ne_true, State.keyRead, if_neg (by simp [h8]), h2]
  exact State.sendKey_sentByHost hd port _ _ _ _ _

end Host

/-! ## Refused -/

/-- An answer to a host or a mason core leaves the Skovlapers. -/
theorem State.Acked.skovs {s u t : State} {src : Source} {p : PierId} {m st : Nat} (ha : u.Acked t src st) (hr : s.reaches src p m) :
    t.skovs = u.skovs := by
  match src, hr with
  | .host _ _, _ => exact ha.2.2.2
  | .mason _ _, _ => exact ha.2.1

/-- A short write of VALUE: the pier woken, the access counted and refused. -/
theorem State.keyWindowWrite_short {s : State} {src : Source} {p : PierId} {off addr : Nat} {data : List Byte}
    (hp : s.place addr = .control p off) (hoff : off < 0x4_0000) (h64 : off % 64 = 0) (hr : s.reaches src p 2) (hd : s.deadPier p = false)
    (hlen : data.length = 4) :
    ∃ u t, s.windowWrite src addr data (keyWordIs 0) = t ∧ s.Woken u p ∧ u.Acked t src 1 ∧
      (∀ q, { t.pier q with masons := [] } = { u.pier q with masons := [] }) ∧
      t = { u with ports := t.ports, piers := t.piers, counters := u.counters.addSat (pierCtr p kKeyBad) 1 } := by
  have hw : s.Woken ((s.wakePier p).hostTrip src p) p := by
    rw [State.hostTrip_frame]
    exact (State.wakePier_woken hd).edges _
  refine ⟨(s.wakePier p).hostTrip src p, _, State.windowWrite_reaches hp (keyWordIs_keys p hoff (by omega)) (.inl hr)
    (accessFits_of_place hp (by omega) (by omega)) (fun d h => State.place_ne_wdog hp (by omega) d), hw, ?_⟩
  rw [State.controlWrite_keys hoff hr, hd, if_neg Bool.false_ne_true, State.keyWrite_short _ _ _ _ (by omega)]
  generalize (s.wakePier p).hostTrip src p = u at hw ⊢
  have hends : u.SameEnds (u.bumpPier p kKeyBad 1) := ⟨rfl, rfl, fun _ => rfl⟩
  have hs : u.answerable src := hw.sameEnds.answerable (State.reachesRegs.answerable (.inl hr))
  obtain ⟨hack, hpier, hframe⟩ := State.answerWrite_afterAccess (hends.answerable hs) 1
  have hskovs := hack.skovs hr
  refine ⟨hends.acked hs hack, hpier, ?_⟩
  rw [hframe, hskovs]
  rfl

theorem State.keyWindowWrite_dead {s : State} {src : Source} {p : PierId} {off addr : Nat} {data : List Byte}
    (hp : s.place addr = .control p off) (hoff : off < 0x4_0000) (h64 : off % 64 = 0) (hr : s.reaches src p 2) (hd : s.deadPier p = true)
    (hlen : data.length = 8) :
    ∃ t, s.windowWrite src addr data (keyWordIs 0) = t ∧ s.Acked t src 1 ∧ s.AnswersAlone t := by
  refine ⟨_, State.windowWrite_reaches hp (keyWordIs_keys p hoff (by omega)) (.inl hr)
    (accessFits_of_place hp (by omega) (by omega)) (fun d h => State.place_ne_wdog hp (by omega) d), ?_⟩
  rw [State.controlWrite_keys hoff hr, hd, if_pos rfl]
  exact State.answerWrite_afterAccess (State.reachesRegs.answerable (.inl hr)) 1

/-- A Skovlaper reaches registers alone (R502). -/
theorem mayReach_skov_other (d : Bool) (p : PierId) {w : Window} {off : Nat} (n : Nat) (write : Bool) (hw : isRegs w off = false) :
    mayReach (.skov d) p w off n write = false := by
  cases w <;> simp_all [isRegs, mayReach]

theorem State.windowWrite_skov_refused {s : State} {p : PierId} {off addr : Nat} {ok : Window → Nat → Bool} (d : Bool) (data : List Byte)
    (hp : s.place addr = .control p off) (hok : ok (windowOf p off) off = true) (hw : isRegs (windowOf p off) off = false) :
    s.windowWrite (.skov d) addr data ok = s.updSkov d fun k => { k with status := 1 } := by
  have hoff : off ≠ 0x80_1008 ∨ ∀ e, addr ≠ skovReg e 8 := by
    by_cases h : off = 0x80_1008
    · refine .inr fun e he => ?_
      rw [he, s.place_wdog e] at hp
      obtain ⟨rfl, rfl⟩ := Place.control.inj hp
      rw [windowOf_quoin _ (by decide) (by decide)] at hw
      cases hw
    · exact .inl h
  have hne : addr ≠ skovReg d 8 := hoff.elim (fun h => State.place_ne_wdog hp h d) (fun h => h d)
  rw [State.windowWrite_reaches hp hok (.inr ⟨d, rfl⟩) (fun _ _ h => nomatch h) (fun e he => by cases he; exact hne)]
  unfold State.controlWrite
  dsimp only
  rw [mayReach_skov_other d p _ _ hw]
  rfl

theorem State.windowRead_skov_refused {s : State} {p : PierId} {off addr : Nat} {ok : Window → Nat → Bool} (d : Bool) (n : Nat)
    (hp : s.place addr = .control p off) (hok : ok (windowOf p off) off = true) (hw : isRegs (windowOf p off) off = false) :
    s.windowRead (.skov d) addr n ok = s.updSkov d fun k => { k with answer := 0, status := 1 } := by
  rw [State.windowRead_reaches hp hok (.inr ⟨d, rfl⟩) (fun _ _ h => nomatch h)]
  unfold State.controlRead
  dsimp only
  rw [mayReach_skov_other d p _ _ hw]
  rfl

/-- Settles O24: each command is a write or read of its word, by a mason core, a host or, refused, a Skovlaper. -/
theorem keystoneAccesses : Obligations.keystone_accesses := by
  unfold Obligations.keystone_accesses
  refine ⟨?mason, ?host, ?refused, ?skov⟩
  case mason =>
    intro pier core off addr data s hp hoff hd src sent
    have hwrite : ∀ i, i < 3 → off % 64 = 8 * i → data.length = 8 →
        ∃ t, s.windowWrite src addr data (keyWordIs i) = t ∧ sent (keyKind i) (leAt data 0 4) .none t ∧ s.Acked t src 0 :=
      fun i hi hword hlen => State.keyWindowWrite_mason core hp hoff hd hi hword hlen
    refine ⟨fun _ hlen => ⟨fun h => ?_, fun h => ?_, fun h => ?_⟩, fun h => ?_⟩
    · obtain ⟨t, ht, hsent⟩ := hwrite 0 (by decide) h hlen
      exact ⟨t, congrArg Host.Outcome.next ht, hsent⟩
    · obtain ⟨t, ht, hsent⟩ := hwrite 1 (by decide) h hlen
      exact ⟨t, congrArg Host.Outcome.next ht, hsent⟩
    · obtain ⟨t, ht, hsent⟩ := hwrite 2 (by decide) h hlen
      exact ⟨t, congrArg Host.Outcome.next ht, hsent⟩
    · obtain ⟨t, ht, hsent⟩ := State.keyWindowRead_mason core hp hoff hd h
      exact ⟨t, congrArg Host.Outcome.next ht, hsent⟩
  case host =>
    intro port tag pier off addr data s hp hoff hd src key sent
    have hwrite : s.reaches src pier 2 → ∀ i, i < 3 → off % 64 = 8 * i → data.length = 8 →
        ∃ t, s.windowWrite src addr data (keyWordIs i) = t ∧ sent (keyKind i) (leAt data 0 4) (.ack src) t :=
      fun hr i hi hword hlen => State.keyWindowWrite_host hp hoff hd hr hi hword hlen
    refine ⟨fun hr _ hlen => ⟨fun h => ?_, fun h => ?_, fun h => ?_⟩, fun hr h => ?_⟩
    · obtain ⟨t, ht, hsent⟩ := hwrite hr 0 (by decide) h hlen
      exact ⟨t, congrArg Host.Outcome.next ht, hsent⟩
    · obtain ⟨t, ht, hsent⟩ := hwrite hr 1 (by decide) h hlen
      exact ⟨t, congrArg Host.Outcome.next ht, hsent⟩
    · obtain ⟨t, ht, hsent⟩ := hwrite hr 2 (by decide) h hlen
      exact ⟨t, congrArg Host.Outcome.next ht, hsent⟩
    · obtain ⟨t, ht, hsent⟩ := State.keyWindowRead_host hp hoff hd hr h
      exact ⟨t, congrArg Host.Outcome.next ht, hsent⟩
  case refused =>
    intro src pier off addr data s hp hoff h64 hr
    refine ⟨fun hd hlen => ?_, fun hd hlen => ?_⟩
    · obtain ⟨u, t, ht, hshort⟩ := State.keyWindowWrite_short hp hoff h64 hr hd hlen
      exact ⟨u, t, congrArg Host.Outcome.next ht, hshort⟩
    · obtain ⟨t, ht, hdead⟩ := State.keyWindowWrite_dead hp hoff h64 hr hd hlen
      exact ⟨t, congrArg Host.Outcome.next ht, hdead⟩
  case skov =>
    intro d pier off addr n data s hp hoff refused
    have hregs : isRegs (windowOf pier off) off = false := by
      rw [windowOf_keys pier hoff]
      rfl
    have hwrite : ∀ i, off % 64 / 8 = i → s.windowWrite (.skov d) addr data (keyWordIs i) = refused := fun i hi =>
      State.windowWrite_skov_refused d data hp (keyWordIs_keys pier hoff hi) hregs
    exact ⟨fun h => congrArg Host.Outcome.next (hwrite 0 h), fun h => congrArg Host.Outcome.next (hwrite 1 h),
      fun h => ⟨congrArg Host.Outcome.next (hwrite 2 h),
        congrArg Host.Outcome.next (State.windowRead_skov_refused d n hp (keyWordIs_keys pier hoff h) hregs)⟩⟩

end Sys2Proof.Machine
end

section
/-! SUPPORT. The submission lines (R28, R369, R435, R438): a header's way into its queue (R38, R82, R434), and what a line's write and read
leave. -/

namespace Sys2Proof.Machine

/-! ## Queues -/

theorem State.queue_eq (s : State) (q : QKey) : s.queue q = ((s.queues.find? fun x => x.key == q).map (·.entries)).getD [] := by
  unfold State.queue
  cases s.queues.find? fun x => x.key == q <;> rfl

/-- A queue whose entries are replaced holds them. -/
theorem State.queue_setQueue (s : State) (q : QKey) {es : List QEntry} (he : es ≠ []) : (s.setQueue q es).queue q = es := by
  have hne : es.isEmpty = false := by simpa using he
  rw [State.queue_eq]
  unfold State.setQueue
  simp only [hne, Bool.false_eq_true, if_false]
  split
  · next hany =>
    obtain ⟨x, hx, hkey⟩ := List.any_eq_true.mp hany
    have hcomp : ((fun x : Queue => x.key == q) ∘ fun x => if x.key == q then { x with entries := es } else x) = fun x => x.key == q := by
      funext x
      simp only [Function.comp]
      split <;> rfl
    simp only [List.find?_map, hcomp]
    cases hf : s.queues.find? fun x => x.key == q with
    | none => exact absurd hkey (by simpa using List.find?_eq_none.mp hf x hx)
    | some y =>
      have hy : y.key = q := by simpa using List.find?_some hf
      simp [hy]
  · next hany =>
    have hf : s.queues.find? (fun x => x.key == q) = none :=
      List.find?_eq_none.mpr fun x hx hkey => hany (List.any_eq_true.mpr ⟨x, hx, hkey⟩)
    simp [List.find?_append, hf]

/-- The other queues keep theirs. -/
theorem State.queue_setQueue_ne (s : State) {q k : QKey} (es : List QEntry) (h : k ≠ q) : (s.setQueue q es).queue k = s.queue k := by
  have hqk : (q == k) = false := by simpa using fun e => h (Eq.symm e)
  have hfilter : (s.queues.filter fun x => x.key != q).find? (fun x => x.key == k) = s.queues.find? fun x => x.key == k := by
    rw [List.find?_filter]
    congr 1
    funext x
    by_cases hx : x.key = k <;> simp [hx, h]
  have hmap : (s.queues.map fun x => if x.key == q then { x with entries := es } else x).find? (fun x => x.key == k) =
      s.queues.find? fun x => x.key == k := by
    have hcomp : ((fun x : Queue => x.key == k) ∘ fun x => if x.key == q then { x with entries := es } else x) = fun x => x.key == k := by
      funext x
      simp only [Function.comp]
      split <;> rfl
    rw [List.find?_map, hcomp]
    cases hf : s.queues.find? fun x => x.key == k with
    | none => rfl
    | some y =>
      have hy : y.key = k := by simpa using List.find?_some hf
      simp [hy, h]
  rw [State.queue_eq, State.queue_eq]
  unfold State.setQueue
  dsimp only
  split
  · exact congrArg (fun x => (Option.map (·.entries) x).getD []) hfilter
  · split
    · exact congrArg (fun x => (Option.map (·.entries) x).getD []) hmap
    · rw [List.find?_append]
      simp [hqk]

/-! ## Entering a queue -/

/-- A line that a header joins. -/
theorem Pier.line_joinLines (p : Pier) (c stream : Nat) (q : QKey) : (p.joinLines [c] stream q).line c stream = p.line c stream ++ [q] := by
  simp [Pier.joinLines, Pier.setLine, Pier.line]

theorem domainNo_lt (d : Domain) : domainNo d < 1000 := by
  cases d with
  | linkEnd l b => cases b <;> simp only [domainNo, b2n, Bool.false_eq_true, if_false, if_true] <;> omega
  | _ => simp only [domainNo]; omega

/-- The entries held before the crossings, and since when, once one more waits before a domain. -/
theorem holdCross_held (t : Table) (d : Domain) (tick : Nat) {n : Nat} (hn : n < 1000) :
    (holdCross t (domainNo d) tick).get n = if domainNo d = n then t.get n + 1 else t.get n := by
  have hd := domainNo_lt d
  rw [holdCross, Table.get_set_ne _ _ (by omega)]
  split
  · next h => rw [← h, Table.get_set]
  · next h => rw [Table.get_set_ne _ _ (Ne.symm h)]

theorem holdCross_since (t : Table) (d : Domain) (tick : Nat) {n : Nat} (hn : n < 1000) :
    (holdCross t (domainNo d) tick).get (1000 + n) =
      if domainNo d = n ∧ t.get n = 0 then tick + 1 else t.get (1000 + n) := by
  have hd := domainNo_lt d
  by_cases h : domainNo d = n
  · rw [holdCross, h, Table.get_set]
    by_cases h0 : t.get n = 0 <;> simp [h0]
  · rw [holdCross, Table.get_set_ne _ _ (by omega), Table.get_set_ne _ _ (by omega), if_neg (fun hc => h hc.1)]

/-- A header at its sequencer, where that is a pier's. -/
def State.joinSequencer (s : State) (q : QKey) : State :=
  if inPierQueue q then s.updPier (s.queuePier q) fun pr =>
    ((pr.joinLines [queueSeq q] q.stream.val q).stirCourse (queueSeq q) s.tick).stir s.tick
  else s

theorem State.joinSequencer_frame (s : State) (q : QKey) : s.joinSequencer q = { s with piers := (s.joinSequencer q).piers } := by
  unfold State.joinSequencer
  split <;> rfl

theorem State.joinSequencer_line (s : State) {q : QKey} (h : inPierQueue q = true) :
    ((s.joinSequencer q).pier (s.queuePier q)).line (queueSeq q) q.stream.val =
      (s.pier (s.queuePier q)).line (queueSeq q) q.stream.val ++ [q] := by
  rw [State.joinSequencer, if_pos h, State.pier_updPier]
  exact Pier.line_joinLines _ _ _ _

theorem Pier.joinLines_lines (p : Pier) (cs : List Nat) (stream : Nat) (q : QKey) :
    p.joinLines cs stream q = { p with lines := (p.joinLines cs stream q).lines } := by
  unfold Pier.joinLines
  induction cs generalizing p with
  | nil => rfl
  | cons c cs ih => exact ih (p.setLine c stream (p.line c stream ++ [q]))

/-- But for the lines and the starts of the idle windows the piers stay. -/
theorem State.joinSequencer_pier (s : State) (q : QKey) (r : PierId) :
    { (s.joinSequencer q).pier r with lines := [], stirred := 0, courseStir := [] } =
      { s.pier r with lines := [], stirred := 0, courseStir := [] } := by
  unfold State.joinSequencer
  split
  · rw [State.pier_updPier_ite]
    split
    · rw [Pier.joinLines_lines]
      rfl
    · rfl
  · rfl

theorem State.asleepBefore_congr {s t : State} {u stream : Nat} (ha : ∀ p, (t.pier p).awake = (s.pier p).awake)
    (hc : ∀ p, (t.pier p).coursesAwake = (s.pier p).coursesAwake) : t.asleepBefore u stream = s.asleepBefore u stream := by
  simp only [State.asleepBefore, ha, hc]

theorem State.enter_eq (s : State) (h : Header) (o : Origin) :
    s.enter h o =
      let w := (s.setQueue h.key (s.queue h.key ++ [.fresh h o])).joinSequencer h.key
      match w.asleepBefore h.unit h.stream with
      | some d => { w with crossHeld := holdCross w.crossHeld (domainNo d) w.tick }
      | none => w := rfl

theorem State.setQueue_frame (s : State) (q : QKey) (es : List QEntry) : s.setQueue q es = { s with queues := (s.setQueue q es).queues } := by
  unfold State.setQueue
  dsimp only
  split
  · rfl
  · split <;> rfl

/-- A header enters its queue. -/
theorem State.enter_enqueued (s : State) (h : Header) (o : Origin) :
    s.Enqueued (s.enter h o) h.key h o ∧ (∀ p, ((s.enter h o).pier p).butQueued = (s.pier p).butQueued) ∧ s.SameEnds (s.enter h o) ∧
      s.enter h o = { s with
        queues := (s.enter h o).queues, crossHeld := (s.enter h o).crossHeld, piers := (s.enter h o).piers } := by
  rw [State.enter_eq]
  have hv := s.setQueue_frame h.key (s.queue h.key ++ [.fresh h o])
  have hq := s.queue_setQueue h.key (es := s.queue h.key ++ [.fresh h o]) (by simp)
  have hk : ∀ k, k ≠ h.key → _ := fun k hk => s.queue_setQueue_ne (s.queue h.key ++ [.fresh h o]) hk
  generalize s.setQueue h.key (s.queue h.key ++ [.fresh h o]) = v at hv hq hk
  have hpier : ∀ r, v.pier r = s.pier r := fun r => by
    rw [hv]
    rfl
  have hat : v.queuePier h.key = s.queuePier h.key := by
    rw [hv]
    rfl
  have hw := v.joinSequencer_frame h.key
  have hline := fun hin => v.joinSequencer_line (q := h.key) hin
  have hother := v.joinSequencer_pier h.key
  generalize v.joinSequencer h.key = w at hw hline hother
  have hasleep : w.asleepBefore h.unit h.stream = s.asleepBefore h.unit h.stream :=
    State.asleepBefore_congr (fun p => by rw [← hpier]; exact (congrArg Pier.awake (hother p) :))
      (fun p => by rw [← hpier]; exact (congrArg Pier.coursesAwake (hother p) :))
  have hqueue : ∀ k, w.queue k = v.queue k := fun k => by
    rw [hw]
    rfl
  have hframe : w = { s with queues := w.queues, piers := w.piers } := by
    rw [hw, hv]
  have hcross : w.crossHeld = s.crossHeld := by rw [hframe]
  have htick : w.tick = s.tick := by rw [hframe]
  have hbut : ∀ p, (w.pier p).butQueued = (s.pier p).butQueued := fun p => by
    rw [← hpier]
    exact (congrArg (fun pr : Pier => { pr with masons := [] }) (hother p) :)
  have hends : s.SameEnds w := ⟨by rw [hframe], by rw [hframe], fun p => by rw [← hpier]; exact (congrArg Pier.masons (hother p) :)⟩
  have hfirst := (hqueue h.key).trans hq
  have hrest := fun k hne => (hqueue k).trans (hk k hne)
  have hjoin : inPierQueue h.key = true → _ := fun hin => by
    have := hline hin
    rw [hat, hpier] at this
    exact this
  dsimp only
  rw [hasleep]
  cases hd : s.asleepBefore h.unit h.stream with
  | none =>
    refine ⟨⟨hfirst, hrest, hjoin, fun n _ => ?_, fun n _ => ?_⟩, hbut, hends, ?_⟩
    · simp only [hd, Option.map_none, reduceCtorEq, if_false, hcross]
    · simp only [hd, Option.map_none, reduceCtorEq, false_and, if_false, hcross]
    · dsimp only
      rw [hcross]
      exact hframe
  | some d =>
    refine ⟨⟨hfirst, hrest, hjoin, fun n hn => ?_, fun n hn => ?_⟩, hbut, ⟨hends.ports, hends.skovs, hends.masons⟩, ?_⟩
    · simp only [hd, Option.map_some, Option.some.injEq, hcross]
      exact holdCross_held _ d _ hn
    · simp only [hd, Option.map_some, Option.some.injEq, hcross, htick]
      exact holdCross_since _ d _ hn
    · exact congrArg (fun x : State => { x with crossHeld := holdCross w.crossHeld (domainNo d) w.tick }) hframe

/-- Whether a queue has room looks at the queues, the submissions that wait, the soundings, and of the piers at the lines and the spares. -/
theorem State.hasRoom_congr {s t : State} {q : QKey} (hq : t.queues = s.queues) (hw : t.waitingSubs = s.waitingSubs)
    (hs : t.sounding = s.sounding) (hc : t.seqOnC = s.seqOnC) (hp : ∀ p, (t.pier p).butWake = (s.pier p).butWake) :
    t.hasRoom q = s.hasRoom q := by
  have hqueue : t.queue q = s.queue q := by rw [State.queue, State.queue, hq]
  have hat : t.queuePier q = s.queuePier q := by rw [State.queuePier, State.queuePier, State.seqCorner, State.seqCorner, hc]
  have hline : ∀ p c st, (t.pier p).line c st = (s.pier p).line c st := fun p c st => (congrArg (fun pr : Pier => pr.line c st) (hp p) :)
  have hcore : ∀ p c, (t.pier p).idleCore ((t.pier p).physCourse c) = (s.pier p).idleCore ((s.pier p).physCourse c) := fun p c =>
    (congrArg (fun pr : Pier => pr.idleCore (pr.physCourse c)) (hp p) :)
  have hcourse : ∀ p, (t.pier p).idleCourse = (s.pier p).idleCourse := fun p => (congrArg Pier.idleCourse (hp p) :)
  simp only [State.hasRoom, State.queueRoom, State.seqRoom, State.exchangeDue, hqueue, hat, hw, hs, hline, hcore, hcourse]

/-! ## The window of the submission lines -/

theorem mayReach_lines {s : State} {src : Source} {p : PierId} {off n mtype : Nat} (hr : s.reaches src p mtype) (h64 : off % 64 = 0)
    {write : Bool} (hn : n = 8 ∨ n = 64 ∧ write = true) : mayReach src p .lines off n write = true := by
  match src, hr with
  | .host _ _, _ => rfl
  | .mason q _, hr =>
    have hq : q = p := hr
    have h8 : off % 8 = 0 := by omega
    obtain rfl | ⟨rfl, rfl⟩ := hn
    · simp [mayReach, hq, h8]
    · simp [mayReach, hq, h64]

/-- An access to the lines reaches their pier and wakes it. -/
def State.lineTrip (s : State) (src : Source) (p : PierId) : State := (s.hostTrip src p).wakePier p

theorem State.lineTrip_woken {s : State} {p : PierId} (hd : s.deadPier p = false) (src : Source) : s.Woken (s.lineTrip src p) p := by
  unfold State.lineTrip
  rw [State.hostTrip_frame]
  exact (State.wakePier_woken (s := { s with edgeRot := (s.hostTrip src p).edgeRot }) hd).ofEdges

theorem State.controlWrite_lines (s : State) {src : Source} {p : PierId} {off : Nat} {data : List Byte} (h1 : 0x10_0000 ≤ off)
    (h2 : off < 0x10_0100) (hm : mayReach src p .lines off data.length true = true) :
    s.controlWrite src p off data = if s.deadPier p then s.answerWrite src 1 else (s.lineTrip src p).lineWrite src p off data := by
  unfold State.controlWrite
  dsimp only
  rw [windowOf_lines p h1 h2, hm]
  rfl

theorem State.controlRead_lines (s : State) {src : Source} {p : PierId} {off n : Nat} (h1 : 0x10_0000 ≤ off)
    (h2 : off < 0x10_0100) (hm : mayReach src p .lines off n false = true) :
    s.controlRead src p off n = if s.deadPier p then s.answerRead src 1 n 0 else (s.lineTrip src p).lineRead src p off n := by
  unfold State.controlRead
  dsimp only
  rw [windowOf_lines p h1 h2, hm]
  rfl

/-! ## A header submitted -/

/-- Packets on the way change no room. -/
theorem State.submitHeader_room {s : State} {h : Header} (hu : unitExists h.unit = true) (hroom : s.hasRoom h.key = true) (o : Origin)
    (at_ : PierId ⊕ PortId) (ack : Option Source) :
    s.submitHeader h o at_ ack = ((s.sendPackets (s.submitPath at_ h.unit) 1).enter h o, true) := by
  have hsame : (s.sendPackets (s.submitPath at_ h.unit) 1).hasRoom h.key = true := by
    rw [State.sendPackets_frame]
    exact hroom
  simp only [State.submitHeader, hu, Bool.not_true, Bool.false_eq_true, if_false, hsame, if_true]

theorem State.submitHeader_full {s : State} {h : Header} (hu : unitExists h.unit = true) (hroom : s.hasRoom h.key = false) (o : Origin)
    (at_ : PierId ⊕ PortId) (ack : Option Source) :
    s.submitHeader h o at_ ack =
      ({ s.sendPackets (s.submitPath at_ h.unit) 1 with waitingSubs := s.waitingSubs ++ [⟨h.key, h, o, ack⟩] }, false) := by
  have hframe := s.sendPackets_frame (s.submitPath at_ h.unit) 1
  have hsame : (s.sendPackets (s.submitPath at_ h.unit) 1).hasRoom h.key = false := by
    rw [hframe]
    exact hroom
  have hwait : (s.sendPackets (s.submitPath at_ h.unit) 1).waitingSubs = s.waitingSubs := by rw [hframe]
  simp only [State.submitHeader, hu, Bool.not_true, Bool.false_eq_true, if_false, hsame, hwait]

theorem State.Enqueued.answered {s w t : State} {q : QKey} {h : Header} {o : Origin} (he : s.Enqueued w q h o) (ha : w.AnswersAlone t) :
    s.Enqueued t q h o := by
  obtain ⟨hfirst, hrest, hjoin, hheld, hsince⟩ := he
  obtain ⟨hpier, hframe⟩ := ha
  have hqueue : ∀ k, t.queue k = w.queue k := fun k => by
    rw [hframe]
    rfl
  have hcross : t.crossHeld = w.crossHeld := by rw [hframe]
  refine ⟨(hqueue q).trans hfirst, fun k hk => (hqueue k).trans (hrest k hk), fun hin => ?_, ?_, ?_⟩
  · rw [← hjoin hin]
    exact (congrArg (fun pr : Pier => pr.line (queueSeq q) q.stream.val) (hpier (s.queuePier q)) :)
  · rwa [hcross]
  · rwa [hcross]

/-- Whose work a header is that a source other than a departed host submits. -/
theorem State.reaches.originOf_eq {s : State} {src : Source} {p : PierId} {m : Nat} (hr : s.reaches src p m) :
    originOf src = match (generalizing := false) src with | .host port tag => .host port tag | _ => .image := by
  match src, hr with
  | .host _ _, _ => rfl
  | .mason _ _, _ => rfl

/-- A line's write is the submission of its header. -/
theorem State.lineWrite_header {s : State} {src : Source} {p q : PierId} {off m : Nat} {data : List Byte} (hr : s.reaches src q m)
    (hlen : data.length = 64) (h64 : off % 64 = 0) {u : State} (hrun : ∀ port tag, src = .host port tag → u.func.state = 3) :
    u.lineWrite src p off data =
      let r := u.submitHeader (headerOf data) (originOf src) (.inl p) (some src)
      if r.2 then r.1.answerWrite src 0 else r.1 := by
  unfold State.lineWrite
  dsimp only
  rw [if_neg (by simp [hlen, h64])]
  match src, hr with
  | .host port tag, _ =>
    rw [if_neg (by simp [hrun port tag rfl])]
  | .mason _ _, _ => rfl

/-- What is not a whole line is counted and answered. -/
theorem State.lineWrite_short (s : State) (src : Source) (p : PierId) (off : Nat) {data : List Byte} (hlen : data.length = 8) :
    s.lineWrite src p off data =
      ((s.bumpPier p kSubmitBad 1).updPier p fun pr =>
        { pr with submitBad := pr.submitBad.set (off % 256 / 64) (pr.submitBad.get (off % 256 / 64) + 1) }).answerWrite src 0 := by
  unfold State.lineWrite
  dsimp only
  rw [if_pos (by simp [hlen])]

/-! ## A line read -/

@[simp] theorem State.length_lineBytes (s : State) (p : PierId) (l : Nat) : (s.lineBytes p l).length = 64 := by
  simp [State.lineBytes, padTo]

/-- The number at the front of a line. -/
theorem State.lineBytes_front (s : State) (p : PierId) (l : Nat) (bs : List Byte) :
    leAt (s.lineBytes p l ++ bs) 0 8 =
      let q : QKey := ⟨BitVec.ofNat 16 (pierUnit p), streamOf l⟩
      min (q.depth - (s.queue q).length) 65535 + 2 ^ 32 * min ((s.pier p).submitBad.get l) 65535 := by
  dsimp only
  generalize hx : min (QKey.depth ⟨BitVec.ofNat 16 (pierUnit p), streamOf l⟩ - (s.queue ⟨BitVec.ofNat 16 (pierUnit p), streamOf l⟩).length) 65535
    = x
  generalize hy : min ((s.pier p).submitBad.get l) 65535 = y
  have hbytes : s.lineBytes p l = leBytes 8 (x + 2 ^ 32 * y) ++ List.replicate 56 0 := by
    unfold State.lineBytes
    dsimp only
    rw [hx, hy, padTo, length_leBytes]
    exact List.take_of_length_le (by simp)
  rw [hbytes, List.append_assoc, leAt_leBytes_append]
  omega

/-- The lines beginning with one of them. -/
theorem State.drop_lines (s : State) (p : PierId) {l : Nat} (hl : l < 4) :
    ∃ bs, ((List.range 4).flatMap fun k => s.lineBytes p k).drop (64 * l) = s.lineBytes p l ++ bs := by
  have hsplit : List.range 4 = List.range l ++ l :: (List.range' (l + 1) (3 - l)) := by
    interval_cases l <;> rfl
  have hlen : ((List.range l).flatMap fun k => s.lineBytes p k).length = 64 * l := by
    simp [List.length_flatMap, Nat.mul_comm]
  rw [hsplit, List.flatMap_append, List.drop_left' hlen, List.flatMap_cons]
  exact ⟨_, rfl⟩

theorem State.lineTake_value (s : State) (p : PierId) {off : Nat} (h64 : off % 64 = 0) :
    (s.lineTake p off 8).1 =
      let q : QKey := ⟨BitVec.ofNat 16 (pierUnit p), streamOf (off % 256 / 64)⟩
      min (q.depth - (s.queue q).length) 65535 + 2 ^ 32 * min ((s.pier p).submitBad.get (off % 256 / 64)) 65535 := by
  obtain ⟨bs, hbs⟩ := s.drop_lines p (show off % 256 / 64 < 4 by omega)
  have ho : off % 256 = 64 * (off % 256 / 64) := by omega
  rw [← s.lineBytes_front p _ bs, ← hbs, leAt, List.drop_zero]
  unfold State.lineTake
  dsimp only
  rw [leAt, ← ho]

/-- The read clears its line's count alone. -/
theorem State.lineTake_state (s : State) (p : PierId) {off : Nat} (h64 : off % 64 = 0) :
    (s.lineTake p off 8).2 = s.updPier p fun pr => { pr with submitBad := pr.submitBad.set (off % 256 / 64) 0 } := by
  have hl : off % 256 / 64 < 4 := by omega
  have ho : off % 256 = 64 * (off % 256 / 64) := by omega
  unfold State.lineTake
  dsimp only
  rw [ho]
  generalize off % 256 / 64 = l at hl
  have htouched : ((List.range 4).filter fun k => 64 * l < 64 * k + 64 && 64 * k < 64 * l + 8) = [l] := by
    interval_cases l <;> rfl
  have hl64 : 64 * l / 64 = l := by omega
  rw [htouched, hl64]
  rfl

/-! ## The accesses -/

theorem State.Woken.hasRoom {s u : State} {p : PierId} (h : s.Woken u p) (q : QKey) : u.hasRoom q = s.hasRoom q := by
  obtain ⟨-, hbut, hother, -, -, hframe⟩ := h
  refine State.hasRoom_congr (by rw [hframe]) (by rw [hframe]) (by rw [hframe]) (by rw [hframe]) fun r => ?_
  by_cases hr : r = p
  · rw [hr, hbut]
  · rw [hother r hr]

/-- An answer to a host or a mason core leaves the Skovlapers. -/
theorem State.Told.skovs {s u t : State} {src : Source} {p : PierId} {m st n v : Nat} (ha : u.Told t src st n v) (hr : s.reaches src p m) :
    t.skovs = u.skovs := by
  match src, hr with
  | .host _ _, _ => exact ha.2.2.2
  | .mason _ _, _ => exact ha.2.1

/-- An access that is not answered yet gives its credit back. -/
theorem State.afterAccess_frame (s : State) (src : Source) :
    s.afterAccess src = { s with ports := (s.afterAccess src).ports } ∧ (∀ r, (s.port r).Transmits ((s.afterAccess src).port r)) ∧
      ∀ r, (s.port r).held = ((s.afterAccess src).port r).held := by
  match src with
  | .host p tag =>
    obtain ⟨hframe, htr, hother, -, hheld⟩ := s.giveCredit_spec p 0
    refine ⟨hframe, htr, fun r => ?_⟩
    by_cases hr : r = p
    · rw [hr]
      exact hheld.symm
    · exact (congrArg Port.held (hother r hr)).symm
  | .gone _ | .mason _ _ | .skov _ => exact ⟨rfl, fun r => .refl _, fun _ => rfl⟩

section Access

variable {s : State} {src : Source} {pier : PierId} {off addr : Nat} (hp : s.place addr = .control pier off) (h1 : 0x10_0000 ≤ off)
  (h2 : off < 0x10_0100) (h64 : off % 64 = 0)
include hp h1 h2 h64

theorem State.lineWindowWrite {data : List Byte} (hn : data.length = 8 ∨ data.length = 64) (hr : s.reaches src pier 2) :
    s.windowWrite src addr data isLines =
      (if s.deadPier pier then s.answerWrite src 1 else (s.lineTrip src pier).lineWrite src pier off data).afterAccess src := by
  rw [State.windowWrite_reaches hp (by rw [windowOf_lines pier h1 h2]; rfl) (.inl hr) (accessFits_of_place hp (by omega) (by omega))
    (fun d _ => State.place_ne_wdog hp (by omega) d),
    s.controlWrite_lines h1 h2 (mayReach_lines hr h64 (hn.imp id fun h => ⟨h, rfl⟩))]

theorem State.lineWindowRead (hr : s.reaches src pier 1) :
    s.windowRead src addr 8 isLines =
      (if s.deadPier pier then s.answerRead src 1 8 0 else (s.lineTrip src pier).lineRead src pier off 8).afterAccess src := by
  rw [State.windowRead_reaches hp (by rw [windowOf_lines pier h1 h2]; rfl) (.inl hr) (accessFits_of_place hp (by omega) (by omega)),
    s.controlRead_lines h1 h2 (mayReach_lines hr h64 (.inl rfl))]

section Write

variable {data : List Byte} (hr : s.reaches src pier 2) (hd : s.deadPier pier = false)
include hr hd

theorem State.lineWindowWrite_enters (hrun : ∀ port tag, src = .host port tag → s.func.state = 3) (hlen : data.length = 64)
    (hu : unitExists (headerOf data).unit = true) (hroom : s.hasRoom (headerOf data).key = true) :
    ∃ u t, s.windowWrite src addr data isLines = t ∧ s.Woken u pier ∧ u.Acked t src 0 ∧
      u.Enqueued t (headerOf data).key (headerOf data) (originOf src) ∧ (∀ p, (t.pier p).butQueued = (u.pier p).butQueued) ∧
      t = { u with queues := t.queues, crossHeld := t.crossHeld, ports := t.ports, piers := t.piers, edgeRot := t.edgeRot } := by
  have hw := State.lineTrip_woken hd src
  refine ⟨s.lineTrip src pier, _, State.lineWindowWrite hp h1 h2 h64 (.inr hlen) hr, hw, ?_⟩
  rw [if_neg (by simp [hd])]
  generalize s.lineTrip src pier = u at hw ⊢
  have hs : u.answerable src := hw.sameEnds.answerable (State.reachesRegs.answerable (.inl hr))
  have hfunc : u.func = s.func := by rw [hw.2.2.2.2.2]
  rw [State.lineWrite_header hr hlen h64 (fun port tag h => by rw [hfunc]; exact hrun port tag h),
    State.submitHeader_room hu ((hw.hasRoom _).trans hroom)]
  dsimp only
  rw [if_pos rfl, State.sendPackets_frame]
  obtain ⟨hen, hbut, hends, hframe⟩ :=
    State.enter_enqueued { u with edgeRot := (u.sendPackets (u.submitPath (.inl pier) (headerOf data).unit) 1).edgeRot } (headerOf data)
      (originOf src)
  have hends' : u.SameEnds _ := ⟨hends.ports, hends.skovs, hends.masons⟩
  have hen' : u.Enqueued _ _ _ _ := hen
  generalize State.enter _ _ _ = w at hen' hbut hends' hframe
  obtain ⟨hack, halone⟩ := State.answerWrite_afterAccess (hends'.answerable hs) 0
  have hskovs := hack.skovs hr
  refine ⟨hends'.acked hs hack, hen'.answered halone, fun p => ?_, ?_⟩
  · exact (congrArg Pier.butQueued (halone.1 p) :).trans (hbut p)
  · rw [halone.2, hskovs, hframe]

theorem State.lineWindowWrite_waits (hrun : ∀ port tag, src = .host port tag → s.func.state = 3) (hlen : data.length = 64)
    (hu : unitExists (headerOf data).unit = true) (hroom : s.hasRoom (headerOf data).key = false) :
    ∃ u t, s.windowWrite src addr data isLines = t ∧ s.Woken u pier ∧
      t.waitingSubs = s.waitingSubs ++ [⟨(headerOf data).key, headerOf data, originOf src, some src⟩] ∧
      (∀ r, (s.port r).Transmits (t.port r)) ∧ (∀ r, (s.port r).held = (t.port r).held) ∧
      t = { u with waitingSubs := t.waitingSubs, ports := t.ports, edgeRot := t.edgeRot } := by
  have hw := State.lineTrip_woken hd src
  refine ⟨s.lineTrip src pier, _, State.lineWindowWrite hp h1 h2 h64 (.inr hlen) hr, hw, ?_⟩
  rw [if_neg (by simp [hd])]
  generalize s.lineTrip src pier = u at hw ⊢
  have hfunc : u.func = s.func := by rw [hw.2.2.2.2.2]
  have hwait : u.waitingSubs = s.waitingSubs := by rw [hw.2.2.2.2.2]
  rw [State.lineWrite_header hr hlen h64 (fun port tag h => by rw [hfunc]; exact hrun port tag h),
    State.submitHeader_full hu ((hw.hasRoom _).trans hroom)]
  dsimp only
  rw [if_neg Bool.false_ne_true, State.sendPackets_frame]
  generalize hv : ({ u with edgeRot := _, waitingSubs := _ } : State) = v
  obtain ⟨hframe, htr, hheld⟩ := v.afterAccess_frame src
  have hport : ∀ r, v.port r = s.port r := fun r => by
    rw [← hw.sameEnds.port r, ← hv]
    rfl
  refine ⟨?_, fun r => hport r ▸ htr r, fun r => hport r ▸ hheld r, ?_⟩
  · rw [hframe, ← hv, ← hwait]
  · rw [hframe, ← hv]

theorem State.lineWindowWrite_short (hlen : data.length = 8) :
    ∃ u t, s.windowWrite src addr data isLines = t ∧ s.Woken u pier ∧ u.Acked t src 0 ∧
      (∀ l, (t.pier pier).submitBad.get l = (s.pier pier).submitBad.get l + if l = off % 256 / 64 then 1 else 0) ∧
      t.counters = u.counters.addSat (pierCtr pier kSubmitBad) 1 ∧
      (∀ p, { t.pier p with masons := [], submitBad := [] } = { u.pier p with masons := [], submitBad := [] }) ∧
      t = { u with counters := t.counters, ports := t.ports, piers := t.piers } := by
  have hw := State.lineTrip_woken hd src
  refine ⟨s.lineTrip src pier, _, State.lineWindowWrite hp h1 h2 h64 (.inl hlen) hr, hw, ?_⟩
  rw [if_neg (by simp [hd]), State.lineWrite_short _ _ _ _ hlen]
  have hbad : ((s.lineTrip src pier).pier pier).submitBad = (s.pier pier).submitBad := (congrArg Pier.submitBad hw.2.1 :)
  generalize s.lineTrip src pier = u at hw hbad ⊢
  have hs : u.answerable src := hw.sameEnds.answerable (State.reachesRegs.answerable (.inl hr))
  generalize hv : (u.bumpPier pier kSubmitBad 1).updPier pier _ = v
  have hpier : ∀ p, v.pier p = if p = pier then { u.pier p with
      submitBad := (u.pier p).submitBad.set (off % 256 / 64) ((u.pier p).submitBad.get (off % 256 / 64) + 1) } else u.pier p := fun p => by
    rw [← hv, State.pier_updPier_ite]
    rfl
  have hends : u.SameEnds v := ⟨by rw [← hv]; rfl, by rw [← hv]; rfl, fun p => by rw [hpier]; split <;> rfl⟩
  obtain ⟨hack, halone⟩ := State.answerWrite_afterAccess (hends.answerable hs) 0
  have hskovs := hack.skovs hr
  refine ⟨hends.acked hs hack, fun l => ?_, ?_, fun p => ?_, ?_⟩
  · have hl : ∀ t : State, { t.pier pier with masons := [] } = { v.pier pier with masons := [] } →
        (t.pier pier).submitBad = (v.pier pier).submitBad := fun t h => (congrArg Pier.submitBad h :)
    rw [hl _ (halone.1 pier), hpier, if_pos rfl, ← hbad]
    by_cases h : l = off % 256 / 64
    · simp [h]
    · simp [h, Table.get_set_ne]
  · rw [halone.2, ← hv]
    rfl
  · refine (congrArg (fun pr : Pier => { pr with submitBad := [] }) (halone.1 p) :).trans ?_
    rw [hpier]
    split <;> rfl
  · rw [halone.2, hskovs, ← hv]
    rfl

end Write

theorem State.lineWindowRead_told (hr : s.reaches src pier 1) (hd : s.deadPier pier = false) :
    let l := off % 256 / 64
    let q : QKey := ⟨BitVec.ofNat 16 (pierUnit pier), streamOf l⟩
    ∃ u t, s.windowRead src addr 8 isLines = t ∧ s.Woken u pier ∧
      u.Told t src 0 8 (min (q.depth - (s.queue q).length) 65535 + 2 ^ 32 * min ((s.pier pier).submitBad.get l) 65535) ∧
      (∀ k, (t.pier pier).submitBad.get k = if k = l then 0 else (s.pier pier).submitBad.get k) ∧
      (∀ p, p ≠ pier → (t.pier p).submitBad = (s.pier p).submitBad) ∧
      (∀ p, { t.pier p with masons := [], submitBad := [] } = { u.pier p with masons := [], submitBad := [] }) ∧
      t = { u with ports := t.ports, piers := t.piers } := by
  intro l q
  have hw := State.lineTrip_woken hd src
  refine ⟨s.lineTrip src pier, _, State.lineWindowRead hp h1 h2 h64 hr, hw, ?_⟩
  rw [if_neg (by simp [hd]), State.lineRead]
  have hbad : ((s.lineTrip src pier).pier pier).submitBad = (s.pier pier).submitBad := (congrArg Pier.submitBad hw.2.1 :)
  have hother := hw.2.2.1
  have hqueue : (s.lineTrip src pier).queue q = s.queue q := by
    rw [hw.2.2.2.2.2]
    rfl
  generalize s.lineTrip src pier = u at hw hbad hother hqueue ⊢
  dsimp only
  rw [u.lineTake_value pier h64, u.lineTake_state pier h64]
  have hs : u.answerable src := hw.sameEnds.answerable (State.reachesRegs.answerable (.inl hr))
  generalize hv : u.updPier pier _ = v
  have hpier : ∀ p, v.pier p = if p = pier then { u.pier p with submitBad := (u.pier p).submitBad.set l 0 } else u.pier p := fun p => by
    rw [← hv, State.pier_updPier_ite]
  have hends : u.SameEnds v := ⟨by rw [← hv]; rfl, by rw [← hv]; rfl, fun p => by rw [hpier]; split <;> rfl⟩
  have hval := congrArg₂ (fun (es : List QEntry) (t : Table) => min (q.depth - es.length) 65535 + 2 ^ 32 * min (t.get l) 65535) hqueue hbad
  obtain ⟨htold, halone⟩ := State.answerRead_afterAccess (hends.answerable hs) 0 8
    (min (q.depth - (u.queue q).length) 65535 + 2 ^ 32 * min ((u.pier pier).submitBad.get l) 65535)
  have hskovs := htold.skovs hr
  have hsame : ∀ t : State, v.AnswersAlone t → ∀ p, (t.pier p).submitBad = (v.pier p).submitBad := fun t h p =>
    (congrArg Pier.submitBad (h.1 p) :)
  refine ⟨hval ▸ hends.told hs htold, fun k => ?_, fun p hne => ?_, fun p => ?_, ?_⟩
  · rw [hsame _ halone, hpier, if_pos rfl, ← hbad]
    by_cases h : k = l
    · simp [h]
    · simp [h, Table.get_set_ne]
  · rw [hsame _ halone, hpier, if_neg hne, hother p hne]
  · refine (congrArg (fun pr : Pier => { pr with submitBad := [] }) (halone.1 p) :).trans ?_
    rw [hpier]
    split <;> rfl
  · rw [halone.2, hskovs, ← hv]
    rfl

end Access

/-- Settles O23: a line's write enters or waits by the queue's room, a line's read takes its number and clears its count, and a failed pier
or a Skovlaper's access is refused. -/
theorem submissionLines : Obligations.submission_lines := by
  unfold Obligations.submission_lines
  refine ⟨?write, ?read, ?dead, ?skov⟩
  case write =>
    intro src pier off addr data s hp h1 h2 hr hd hrun h q o
    have ho : originOf src = o := hr.originOf_eq
    refine ⟨fun h64 hlen hu hroom => ?_, fun h64 hlen hu hroom => ?_, fun h64 hlen => ?_⟩
    · obtain ⟨u, t, ht, henters⟩ := State.lineWindowWrite_enters hp h1 h2 h64 hr hd hrun hlen hu hroom
      rw [ho] at henters
      exact ⟨u, t, congrArg Host.Outcome.next ht, henters⟩
    · obtain ⟨u, t, ht, hwaits⟩ := State.lineWindowWrite_waits hp h1 h2 h64 hr hd hrun hlen hu hroom
      rw [ho] at hwaits
      exact ⟨u, t, congrArg Host.Outcome.next ht, hwaits⟩
    · obtain ⟨u, t, ht, hshort⟩ := State.lineWindowWrite_short hp h1 h2 h64 hr hd hlen
      exact ⟨u, t, congrArg Host.Outcome.next ht, hshort⟩
  case read =>
    intro src pier off addr s hp h1 h2 h64 hr hd l q
    obtain ⟨u, t, ht, htold⟩ := State.lineWindowRead_told hp h1 h2 h64 hr hd
    exact ⟨u, t, congrArg Host.Outcome.next ht, htold⟩
  case dead =>
    intro src pier off addr data s hp h1 h2 h64 hlen hd
    refine ⟨fun hr => ⟨_, congrArg Host.Outcome.next (State.lineWindowWrite hp h1 h2 h64 (.inr hlen) hr), ?_⟩,
      fun hr => ⟨_, congrArg Host.Outcome.next (State.lineWindowRead hp h1 h2 h64 hr), ?_⟩⟩
    · rw [if_pos hd]
      exact State.answerWrite_afterAccess (State.reachesRegs.answerable (.inl hr)) 1
    · rw [if_pos hd]
      exact State.answerRead_afterAccess (State.reachesRegs.answerable (.inl hr)) 1 8 0
  case skov =>
    intro d pier off addr n data s hp h1 h2
    have hok : isLines (windowOf pier off) off = true := by
      rw [windowOf_lines pier h1 h2]
      rfl
    have hregs : isRegs (windowOf pier off) off = false := by
      rw [windowOf_lines pier h1 h2]
      rfl
    exact ⟨congrArg Host.Outcome.next (State.windowWrite_skov_refused d data hp hok hregs),
      congrArg Host.Outcome.next (State.windowRead_skov_refused d n hp hok hregs)⟩

end Sys2Proof.Machine
end

section
/-! SUPPORT. Start-up from an image (R469 to R476): what its steps leave as it was, and the slot and state in which they end. -/

namespace Sys2Proof.Machine

/-! ## What start-up leaves -/

/-- A state without what start-up from an image changes but for its function state. -/
def State.startRest (s : State) : State :=
  { s with
    mem := [], poison := [], piers := Vector.replicate 8 Pier.reset, quoins := Vector.replicate 4 Quoin.reset
    ports := Vector.replicate 2 Port.reset, counters := [], held := [], queues := [], waitingSubs := [], promises := [], requests := []
    stepBase := 0, stepDone := none, uRan := [], crossHeld := [], linkHeld := [], accepts := [], free := 0, edgeRot := [] }

/-- A port without its host's binding. -/
def Port.unbound (p : Port) : Port := { p with bound := false, hostId := 0 }

/-- Work of start-up that leaves the function state: piers that run stay so, and of a port only the binding changes. -/
structure State.Starts (s t : State) : Prop where
  rest : t.startRest = s.startRest
  awake : ∀ p, (s.pier p).awake = true → (t.pier p).awake = true
  ports : ∀ p, (t.port p).unbound = (s.port p).unbound

theorem State.Starts.refl (s : State) : s.Starts s := ⟨rfl, fun _ => id, fun _ => rfl⟩

theorem State.Starts.trans {s t u : State} (h : s.Starts t) (g : t.Starts u) : s.Starts u :=
  ⟨g.rest.trans h.rest, fun p hp => g.awake p (h.awake p hp), fun p => (g.ports p).trans (h.ports p)⟩

/-- Nothing of the piers and ports, and nothing else that start-up leaves. -/
theorem State.Starts.of {s t : State} (hr : t.startRest = s.startRest) (hpi : t.piers = s.piers) (hpo : t.ports = s.ports) : s.Starts t :=
  ⟨hr, fun p hp => by rwa [State.pier, hpi], fun p => by rw [State.port, hpo, State.port]⟩

/-- The work is the same whatever the function state. -/
theorem State.Starts.withFunc {s t : State} (h : s.Starts t) (f : Func) : State.Starts { s with func := f } { t with func := f } :=
  ⟨congrArg (fun x : State => { x with func := f }) h.rest, h.awake, h.ports⟩

theorem State.Starts.updPier (s : State) (p : PierId) (f : Pier → Pier) (hf : ∀ pr, pr.awake = true → (f pr).awake = true) :
    s.Starts (s.updPier p f) := by
  refine ⟨rfl, fun r hr => ?_, fun _ => rfl⟩
  rw [State.pier_updPier_ite]
  split
  · exact hf _ hr
  · exact hr

theorem State.Starts.updQuoin (s : State) (q : QuoinId) (f : Quoin → Quoin) : s.Starts (s.updQuoin q f) := .of rfl rfl rfl

theorem State.Starts.foldl {α : Type} (f : State → α → State) (hf : ∀ (s : State) a, s.Starts (f s a)) (l : List α) :
    ∀ s : State, s.Starts (l.foldl f s) := by
  induction l with
  | nil => exact .refl
  | cons a l ih => exact fun s => (hf s a).trans (ih _)

/-- Each pier changed that stays awake. -/
theorem State.Starts.updPiers (f : State → PierId → Pier → Pier) (hf : ∀ s p pr, pr.awake = true → (f s p pr).awake = true)
    (ps : List PierId) (s : State) : s.Starts (ps.foldl (fun (s : State) p => s.updPier p (f s p)) s) :=
  .foldl _ (fun t p => .updPier t p _ (hf t p)) ps s

theorem State.Starts.log (s : State) (r : Record) : s.Starts (s.log r) := by
  rw [State.log_frame]
  exact .of rfl rfl rfl

theorem State.Starts.event (s : State) (code arg : Nat) : s.Starts (s.event code arg) := .log s _

/-! ## Loading (R474) -/

theorem Pier.putCheck_frame (p : Pier) (c : CheckLine) : p.putCheck c = { p with checkCells := (p.putCheck c).checkCells } := by
  unfold Pier.putCheck
  split <;> rfl

theorem Pier.useCheck_frame (p : Pier) (c : CheckLine) :
    p.useCheck c = { p with checks := (p.useCheck c).checks, checkCells := (p.useCheck c).checkCells } := by
  unfold Pier.useCheck
  dsimp only
  split
  · rw [Pier.putCheck_frame]
  · rfl

/-- A channel written to: its check lines alone change (R384, R385). -/
theorem Pier.channelWrite_frame (p : Pier) (line : Nat) (data : List Byte) :
    p.channelWrite line data =
      { p with checks := (p.channelWrite line data).checks, checkCells := (p.channelWrite line data).checkCells } := by
  unfold Pier.channelWrite
  dsimp only
  split
  · rw [Pier.useCheck_frame, Pier.putCheck_frame]
  · rw [Pier.useCheck_frame]

theorem State.Starts.zeroFill (s : State) (a n : Nat) : s.Starts (s.zeroFill a n) := by
  unfold State.zeroFill
  dsimp only
  refine State.Starts.trans ?_ (.updPiers _ ?_ _ _)
  · exact .of rfl rfl rfl
  · exact fun _ _ _ => id

theorem State.Starts.rawWrite (s : State) (a : Nat) (bs : List Byte) : s.Starts (s.rawWrite a bs) := by
  unfold State.rawWrite
  dsimp only
  refine State.Starts.trans ?_ (.foldl _ (fun t l => ?_) _ _)
  · exact .of rfl rfl rfl
  · split
    · refine .updPier t _ _ fun pr h => ?_
      rw [Pier.channelWrite_frame]
      exact h
    · exact .refl t

theorem State.Starts.loadEntry {s t : State} (p : PierId) (a v : Nat) (h : s.loadEntry p a v = some t) : s.Starts t := by
  unfold State.loadEntry at h
  dsimp only at h
  split at h
  · split at h
    · exact Option.some.inj h ▸ .refl s
    · split at h
      · exact Option.some.inj h ▸ .updQuoin s _ _
      · cases h
  · obtain ⟨c, -, hc⟩ := Option.map_eq_some_iff.mp h
    exact hc ▸ .updPier s p _ fun _ => id

/-- Steps of which each may fail, one after another. -/
theorem State.Starts.bindFoldl {α : Type} (f : State → α → Option State) (hf : ∀ s a t, f s a = some t → s.Starts t) (l : List α) :
    ∀ (s t : State), l.foldl (fun (o : Option State) a => o.bind fun u => f u a) (some s) = some t → s.Starts t := by
  have hnone : ∀ l : List α, l.foldl (fun (o : Option State) a => o.bind fun u => f u a) none = none := fun l => by
    induction l with
    | nil => rfl
    | cons a l ih => exact ih
  induction l with
  | nil => exact fun s t h => Option.some.inj h ▸ .refl s
  | cons a l ih =>
    intro s t h
    rw [List.foldl_cons, Option.bind_some] at h
    cases hu : f s a with
    | none =>
      rw [hu, hnone] at h
      cases h
    | some u => exact (hf s a u hu).trans (ih u t (hu ▸ h))

theorem State.Starts.loadRegs {s t : State} (n : Nat) (bs : List Byte) (h : s.loadRegs n bs = some t) : s.Starts t := by
  unfold State.loadRegs at h
  split at h
  · cases h
  · have hnone : ∀ (l : List PierId) (w v : Nat), l.foldl (fun (o : Option State) p => o.bind fun u => u.loadEntry p w v) none = none :=
      fun l w v => by
        induction l with
        | nil => rfl
        | cons a l ih => exact ih
    have hbind : (fun (o : Option State) (i : Nat) => (allPiers.filter fun p => bitAt n p.val).foldl (fun (o : Option State) p =>
        o.bind fun u => u.loadEntry p (leAt bs (16 * i) 8) (leAt bs (16 * i + 8) 8)) o) =
        fun o i => o.bind fun u => (allPiers.filter fun p => bitAt n p.val).foldl (fun (o : Option State) p =>
          o.bind fun u => u.loadEntry p (leAt bs (16 * i) 8) (leAt bs (16 * i + 8) 8)) (some u) := by
      funext o i
      cases o with
      | none => exact hnone _ _ _
      | some u => rfl
    rw [hbind] at h
    exact .bindFoldl _ (fun u i v hv => .bindFoldl _ (fun x p y hy => .loadEntry p _ _ hy) _ u v hv) _ s t h

/-- Sections taken in order. -/
theorem State.Starts.eachLoaded (s : State) (dev : Bool) (xs : List Section) (f : State → Section → Option State)
    (hf : ∀ s x t, f s x = some t → s.Starts t) : s.Starts (s.eachLoaded dev xs f).2 := by
  unfold State.eachLoaded
  refine foldl_keeps (fun r : Nat × State => s.Starts r.2) _ (fun r x hr => ?_) xs (State.Starts.refl s)
  split
  · exact hr
  · split
    · exact hr
    · split
      · next t ht => exact hr.trans (hf _ _ _ ht)
      · exact hr

theorem State.Starts.loadStep6 (s : State) (dev : Bool) : s.Starts (s.loadStep6 dev).2 := by
  have hset : ∀ (t : State) (l : Table), t.Starts { t with promises := l } := fun t l => .of rfl rfl rfl
  unfold State.loadStep6
  dsimp only
  refine State.Starts.trans ?_ (.eachLoaded _ dev _ _ fun t x u hu => ?_)
  · refine (State.Starts.updPiers (fun _ _ pr => { pr with cfg := .reset }) (fun _ _ _ => id) allPiers s).trans ?_
    exact (State.Starts.foldl _ (fun t q => .updQuoin t q _) _ _).trans (hset _ _)
  · split at hu
    · obtain ⟨bs, -, hbs⟩ := Option.bind_eq_some_iff.mp hu
      exact .loadRegs _ bs hbs
    · split at hu
      · obtain ⟨bs, -, hbs⟩ := Option.bind_eq_some_iff.mp hu
        split at hbs
        · cases hbs
        · exact Option.some.inj hbs ▸ hset t _
      · exact Option.some.inj hu ▸ .refl t

theorem State.Starts.loadStep8 (s : State) (dev : Bool) : s.Starts (s.loadStep8 dev).2 := by
  unfold State.loadStep8
  refine .eachLoaded s dev _ _ fun t x u hu => ?_
  have hchecked : ∀ {c : List Byte → Prop} [DecidablePred c],
      ((t.sectionBytes dev x).bind fun bs => if c bs then some t else none) = some u → t.Starts u := fun h => by
    obtain ⟨bs, -, hbs⟩ := Option.bind_eq_some_iff.mp h
    exact Option.some.inj (Option.ite_none_right_eq_some.mp hbs).2 ▸ .refl t
  split at hu
  · obtain ⟨bs, -, hbs⟩ := Option.bind_eq_some_iff.mp hu
    exact Option.some.inj (Option.ite_none_right_eq_some.mp hbs).2 ▸ .rawWrite t _ _
  · split at hu
    · exact Option.some.inj (Option.ite_none_right_eq_some.mp hu).2 ▸ .zeroFill t _ _
    · split at hu
      · exact hchecked hu
      · split at hu
        · exact hchecked hu
        · exact Option.some.inj hu ▸ .refl t

/-! ## The function state during start-up -/

/-- Start-up's work under a function state that it has come to. -/
def State.StartsTo (s t : State) : Prop := State.Starts { s with func := t.func } t

theorem State.Starts.func {s t : State} (h : s.Starts t) : t.func = s.func := (congrArg State.func h.rest :)

theorem State.Starts.to {s t : State} (h : s.Starts t) : s.StartsTo t := by
  have hf := h.func
  unfold State.StartsTo
  rw [hf]
  exact h

theorem State.StartsTo.trans {s t u : State} (h : s.StartsTo t) (g : t.StartsTo u) : s.StartsTo u :=
  (State.Starts.withFunc h u.func).trans g

theorem State.startsTo_func (s : State) (f : Func) : s.StartsTo { s with func := f } := .refl _

theorem State.setFunc_starts (s : State) (n : Nat) :
    s.StartsTo (s.setFunc n) ∧ (s.setFunc n).func = { s.func with state := n } := by
  unfold State.setFunc
  split
  · next h =>
    have hn : s.func.state = n := by simpa using h
    exact ⟨.refl s, by rw [← hn]⟩
  · have h := State.Starts.event { s with func := { s.func with state := n } } 0x01 n
    exact ⟨(s.startsTo_func _).trans h.to, h.func⟩

theorem State.setCheck_starts (s : State) (dev : Bool) (n : Nat) : s.StartsTo (s.setCheck dev n) := s.startsTo_func _

/-- The function state that the header of a loaded slot gives. -/
def State.headerFunc (s : State) (dev : Bool) : Func :=
  { s.func with
    slot := if dev then 2 else 1, generation := s.imageWord dev 8 4, context := s.imageWord dev 16 8, loaded := true, ever := true
    imageSv := s.imageWord dev 12 4, keySlot := s.imageWord dev 28 1, policyBase := s.imageWord dev 24 4
    imageMeas := sha512 (s.flashRead dev 0 4096), cxlWait := s.imageWord dev 29 1, cxlTimeout := min 256 (s.imageWord dev 30 2)
    waitSince := s.tick }

/-- A host's binding ended where its context is not the image's (R462). -/
def Port.rebound (c : Nat) (p : Port) : Port := if c == 0 || p.context == c then p else { p with bound := false, hostId := 0 }

theorem State.loadHeader_eq (s : State) (dev : Bool) :
    s.loadHeader dev = allPorts.foldl (fun (t : State) p => t.updPort p (Port.rebound (s.imageWord dev 16 8)))
      { s with func := s.headerFunc dev } := rfl

theorem State.loadHeader_starts (s : State) (dev : Bool) :
    s.StartsTo (s.loadHeader dev) ∧ (s.loadHeader dev).func = s.headerFunc dev := by
  rw [State.loadHeader_eq]
  generalize s.headerFunc dev = f
  generalize s.imageWord dev 16 8 = c
  have hport : ∀ (t : State) (p : PortId), t.Starts (t.updPort p (Port.rebound c)) := fun t p => by
    refine ⟨rfl, fun _ => id, fun r => ?_⟩
    by_cases hr : r = p
    · rw [hr, State.port_updPort, Port.rebound]
      split <;> rfl
    · rw [State.port_updPort_ne t _ hr]
  have hfold := State.Starts.foldl _ hport allPorts { s with func := f }
  exact ⟨(s.startsTo_func f).trans hfold.to, hfold.func⟩

theorem State.loadSlot_starts (s : State) (dev : Bool) :
    s.StartsTo (s.loadSlot dev).2 ∧
      ((s.loadSlot dev).1 = 1 → ∃ t : State, t.func = s.func ∧ (s.loadSlot dev).2.func = t.headerFunc dev) ∧
      ((s.loadSlot dev).1 ≠ 1 → (s.loadSlot dev).2.func = s.func) := by
  have h6 := State.Starts.loadStep6 s dev
  have h8 := State.Starts.loadStep8 (s.loadStep6 dev).2 dev
  obtain ⟨hto, hfunc⟩ := ((s.loadStep6 dev).2.loadStep8 dev).2.loadHeader_starts dev
  have hkept := h8.func.trans h6.func
  unfold State.loadSlot
  dsimp only
  by_cases h1 : (s.loadStep6 dev).1 = 1
  · rw [if_neg (by simp [h1])]
    by_cases h2 : ((s.loadStep6 dev).2.loadStep8 dev).1 = 1
    · simp only [h2, beq_self_eq_true, if_true, ne_eq, not_true, false_implies, and_true, true_implies]
      exact ⟨(h6.trans h8).to.trans hto, _, hkept, hfunc⟩
    · simp only [h2, beq_iff_eq, if_false, false_implies, true_and, ne_eq, not_false_eq_true, true_implies]
      exact ⟨(h6.trans h8).to, hkept⟩
  · rw [if_pos (by simp [h1])]
    exact ⟨h6.to, fun h => absurd h h1, fun _ => h6.func⟩

/-! ## Step 10 -/

theorem mem_allPiers (p : PierId) : p ∈ allPiers := by
  revert p
  decide

/-- Every pier changed to one with a property. -/
theorem State.pier_updPiers {P : Pier → Prop} {C : State → Prop} (f : State → PierId → Pier → Pier)
    (hC : ∀ s p g, C s → C (s.updPier p g)) (hf : ∀ s p pr, C s → P (f s p pr)) {s : State} (hs : C s) (p : PierId) :
    P ((allPiers.foldl (fun (s : State) p => s.updPier p (f s p)) s).pier p) := by
  have hfold : ∀ (l : List PierId) (s : State), C s → p ∈ l ∨ P (s.pier p) →
      P ((l.foldl (fun (s : State) p => s.updPier p (f s p)) s).pier p) := by
    intro l
    induction l with
    | nil => exact fun s _ h => h.resolve_left (by simp)
    | cons q l ih =>
      intro s hs h
      refine ih _ (hC s q _ hs) ?_
      by_cases hp : p = q
      · right
        rw [hp, State.pier_updPier]
        exact hf s q _ hs
      · rw [State.pier_updPier_ne s _ hp]
        exact h.imp (fun hm => (List.mem_cons.mp hm).resolve_left hp) id
  exact hfold allPiers s hs (.inl (mem_allPiers p))

/-- The mortar's lines written back: but for its check lines the pier stays. -/
theorem Pier.flushMortar_frame (p : Pier) (mem : List Host.Cell) :
    p.flushMortar mem =
      { p with mortar := [], checks := (p.flushMortar mem).checks, checkCells := (p.flushMortar mem).checkCells } := by
  have hback : ∀ (p : Pier) (l : MortLine), { p.writeBack mem l with mortar := [], checks := [], checkCells := [] } =
      { p with mortar := [], checks := [], checkCells := [] } := fun p l => by
    unfold Pier.writeBack
    split
    · rw [Pier.channelWrite_frame]
    · rfl
  have hfold : ∀ (ls : List MortLine) (p : Pier),
      { ls.foldl (fun (p : Pier) l => p.writeBack mem l) p with mortar := [], checks := [], checkCells := [] } =
      { p with mortar := [], checks := [], checkCells := [] } := by
    intro ls
    induction ls with
    | nil => exact fun p => rfl
    | cons l ls ih => exact fun p => (ih (p.writeBack mem l)).trans (hback p l)
  exact congrArg (fun x : Pier => { x with checks := (p.flushMortar mem).checks, checkCells := (p.flushMortar mem).checkCells })
    (hfold p.mortar p)

/-- A pier as step 10 leaves it: awake as it was, epoch 0, the policy base, and no keystone set. -/
def Pier.fresh (p : Pier) (base : Nat) : Prop := p.epoch = 0 ∧ p.policy = base ∧ p.keys = [] ∧ p.keys1 = [] ∧ p.keys2 = []

theorem Pier.fresh.keyAt {p : Pier} {base : Nat} (h : p.fresh base) (k : Nat) : p.keyAt k = 0 := by
  obtain ⟨-, -, h0, h1, h2⟩ := h
  simp [Pier.keyAt, h0, h1, h2, majority, Table.get]

theorem Pier.fresh_started (p : Pier) (mem : List Host.Cell) (base : Nat) : (p.started mem base).fresh base := ⟨rfl, rfl, rfl, rfl, rfl⟩

theorem Pier.awake_started (p : Pier) (mem : List Host.Cell) (base : Nat) : (p.started mem base).awake = p.awake := by
  unfold Pier.started
  rw [Pier.flushMortar_frame]

/-- An image's start: its piers fresh, and only its own submissions waiting. -/
def State.fresh (s : State) (base : Nat) : Prop :=
  (s.waitingSubs.all fun w => w.origin == .image) = true ∧ ∀ p, (s.pier p).fresh base

/-- Start-up's work that keeps an image's start. -/
structure State.Submits (s t : State) : Prop where
  starts : s.Starts t
  waits : (s.waitingSubs.all fun w => w.origin == .image) = true → (t.waitingSubs.all fun w => w.origin == .image) = true
  piers : ∀ base, (∀ p, (s.pier p).fresh base) → ∀ p, (t.pier p).fresh base

theorem State.Submits.refl (s : State) : s.Submits s := ⟨.refl s, id, fun _ => id⟩

theorem State.Submits.trans {s t u : State} (h : s.Submits t) (g : t.Submits u) : s.Submits u :=
  ⟨h.1.trans g.1, fun hw => g.2 (h.2 hw), fun b hb => g.3 b (h.3 b hb)⟩

theorem State.Submits.foldl {α : Type} (f : State → α → State) (hf : ∀ (s : State) a, s.Submits (f s a)) (l : List α) :
    ∀ s : State, s.Submits (l.foldl f s) := by
  induction l with
  | nil => exact .refl
  | cons a l ih => exact fun s => (hf s a).trans (ih _)

/-- The program slots checked (R335). -/
theorem State.Submits.progOk (f : State → PierId → Nat) (s : State) :
    s.Submits (allPiers.foldl (fun (s : State) p => s.updPier p fun pr => { pr with progOk := f s p }) s) := by
  have hset : ∀ (pr : Pier) (n base : Nat), pr.fresh base → Pier.fresh { pr with progOk := n } base := fun _ _ _ h => h
  refine .foldl _ (fun s q => ?_) _ s
  refine ⟨.updPier s _ _ fun _ => id, id, fun base h p => ?_⟩
  rw [State.pier_updPier_ite]
  split
  · exact hset _ _ _ (h p)
  · exact h p

theorem State.Submits.startMasons (s : State) (bs : List Byte) : s.Submits (s.startMasons bs) := by
  unfold State.startMasons
  refine .foldl _ (fun s i => ?_) _ s
  refine ⟨.updPier s _ _ fun _ => id, id, fun base h p => ?_⟩
  rw [State.pier_updPier_ite]
  split
  · exact h p
  · exact h p

/-- The piers change only as the entry of a header changes them. -/
theorem State.Submits.ofQueued {s t : State} (hr : t.startRest = s.startRest) (hpo : t.ports = s.ports)
    (hpi : ∀ p, (t.pier p).butQueued = (s.pier p).butQueued)
    (hw : (s.waitingSubs.all fun w => w.origin == .image) = true → (t.waitingSubs.all fun w => w.origin == .image) = true) :
    s.Submits t := by
  refine ⟨⟨hr, fun p hp => ?_, fun p => by rw [State.port, State.port, hpo]⟩, hw, fun base h p => ?_⟩
  · have ha : (t.pier p).awake = (s.pier p).awake := (congrArg Pier.awake (hpi p) :)
    rwa [ha]
  · have hf : (t.pier p).butQueued.fresh base = (s.pier p).butQueued.fresh base := by rw [hpi]
    exact Eq.mpr hf (h p)

/-- An initial header submitted at a port. -/
theorem State.Submits.header (s : State) (h : Header) (port : PortId) : s.Submits (s.submitHeader h .image (.inr port) none).1 := by
  unfold State.submitHeader
  split
  · unfold State.badUnit
    dsimp only
    rw [State.log_frame]
    exact .ofQueued rfl rfl (fun _ => rfl) id
  · dsimp only
    rw [State.sendPackets_frame]
    split
    · obtain ⟨-, hbut, -, hframe⟩ := State.enter_enqueued { s with edgeRot := (s.sendPackets (s.submitPath (.inr port) h.unit) 1).edgeRot } h .image
      generalize State.enter _ _ _ = t at hbut hframe ⊢
      exact .ofQueued (by rw [hframe]; rfl) (by rw [hframe]) hbut (by rw [hframe]; exact id)
    · refine .ofQueued rfl rfl (fun _ => rfl) fun hw => ?_
      simp [hw]

theorem State.Submits.initial (s : State) (bs : List Byte) : s.Submits (s.submitInitial bs) := by
  unfold State.submitInitial
  exact .foldl _ (fun t i => .header t _ _) _ s

theorem State.Submits.eachSection (s : State) (dev : Bool) (kind : Nat) (f : State → List Byte → State)
    (hf : ∀ (s : State) bs, s.Submits (f s bs)) : s.Submits (s.eachSection dev kind f) := by
  unfold State.eachSection
  refine .foldl _ (fun t x => ?_) _ s
  split
  · exact hf t _
  · exact .refl t

theorem State.setFunc_frame (s : State) (n : Nat) :
    s.setFunc n = { s with func := (s.setFunc n).func, held := (s.setFunc n).held, counters := (s.setFunc n).counters } := by
  unfold State.setFunc
  split
  · rfl
  · rw [State.event_frame]

/-- Step 10's piers. -/
def State.startPiers (s : State) : State :=
  allPiers.foldl (fun (s : State) p => s.updPier p (·.started s.mem s.func.policyBase)) s

/-- Their program slots checked (R335). -/
def State.startPrograms (s : State) : State :=
  allPiers.foldl (fun (s : State) p => s.updPier p fun pr => { pr with progOk := s.progMask p }) s

/-- The deferral queues of the quoins empty. -/
def State.startQuoins (s : State) : State :=
  ([0, 1, 2, 3] : List QuoinId).foldl (fun (s : State) q => s.updQuoin q fun w =>
    { w with queue := [], placing := [], placed := 0, draws := [], discard := false, fresh := false, sums := [] }) s

/-- Nothing queued. -/
def State.startQueues (s : State) : State :=
  { s.cutPrograms fun _ => true with
    queues := [], waitingSubs := [], stepBase := 0, stepDone := none, uRan := [], linkHeld := [], crossHeld := [], accepts := [] }

theorem State.finishStart_eq (s : State) :
    s.finishStart = ((s.startPiers.startPrograms.startQuoins.startQueues.eachSection (s.func.slot == 2) 6 State.startMasons).setFunc
      3).eachSection (s.func.slot == 2) 5 State.submitInitial := rfl

theorem State.startPiers_starts (s : State) : s.Starts s.startPiers ∧ ∀ p, (s.startPiers.pier p).fresh s.func.policyBase :=
  ⟨.updPiers (fun t _ pr => pr.started t.mem t.func.policyBase) (fun t _ pr h => (pr.awake_started _ _).trans h) _ s,
    State.pier_updPiers (P := fun pr => pr.fresh s.func.policyBase) (C := fun t => t.func = s.func)
      (fun t _ pr => pr.started t.mem t.func.policyBase) (fun _ _ _ => id)
      (fun t _ pr hc => by rw [← hc]; exact pr.fresh_started _ _) rfl⟩

theorem State.Submits.startQuoins (s : State) : s.Submits s.startQuoins :=
  .foldl _ (fun t q => ⟨.updQuoin t q _, id, fun _ => id⟩) _ s

theorem State.Submits.startQueues (s : State) : s.Submits s.startQueues := ⟨.of rfl rfl rfl, fun _ => rfl, fun _ => id⟩

theorem State.fresh_setFunc (s : State) (n : Nat) (base : Nat) (h : s.fresh base) : (s.setFunc n).fresh base := by
  rw [State.setFunc_frame]
  exact h

/-- Step 10 ends running, its piers fresh. -/
theorem State.finishStart_starts (s : State) :
    s.StartsTo s.finishStart ∧ s.finishStart.func = { s.func with state := 3 } ∧ s.finishStart.fresh s.func.policyBase := by
  rw [State.finishStart_eq]
  generalize (s.func.slot == 2) = dev
  obtain ⟨h1, f1⟩ := s.startPiers_starts
  generalize s.startPiers = s1 at h1 f1 ⊢
  have h5 : s1.Submits s1.startPrograms.startQuoins.startQueues :=
    (State.Submits.progOk State.progMask s1).trans ((State.Submits.startQuoins _).trans (.startQueues _))
  have w5 : s1.startPrograms.startQuoins.startQueues.waitingSubs = [] := rfl
  generalize s1.startPrograms.startQuoins.startQueues = s5 at h5 w5 ⊢
  have h6 : s5.Submits (s5.eachSection dev 6 State.startMasons) := .eachSection s5 dev 6 _ .startMasons
  generalize s5.eachSection dev 6 State.startMasons = s6 at h6 ⊢
  obtain ⟨h7, e7⟩ := s6.setFunc_starts 3
  have f7 : (s6.setFunc 3).fresh s.func.policyBase :=
    State.fresh_setFunc s6 3 _ ⟨h6.waits (by rw [w5]; rfl), h6.piers _ (h5.piers _ f1)⟩
  generalize s6.setFunc 3 = s7 at h7 e7 f7 ⊢
  have h8 : s7.Submits (s7.eachSection dev 5 State.submitInitial) := .eachSection s7 dev 5 _ .initial
  have h06 : s.Starts s6 := h1.trans (h5.starts.trans h6.starts)
  refine ⟨h06.to.trans (h7.trans h8.starts.to), ?_, h8.waits f7.1, h8.piers _ f7.2⟩
  rw [h8.starts.func, e7, h06.func]

/-- Start-up's state with a slot loaded or none (R470). -/
def Func.slotted (f : Func) : Prop := f.loaded = true ∧ (f.slot = 1 ∧ f.checkA = 1 ∨ f.slot = 2 ∧ f.checkB = 1)

theorem State.tryFinish_starts {s : State} (h2 : s.func.state = 2) (hs : s.func.slotted) :
    s.StartsTo s.tryFinish ∧ (s.tryFinish.func.state = 2 ∨ s.tryFinish.func.state = 3) ∧ s.tryFinish.func.slotted ∧
      (s.tryFinish.func.state = 3 → s.tryFinish.fresh s.tryFinish.func.policyBase) := by
  unfold State.tryFinish
  split
  · obtain ⟨hst, hfunc, hfresh⟩ := s.finishStart_starts
    rw [hfunc]
    exact ⟨hst, .inr rfl, hs, fun _ => hfresh⟩
  · exact ⟨(State.Starts.refl s).to, .inl h2, hs, fun h => by rw [h2] at h; cases h⟩

/-! ## Slots (R470) -/

/-- The check code of a slot. -/
def Func.check (f : Func) (dev : Bool) : Nat := if dev then f.checkB else f.checkA

theorem State.headerFunc_slotted (s : State) {dev : Bool} (h : s.func.check dev = 1) : (s.headerFunc dev).slotted := by
  cases dev with
  | false => exact ⟨rfl, .inl ⟨rfl, h⟩⟩
  | true => exact ⟨rfl, .inr ⟨rfl, h⟩⟩

theorem State.check_setCheck_ne (s : State) {d e : Bool} (n : Nat) (h : e ≠ d) : (s.setCheck d n).func.check e = s.func.check e := by
  obtain rfl : e = !d := (Bool.eq_not).mpr h
  cases d <;> rfl

/-- How start-up ends: without an image, or with one of a slot that passed its check, waiting in step 9 or running. -/
def State.loadedOrNone (t : State) : Prop :=
  (t.func.state = 6 ∧ t.func.loaded = false ∧ t.func.slot = 0 ∨ (t.func.state = 2 ∨ t.func.state = 3) ∧ t.func.slotted) ∧
    (t.func.state = 3 → t.fresh t.func.policyBase)

theorem State.trySlots_starts (ds : List Bool) : ∀ {s : State}, s.func.state = 2 → ds.Nodup → (∀ d ∈ ds, s.func.check d = 1) →
    s.StartsTo (s.trySlots ds) ∧ (s.trySlots ds).loadedOrNone := by
  induction ds with
  | nil =>
    intro s _ _ _
    obtain ⟨hst, hfunc⟩ := State.setFunc_starts { s with func := { s.func with slot := 0, generation := 0, loaded := false } } 6
    have he : s.trySlots [] = State.setFunc { s with func := { s.func with slot := 0, generation := 0, loaded := false } } 6 := rfl
    rw [he]
    refine ⟨(s.startsTo_func _).trans hst, ?_⟩
    unfold State.loadedOrNone
    rw [hfunc]
    exact ⟨.inl ⟨rfl, rfl, rfl⟩, fun h => nomatch h⟩
  | cons d ds ih =>
    intro s h2 hnd hcheck
    obtain ⟨hd, hnd⟩ := List.nodup_cons.mp hnd
    obtain ⟨hst, hok, hbad⟩ := s.loadSlot_starts d
    unfold State.trySlots
    dsimp only
    by_cases h1 : (s.loadSlot d).1 = 1
    · obtain ⟨u, hu, hfunc⟩ := hok h1
      rw [if_pos (by simp [h1])]
      have hslot : (s.loadSlot d).2.func.slotted := by
        rw [hfunc]
        exact u.headerFunc_slotted (by rw [hu]; exact hcheck d (by simp))
      have hstate : (s.loadSlot d).2.func.state = 2 := by
        rw [hfunc, State.headerFunc, hu]
        exact h2
      obtain ⟨hfin, hstate, hslot, hfresh⟩ := State.tryFinish_starts hstate hslot
      exact ⟨hst.trans hfin, .inr ⟨hstate, hslot⟩, hfresh⟩
    · rw [if_neg (by simp [h1])]
      have hkept := hbad h1
      generalize (s.loadSlot d).1 = n
      generalize (s.loadSlot d).2 = t at hst hkept ⊢
      have hstate : (t.setCheck d n).func.state = 2 := by
        rw [← h2, ← hkept]
        cases d <;> rfl
      obtain ⟨hrest, hend⟩ := ih hstate hnd fun e he => by
        rw [State.check_setCheck_ne t n (fun hed : e = d => hd (by rwa [← hed])), hkept]
        exact hcheck e (by simp [he])
      exact ⟨hst.trans ((t.setCheck_starts d n).trans hrest), hend⟩

/-- A slot and the other, those of them that pass. -/
def passing (ok : Bool → Bool) (first : Bool) : List Bool :=
  if ok first then [first] ++ (if ok (!first) then [!first] else []) else []

theorem passing_nodup (ok : Bool → Bool) (first : Bool) : (passing ok first).Nodup := by
  unfold passing
  cases ok first <;> cases ok (!first) <;> simp

theorem passing_ok {ok : Bool → Bool} {first d : Bool} (h : d ∈ passing ok first) : ok d = true := by
  unfold passing at h
  cases h1 : ok first with
  | false => simp [h1] at h
  | true =>
    cases h2 : ok (!first) with
    | false =>
      obtain rfl : d = first := by simpa [h1, h2] using h
      exact h1
    | true =>
      obtain rfl | rfl : d = first ∨ d = !first := by simpa [h1, h2] using h
      · exact h1
      · exact h2

/-- The slots that start-up tries are those whose check passed. -/
theorem State.slotOrder_passing (s : State) (sel : Nat) :
    ∃ first, s.slotOrder sel = passing (fun d => if d then s.func.checkB == 1 else s.func.checkA == 1) first := ⟨_, rfl⟩

theorem State.slotOrder_nodup (s : State) (sel : Nat) : (s.slotOrder sel).Nodup := by
  obtain ⟨first, h⟩ := s.slotOrder_passing sel
  rw [h]
  exact passing_nodup _ _

theorem State.slotOrder_check (s : State) (sel : Nat) : ∀ d ∈ s.slotOrder sel, s.func.check d = 1 := by
  obtain ⟨first, h⟩ := s.slotOrder_passing sel
  rw [h]
  intro d hd
  have hok := passing_ok hd
  cases d <;> simpa [Func.check] using hok

/-! ## Start-up as a whole -/

theorem State.powerPiers_starts (s : State) : s.Starts s.powerPiers ∧ ∀ p, (s.powerPiers.pier p).awake = true := by
  unfold State.powerPiers
  have hall := State.pier_updPiers (P := fun pr => pr.awake = true) (C := fun _ => True)
    (fun t _ pr => { pr.stir t.tick with awake := true, bondPos := 0, stores := [] }) (fun _ _ _ => id) (fun _ _ _ _ => rfl)
    (s := s) trivial
  have hst := State.Starts.updPiers (fun t _ pr => { pr.stir t.tick with awake := true, bondPos := 0, stores := [] })
    (fun _ _ _ _ => rfl) allPiers s
  generalize allPiers.foldl _ s = t at hall hst ⊢
  rw [State.runChange_frame]
  exact ⟨hst.trans (.of rfl rfl rfl), hall⟩

theorem State.startUp_starts (s : State) (sel : Nat) :
    s.StartsTo (s.startUp sel) ∧ (s.startUp sel).loadedOrNone ∧ ∀ p, ((s.startUp sel).pier p).awake = true := by
  unfold State.startUp
  extract_lets s1 s2 s3 s4
  have h1 : s.StartsTo s1 := by
    refine State.StartsTo.trans ?_ (State.setFunc_starts _ 2).1
    exact State.Starts.to (.of rfl rfl rfl)
  have e1 : s1.func.state = 2 := congrArg Func.state (State.setFunc_starts { s with free := s.free + 1 } 2).2
  clear_value s1
  have h3 : s1.StartsTo s3 := (s1.setCheck_starts _ _).trans (s2.setCheck_starts _ _)
  have e3 : s3.func.state = 2 := e1
  clear_value s3
  obtain ⟨h4, a4⟩ : s3.Starts s4 ∧ ∀ p, (s4.pier p).awake = true := s3.powerPiers_starts
  have e4 : s4.func.state = 2 := by rw [h4.func, e3]
  clear_value s4
  obtain ⟨h5, hend⟩ := State.trySlots_starts (s4.slotOrder sel) e4 (s4.slotOrder_nodup sel) (s4.slotOrder_check sel)
  exact ⟨h1.trans (h3.trans (h4.to.trans h5)), hend, fun p => h5.awake p (a4 p)⟩

/-- Start-up begins where the supplies and Skovlaper permit it (R511). -/
theorem State.tryIdle_not {s : State} (h : ¬s.mayIdle) (cause : Nat) : s.tryIdle cause = s := by
  unfold State.tryIdle
  refine if_neg fun hc => h ?_
  simpa [State.mayIdle, and_assoc, and_comm, and_left_comm] using hc

theorem State.tryIdle_eq {s : State} (h : s.mayIdle) (cause : Nat) :
    s.tryIdle cause = (State.powerEvent { s with power := { s.power with regulators := true } } 2 cause).startUp 0 := by
  unfold State.tryIdle
  obtain ⟨h1, h2, h3, h4, h5, h6, h7, h8⟩ := h
  exact if_pos (by simp [h1, h2, h3, h4, h5, h6, h7, h8])

theorem State.tryIdle_starts {s : State} (h : s.mayIdle) (cause : Nat) :
    State.StartsTo { s with power := { s.power with regulators := true } } (s.tryIdle cause) ∧ (s.tryIdle cause).loadedOrNone ∧
      ∀ p, ((s.tryIdle cause).pier p).awake = true := by
  rw [State.tryIdle_eq h]
  obtain ⟨hst, hend⟩ := (State.powerEvent { s with power := { s.power with regulators := true } } 2 cause).startUp_starts 0
  refine ⟨State.StartsTo.trans (State.Starts.event _ _ _).to hst, hend⟩

/-- The power as start-up leaves it, and the rest as the statement of a start says. -/
theorem State.tryIdle_started {s : State} (h : s.mayIdle) (cause : Nat) :
    (s.tryIdle cause).power = { s.power with regulators := true } ∧ s.Started (s.tryIdle cause) := by
  obtain ⟨hst, ⟨hend, hrun⟩, hawake⟩ := State.tryIdle_starts h cause
  generalize s.tryIdle cause = t at hst hend hrun hawake ⊢
  have hpower : t.power = { s.power with regulators := true } := (congrArg State.power hst.rest :)
  refine ⟨hpower, hend.imp id (fun hs => ⟨hs.1, hs.2.1, hs.2.2⟩), hawake, fun h3 => ?_, ?_⟩
  · obtain ⟨hw, hp⟩ := hrun h3
    exact ⟨hw, fun p => ⟨(hp p).1, (hp p).2.1, (hp p).keyAt⟩⟩
  · exact congrArg (fun x : State => { x with
      mem := t.mem, poison := t.poison, piers := t.piers, quoins := t.quoins, ports := t.ports, counters := t.counters
      held := t.held, queues := t.queues, waitingSubs := t.waitingSubs, func := t.func, power := t.power, promises := t.promises
      requests := t.requests, stepBase := t.stepBase, stepDone := t.stepDone, uRan := t.uRan, crossHeld := t.crossHeld
      linkHeld := t.linkHeld, accepts := t.accepts, smbus := t.smbus, free := t.free, edgeRot := t.edgeRot
      unsent := t.unsent }) hst.rest

end Sys2Proof.Machine
end

section
/-! SUPPORT. The two Skovlapers (R501 to R506, R516, R521, R523): what a boot takes from flash, how the roles settle, and what a takeover, a
reset and a write of SKOV_WDOG leave. -/

namespace Sys2Proof.Machine

/-! ## Flash read (R472) -/

/-- Two states with the same flash devices. -/
structure State.SameFlash (s t : State) : Prop where
  flash0 : t.flash0 = s.flash0
  flash1 : t.flash1 = s.flash1
  erased0 : t.erased0 = s.erased0
  erased1 : t.erased1 = s.erased1

section SameFlash

variable {s t : State} (h : s.SameFlash t) (dev : Bool)
include h

theorem State.SameFlash.flashAt (off : Nat) : t.flashAt dev off = s.flashAt dev off := by
  have hcells : t.flash dev = s.flash dev := by rw [State.flash, State.flash, h.flash0, h.flash1]
  have herased : t.erased dev = s.erased dev := by rw [State.erased, State.erased, h.erased0, h.erased1]
  rw [State.flashAt, State.flashAt, hcells, herased]

theorem State.SameFlash.flashRead (n : Nat) : ∀ off, t.flashRead dev off n = s.flashRead dev off n := by
  induction n with
  | zero => exact fun _ => rfl
  | succ n ih =>
    intro off
    rw [State.flashRead, State.flashRead, h.flashAt, ih]

theorem State.SameFlash.fwVersion (copy : Nat) : t.fwVersion dev copy = s.fwVersion dev copy := by
  simp only [State.fwVersion, State.flashWord, h.flashRead]

theorem State.SameFlash.verifyRaw (slot : Nat) (msg sig : List Byte) : t.verifyRaw dev slot msg sig = s.verifyRaw dev slot msg sig := by
  simp only [State.verifyRaw, h.flashRead]

theorem State.SameFlash.revoked : t.revoked dev = s.revoked dev := by
  simp only [State.revoked, State.revocation, h.flashRead, h.verifyRaw]

theorem State.SameFlash.fwSigned (bs : List Byte) : t.fwSigned dev bs = s.fwSigned dev bs := by
  simp only [State.fwSigned, State.verify, h.flashRead, h.verifyRaw, h.revoked]

theorem State.SameFlash.fwCheck (hf : (t.skov dev).fwFloor = (s.skov dev).fwFloor) (copy : Nat) :
    t.fwCheck dev copy = s.fwCheck dev copy := by
  unfold State.fwCheck
  dsimp only
  rw [h.flashRead, h.fwSigned, h.flashRead, hf]

/-- The firmware copy that boots depends on flash and the floor in force. -/
theorem State.SameFlash.fwChoice (hf : (t.skov dev).fwFloor = (s.skov dev).fwFloor) : t.fwChoice dev = s.fwChoice dev := by
  rw [State.fwChoice, State.fwChoice, h.fwCheck dev hf, h.fwCheck dev hf, h.fwVersion, h.fwVersion]

end SameFlash

/-! ## Boot -/

/-- What a boot takes from its PUF and its floors. -/
def State.bootBase (s : State) (d : Bool) : State :=
  s.updSkov d fun k => { k with
    boots := k.boots + 1, keys := s.pufTries d, fwFloor := (s.floors d).fw, imageFloor := (s.floors d).image
    floorUnauth := !(s.floors d).good }

/-- A Skovlaper as its boot leaves it: its tries, its floors, and its copy of firmware or recovery. -/
structure Skov.booted (s : State) (d : Bool) (k : Skov) : Prop where
  boots : k.boots = (s.skov d).boots + 1
  keys : k.keys = s.pufTries d
  fwFloor : k.fwFloor = (s.floors d).fw
  imageFloor : k.imageFloor = (s.floors d).image
  floorUnauth : k.floorUnauth = !(s.floors d).good
  runs : ∀ c, (s.bootBase d).fwChoice d = some c → k.up = true ∧ k.recovery = false ∧ k.fwCopy = c ∧ k.wdogMs = 100 ∧ k.kickTick = s.tick ∧
    k.fwVersion = s.fwVersion d c
  recovers : (s.bootBase d).fwChoice d = none → k.up = (s.skov d).up ∧ k.recovery = true

theorem Skov.booted.decided {s : State} {d : Bool} {k : Skov} (h : Skov.booted s d k) : k.decided = true := by
  cases hc : (s.bootBase d).fwChoice d with
  | none => simp [Skov.decided, (h.recovers hc).2]
  | some c => simp [Skov.decided, (h.runs c hc).1]

/-- A Skovlaper apart from its role and what it knows of the other. -/
def Skov.own (k : Skov) : Skov := { k with active := false, takeovers := 0, peerReady := false, peerRecovery := false }

/-- The roles may change after a boot. -/
theorem Skov.booted.of {s : State} {d : Bool} {k l : Skov} (h : Skov.booted s d k) (he : l.own = k.own) : Skov.booted s d l := by
  obtain ⟨h1, h2, h3, h4, h5, h6, h7⟩ := h
  have hl : { l with active := k.active, takeovers := k.takeovers, peerReady := k.peerReady, peerRecovery := k.peerRecovery } = k :=
    congrArg (fun x : Skov => { x with
      active := k.active, takeovers := k.takeovers, peerReady := k.peerReady, peerRecovery := k.peerRecovery }) he
  rw [← hl] at h1 h2 h3 h4 h5 h6 h7
  exact ⟨h1, h2, h3, h4, h5, h6, h7⟩

theorem State.bootSkov_eq (s : State) (d : Bool) :
    s.bootSkov d =
      let t := if (s.floors d).good then s.bootBase d else (s.bootBase d).event 0x0F (b2n d)
      match t.fwChoice d with
      | some c => t.updSkov d fun k => { k with
          up := true, recovery := false, fwCopy := c, fwVersion := t.fwVersion d c
          fwMeas := sha512 (t.flashRead d (fwBase c) 4096), wdogMs := 100, kickTick := t.tick }
      | none => t.updSkov d fun k => { k with recovery := true } := rfl

theorem State.bootSkov_spec (s : State) (d : Bool) :
    Skov.booted s d ((s.bootSkov d).skov d) ∧ ((s.bootSkov d).skov d).active = (s.skov d).active ∧
      (s.bootSkov d).skov (!d) = s.skov (!d) ∧
      s.bootSkov d = { s with
        skovs := (s.bootSkov d).skovs, counters := (s.bootSkov d).counters, held := (s.bootSkov d).held } := by
  rw [State.bootSkov_eq]
  generalize ht : (if (s.floors d).good then s.bootBase d else (s.bootBase d).event 0x0F (b2n d)) = t
  have hframe : t = { s.bootBase d with counters := t.counters, held := t.held } := by
    rw [← ht]
    split
    · rfl
    · rw [State.event_frame]
  have hflash : (s.bootBase d).SameFlash t := by
    rw [hframe]
    exact ⟨rfl, rfl, rfl, rfl⟩
  have hbase : s.SameFlash (s.bootBase d) := ⟨rfl, rfl, rfl, rfl⟩
  have hskovs : ∀ e, t.skov e = (s.bootBase d).skov e := fun e => by
    rw [hframe]
    rfl
  have hd : t.skov d = { s.skov d with
      boots := (s.skov d).boots + 1, keys := s.pufTries d, fwFloor := (s.floors d).fw, imageFloor := (s.floors d).image
      floorUnauth := !(s.floors d).good } := by
    rw [hskovs, State.bootBase, State.skov_updSkov]
  have hother : t.skov (!d) = s.skov (!d) := by
    rw [hskovs, State.bootBase, State.skov_updSkov_not]
  have hchoice : t.fwChoice d = (s.bootBase d).fwChoice d := hflash.fwChoice d (by rw [hskovs])
  have htick : t.tick = s.tick := by
    rw [hframe]
    rfl
  have hrest : t = { s with skovs := t.skovs, counters := t.counters, held := t.held } := by
    rw [hframe]
    rfl
  dsimp only
  rw [hchoice]
  cases hc : (s.bootBase d).fwChoice d with
  | none =>
    dsimp only
    rw [State.skov_updSkov, State.skov_updSkov_not, hd, hother]
    refine ⟨⟨rfl, rfl, rfl, rfl, rfl, (fun c h => by rw [hc] at h; cases h), fun _ => ⟨rfl, rfl⟩⟩, rfl, rfl, ?_⟩
    rw [hrest]
    rfl
  | some c =>
    dsimp only
    rw [State.skov_updSkov, State.skov_updSkov_not, hd, hother, hflash.fwVersion, hbase.fwVersion, htick]
    refine ⟨⟨rfl, rfl, rfl, rfl, rfl, fun e h => ?_, fun h => by rw [hc] at h; cases h⟩, rfl, rfl, ?_⟩
    · obtain rfl : c = e := Option.some.inj (hc.symm.trans h)
      exact ⟨rfl, rfl, rfl, rfl, rfl, rfl⟩
    · rw [hrest]
      rfl

/-! ## Roles (R502, R503, R523) -/

theorem State.shareState_spec (s : State) (d : Bool) :
    (s.shareState.skov d) = { s.skov d with peerReady := (s.skov !d).up, peerRecovery := (s.skov !d).recovery } := by
  unfold State.shareState
  dsimp only
  cases d with
  | false =>
    have h := State.skov_updSkov_not (s.updSkov false fun k => { k with peerReady := (s.skov true).up, peerRecovery := (s.skov true).recovery })
      true fun k => { k with peerReady := (s.skov false).up, peerRecovery := (s.skov false).recovery }
    exact h.trans (State.skov_updSkov _ _ _)
  | true =>
    rw [State.skov_updSkov, ← Bool.not_false, State.skov_updSkov_not]
    rfl

theorem State.shareState_frame (s : State) : s.shareState = { s with skovs := s.shareState.skovs } := rfl

/-- Decisions sent: ports and the counter of those discarded alone change (R504, R465). -/
theorem State.deliverTo_frame (s : State) (r : Request) (bs : List Byte) :
    s.deliverTo r bs = { s with ports := (s.deliverTo r bs).ports, counters := (s.deliverTo r bs).counters } ∧
      ∀ p, (s.port p).Transmits ((s.deliverTo r bs).port p) := by
  unfold State.deliverTo
  split
  · exact ⟨rfl, fun p => .refl _⟩
  · obtain ⟨-, hframe, htr, -⟩ := s.send_spec r.port ⟨0x14, r.tag, 0, bs⟩
    exact ⟨hframe, htr⟩

theorem State.deliverAll_frame (l : List (Request × List Byte)) : ∀ s : State,
    let t := l.foldl (fun (s : State) x => s.deliverTo x.1 x.2) s
    t = { s with ports := t.ports, counters := t.counters } ∧ ∀ p, (s.port p).Transmits (t.port p) := by
  induction l with
  | nil => exact fun s => ⟨rfl, fun p => .refl _⟩
  | cons x l ih =>
    intro s
    obtain ⟨hframe, htr⟩ := s.deliverTo_frame x.1 x.2
    obtain ⟨gframe, gtr⟩ := ih (s.deliverTo x.1 x.2)
    refine ⟨?_, fun p => (htr p).trans (gtr p)⟩
    rw [List.foldl_cons, gframe, hframe]

/-- The Skovlaper that is active no more, and the one that has become so. -/
def Skov.standby (k : Skov) : Skov := { k with active := false }
def Skov.takeUp (k : Skov) : Skov := { k with active := true, takeovers := min (2 ^ 32 - 1) (k.takeovers + 1) }

/-- A state in which a Skovlaper has become active, its decisions not yet sent. -/
def State.roleTaken (s : State) (d : Bool) : State := { (s.updSkov (!d) Skov.standby).updSkov d Skov.takeUp with unsent := [] }

theorem State.skov_roleTaken (s : State) (d : Bool) : (s.roleTaken d).skov d = (s.skov d).takeUp := by
  have h := State.skov_updSkov_not s (!d) Skov.standby
  rw [Bool.not_not] at h
  rw [← h]
  exact State.skov_updSkov _ d Skov.takeUp

theorem State.skov_roleTaken_not (s : State) (d : Bool) : (s.roleTaken d).skov (!d) = (s.skov !d).standby :=
  (State.skov_updSkov_not _ d Skov.takeUp).trans (State.skov_updSkov s (!d) Skov.standby)

theorem State.activeD_roleTaken (s : State) (d : Bool) : (s.roleTaken d).activeD = d := by
  have h1 := congrArg Skov.active (s.skov_roleTaken d)
  have h2 := congrArg Skov.active (s.skov_roleTaken_not d)
  cases d with
  | false => simp only [Bool.not_false] at h2; simp [State.activeD, h2, Skov.standby]
  | true => simp only [Bool.not_true] at h2; simp [State.activeD, h1, h2, Skov.takeUp, Skov.standby]

theorem State.takeOver_eq (s : State) (d : Bool) (cause : Nat) :
    s.takeOver d cause = (s.unsent.foldl (fun (s : State) x => s.deliverTo x.1 x.2) (s.roleTaken d)).event 0x03 (b2n d + cause * 2 ^ 8) := rfl

/-- What a takeover leaves. -/
theorem State.takeOver_frame (s : State) (d : Bool) (cause : Nat) :
    s.takeOver d cause = { s.roleTaken d with
      ports := (s.takeOver d cause).ports, counters := (s.takeOver d cause).counters, held := (s.takeOver d cause).held } := by
  obtain ⟨hframe, -⟩ := State.deliverAll_frame s.unsent (s.roleTaken d)
  rw [State.takeOver_eq, State.event_frame, hframe]

theorem State.takeOver_skov (s : State) (d e : Bool) (cause : Nat) : (s.takeOver d cause).skov e = (s.roleTaken d).skov e := by
  rw [State.takeOver_frame]
  rfl

theorem State.takeOver_activeD (s : State) (d : Bool) (cause : Nat) : (s.takeOver d cause).activeD = d := by
  rw [State.activeD, State.takeOver_skov, State.takeOver_skov]
  exact s.activeD_roleTaken d

/-- Until both have booted, and after power-on, the roles stand. -/
theorem State.settleRoles_kept {s : State} (h : s.func.state ≠ 0 ∨ ∃ d, (s.skov d).decided = false) : s.settleRoles = s := by
  unfold State.settleRoles
  refine if_pos ?_
  obtain h | ⟨d, hd⟩ := h
  · simp [h]
  · cases d <;> simp [hd]

/-- The state once the roles stand at power-on: one that runs is active. -/
def State.rolesSet (s : State) : State :=
  if (s.shareState.skov s.shareState.activeD).up then s.shareState else s.shareState.takeOver (!s.shareState.activeD) 2

theorem State.up_shareState (s : State) (d : Bool) : (s.shareState.skov d).up = (s.skov d).up := by rw [State.shareState_spec]

theorem State.settleRoles_eq {s : State} (h0 : s.func.state = 0) (hd : ∀ d, (s.skov d).decided = true) {d : Bool}
    (hu : (s.skov d).up = true) : s.settleRoles = (s.rolesSet.setFunc 1).tryIdle 1 := by
  have hb : (s.shareState.skov d).up = true := by rw [State.up_shareState, hu]
  unfold State.settleRoles
  rw [if_neg (by simp [h0, hd])]
  dsimp only
  rw [if_neg (by cases d <;> simp [hb])]
  rfl

theorem State.rolesSet_spec {s : State} {d : Bool} (hu : (s.skov d).up = true) :
    (∀ e, (s.rolesSet.skov e).own = (s.skov e).own) ∧ (s.rolesSet.skov s.rolesSet.activeD).up = true := by
  have hshare : ∀ e, (s.shareState.skov e).own = (s.skov e).own := fun e => by
    rw [State.shareState_spec]
    rfl
  have hup := s.up_shareState
  unfold State.rolesSet
  generalize s.shareState = u at hshare hup ⊢
  split
  · next h => exact ⟨hshare, h⟩
  · next h =>
    have hrole : ∀ e, ((u.takeOver (!u.activeD) 2).skov e).own = (u.skov e).own := fun e => by
      rw [State.takeOver_skov]
      obtain rfl | rfl : e = (!u.activeD) ∨ e = !(!u.activeD) := by cases e <;> cases u.activeD <;> simp
      · rw [State.skov_roleTaken]
        rfl
      · rw [State.skov_roleTaken_not]
        rfl
    refine ⟨fun e => (hrole e).trans (hshare e), ?_⟩
    have hother : (u.skov (!u.activeD)).up = true := by
      rw [hup]
      obtain rfl : d = !u.activeD := Bool.eq_not.mpr fun hd => h (by rw [hup, ← hd, hu])
      exact hu
    rw [State.takeOver_activeD]
    exact ((congrArg Skov.up (hrole _) :) : _ = (u.skov _).up).trans hother

/-- Standby and start-up keep the Skovlapers, and the module has left its first state. -/
theorem State.tryIdle_skovs (s : State) (cause : Nat) (h1 : 1 ≤ s.func.state) :
    (∀ d, (s.tryIdle cause).skov d = s.skov d) ∧ 1 ≤ (s.tryIdle cause).func.state := by
  by_cases hm : s.mayIdle
  · obtain ⟨hst, ⟨hend, -⟩, -⟩ := State.tryIdle_starts hm cause
    refine ⟨fun d => ?_, ?_⟩
    · have hskovs : (s.tryIdle cause).skovs = s.skovs := (congrArg State.skovs hst.rest :)
      rw [State.skov, State.skov, hskovs]
    · omega
  · rw [State.tryIdle_not hm]
    exact ⟨fun _ => rfl, h1⟩

/-- The settling of the roles at power-on: who runs is active, and the module leaves its first state. -/
theorem State.settleRoles_spec {s : State} (h0 : s.func.state = 0) (hd : ∀ d, (s.skov d).decided = true) {d : Bool}
    (hu : (s.skov d).up = true) :
    (∀ e, (s.settleRoles.skov e).own = (s.skov e).own) ∧ (s.settleRoles.skov s.settleRoles.activeD).up = true ∧
      1 ≤ s.settleRoles.func.state := by
  rw [State.settleRoles_eq h0 hd hu]
  obtain ⟨hown, hactive⟩ := State.rolesSet_spec hu
  generalize s.rolesSet = u at hown hactive ⊢
  have hset : ∀ e, (u.setFunc 1).skov e = u.skov e := fun e => by
    rw [State.setFunc_frame]
    rfl
  obtain ⟨hskov, hstate⟩ := (u.setFunc 1).tryIdle_skovs 1 (by rw [(u.setFunc_starts 1).2])
  have hkept : ∀ e, ((u.setFunc 1).tryIdle 1).skov e = u.skov e := fun e => (hskov e).trans (hset e)
  refine ⟨fun e => by rw [hkept, hown], ?_, hstate⟩
  rw [State.activeD, hkept, hkept, hkept]
  exact hactive

theorem State.settleRoles_own (s : State) (e : Bool) : (s.settleRoles.skov e).own = (s.skov e).own := by
  by_cases h : s.func.state ≠ 0 ∨ ∃ d, (s.skov d).decided = false
  · rw [State.settleRoles_kept h]
  · have h0 : s.func.state = 0 := by
      by_contra hne
      exact h (.inl hne)
    have hd : ∀ d, (s.skov d).decided = true := fun d => by
      by_contra hne
      exact h (.inr ⟨d, by simpa using hne⟩)
    by_cases hu : ∃ d, (s.skov d).up = true
    · obtain ⟨d, hu⟩ := hu
      exact (State.settleRoles_spec h0 hd hu).1 e
    · have hdown : ∀ d, (s.shareState.skov d).up = false := fun d => by
        rw [State.up_shareState]
        by_contra hne
        exact hu ⟨d, by simpa using hne⟩
      have hs : s.settleRoles = s.shareState := by
        unfold State.settleRoles
        rw [if_neg (by simp [h0, hd])]
        dsimp only
        rw [if_pos (by simp [hdown])]
      rw [hs, State.shareState_spec]
      rfl

/-! ## Commands of one Skovlaper -/

section Boot

variable {s : State} {d : Bool}

theorem State.skovBoot_refused
    (h : ¬(s.power.standby = true ∧ (s.skov d).decided = false ∧ (s.func.state = 0 ∨ (s.skov !d).up = false))) : s.skovBoot d = s := by
  unfold State.skovBoot
  refine if_pos ?_
  by_contra hc
  exact h (by simpa [and_assoc, Decidable.or_iff_not_imp_left] using hc)

theorem State.skovBoot_eq (h : s.power.standby = true ∧ (s.skov d).decided = false ∧ (s.func.state = 0 ∨ (s.skov !d).up = false)) :
    s.skovBoot d = (s.bootSkov d).settleRoles := by
  unfold State.skovBoot
  obtain ⟨h1, h2, h3⟩ := h
  exact if_neg (by simpa [h1, h2, Decidable.or_iff_not_imp_left] using h3)

theorem State.skovBoot_spec (h : s.power.standby = true ∧ (s.skov d).decided = false ∧ (s.func.state = 0 ∨ (s.skov !d).up = false)) :
    let t := s.skovBoot d
    Skov.booted s d (t.skov d) ∧ (t.skov !d).up = (s.skov !d).up ∧ (t.skov !d).boots = (s.skov !d).boots ∧
      (s.func.state ≠ 0 ∨ (s.skov !d).decided = false →
        t.skov (!d) = s.skov (!d) ∧ t = { s with skovs := t.skovs, counters := t.counters, held := t.held }) ∧
      (s.func.state = 0 → (s.skov !d).decided = true → (t.skov d).up = true ∨ (s.skov !d).up = true →
        1 ≤ t.func.state ∧ (t.skov t.activeD).up = true) := by
  intro t
  obtain ⟨hboot, -, hother, hframe⟩ := s.bootSkov_spec d
  have ht : t = (s.bootSkov d).settleRoles := State.skovBoot_eq h
  clear_value t
  subst ht
  generalize s.bootSkov d = u at hboot hother hframe ⊢
  have hfunc : u.func = s.func := by rw [hframe]
  have hown := u.settleRoles_own
  have hup : ∀ e, (u.settleRoles.skov e).up = (u.skov e).up := fun e => (congrArg Skov.up (hown e) :)
  refine ⟨hboot.of (hown d), ?_, ?_, fun hk => ?_, fun h0 hdec hany => ?_⟩
  · rw [hup, hother]
  · rw [← hother]
    exact (congrArg Skov.boots (hown _) :)
  · rw [State.settleRoles_kept (hk.imp (by rw [hfunc]; exact id) fun hx => ⟨!d, by rw [hother]; exact hx⟩)]
    exact ⟨hother, hframe⟩
  · have hall : ∀ e, (u.skov e).decided = true := fun e => by
      obtain rfl | rfl : e = d ∨ e = !d := by cases e <;> cases d <;> simp
      · exact hboot.decided
      · rw [hother]
        exact hdec
    have hrun : ∃ e, (u.skov e).up = true := hany.elim (fun hx => ⟨d, by rw [← hup]; exact hx⟩) fun hx => ⟨!d, by rw [hother]; exact hx⟩
    obtain ⟨e, he⟩ := hrun
    obtain ⟨-, hactive, hstate⟩ := State.settleRoles_spec (by rw [hfunc]; exact h0) hall he
    exact ⟨hstate, hactive⟩

theorem State.skovRejoin_refused (h : ¬(s.power.standby = true ∧ (s.skov d).decided = false ∧ (s.skov d).active = false ∧
    s.func.state ≠ 0 ∧ (s.skov !d).up = true)) : s.skovRejoin d = s := by
  unfold State.skovRejoin
  refine if_pos ?_
  by_contra hc
  exact h (by simpa [and_assoc] using hc)

/-- A Skovlaper that boots beside the active. -/
theorem State.skovRejoin_spec (h : s.power.standby = true ∧ (s.skov d).decided = false ∧ (s.skov d).active = false ∧
    s.func.state ≠ 0 ∧ (s.skov !d).up = true) :
    let t := s.skovRejoin d
    Skov.booted s d (t.skov d) ∧ (t.skov d).active = false ∧ (t.skov d).peerReady = true ∧
      (t.skov !d).peerReady = (t.skov d).up ∧ (t.skov !d).active = (s.skov !d).active ∧
      t = { s with skovs := t.skovs, counters := t.counters, held := t.held } := by
  intro t
  obtain ⟨hs, hd, hact, hf, hu⟩ := h
  obtain ⟨hboot, hactive, hother, hframe⟩ := s.bootSkov_spec d
  obtain ⟨e, he, hcore⟩ : ∃ u : State, u = (s.bootSkov d).shareState ∧ t = if (u.skov d).up then u.event 0x12 (b2n d) else u := by
    refine ⟨_, rfl, ?_⟩
    exact if_neg (by simp [hs, hd, hact, hf, hu])
  clear_value t
  generalize s.bootSkov d = b at hboot hactive hother hframe he
  have hskov : ∀ x, t.skov x = e.skov x := fun x => by
    rw [hcore]
    split
    · rw [State.event_frame]
      rfl
    · rfl
  have hd' := b.shareState_spec d
  have ho' := b.shareState_spec (!d)
  rw [← he, hother] at hd'
  rw [← he, hother, Bool.not_not] at ho'
  refine ⟨?_, ?_, ?_, ?_, ?_, ?_⟩
  · rw [hskov, hd']
    exact hboot.of (k := b.skov d) rfl
  · rw [hskov, hd', ← hact, ← hactive]
  · rw [hskov, hd']
    exact hu
  · rw [hskov, hskov, hd', ho']
  · rw [hskov, ho']
  · have hframe' : e = { s with skovs := e.skovs, counters := e.counters, held := e.held } := by
      rw [he, State.shareState_frame, hframe]
    rw [hcore]
    split
    · rw [State.event_frame, hframe']
    · exact hframe'

end Boot

/-! ## Records handed over (R498) -/

theorem replaceFirst_split {α : Type} (p : α → Bool) (f : α → α) {l : List α} (h : l.any p = true) :
    ∃ a x b, l = a ++ x :: b ∧ (∀ y ∈ a, p y = false) ∧ p x = true ∧ replaceFirst p f l = a ++ f x :: b := by
  induction l with
  | nil => cases h
  | cons x l ih =>
    cases hx : p x with
    | true => exact ⟨[], x, l, rfl, by simp, hx, by simp [replaceFirst, hx]⟩
    | false =>
      obtain ⟨a, y, b, hl, ha, hy, hr⟩ := ih (by simpa [hx] using h)
      exact ⟨x :: a, y, b, by rw [hl]; rfl, by simpa [hx] using ha, hy, by simp [replaceFirst, hx, hr]⟩

/-- A record handed over is merged, held, or dropped. -/
theorem State.log_logs (s : State) (r : Record) : s.Logs (s.log r) r := by
  unfold State.log
  refine ⟨fun hs => by rw [hs]; rfl, fun hs => ?_⟩
  rw [if_neg (by simp [hs])]
  split
  · next hany =>
    obtain ⟨a, x, b, hl, ha, hx, hr⟩ := replaceFirst_split (fun h : Nat × Record => h.2.merges r)
      (fun h => (h.1, { h.2 with count := h.2.count + 1 })) hany
    exact .inl ⟨a, x, b, hl, ha, hx, hr⟩
  · next hany =>
    have hnone : ∀ y ∈ s.held, y.2.merges r = false := fun y hy => by
      by_contra hne
      exact hany (List.any_eq_true.mpr ⟨y, hy, by simpa using hne⟩)
    split
    · next hroom => exact .inr (.inl ⟨hnone, hroom, rfl⟩)
    · next hroom => exact .inr (.inr ⟨hnone, Nat.le_of_not_lt hroom, rfl⟩)

/-- What is handed over depends on the records held, the supply and the time. -/
theorem State.Logs.congr {s u t : State} {r : Record} (h : u.Logs t r) (hp : u.power = s.power) (hh : u.held = s.held)
    (ht : u.tick = s.tick) : s.Logs t r := by
  rw [State.Logs, hp, hh, ht] at h
  exact h

/-! ## Resets and takeovers (R503 to R506) -/

/-- A Skovlaper as its reset leaves it (R13). -/
def Skov.wasReset (k : Skov) : Skov := { k with up := false, peerReady := false, peerRecovery := false, wdogMs := 100 }

/-- The two Skovlapers after a reset of one. -/
def State.resetBoth (s : State) (d : Bool) : State := (s.updSkov d Skov.wasReset).updSkov (!d) fun k => { k with peerReady := false }

theorem State.skov_resetBoth (s : State) (d : Bool) : (s.resetBoth d).skov d = (s.skov d).wasReset := by
  have h := State.skov_updSkov_not (s.updSkov d Skov.wasReset) (!d) fun k => { k with peerReady := false }
  rw [Bool.not_not] at h
  exact h.trans (State.skov_updSkov s d Skov.wasReset)

theorem State.skov_resetBoth_not (s : State) (d : Bool) : (s.resetBoth d).skov (!d) = { s.skov (!d) with peerReady := false } := by
  rw [State.resetBoth, State.skov_updSkov, State.skov_updSkov_not]

theorem State.resetSkov_eq (s : State) (d : Bool) :
    s.resetSkov d = if (s.skov !d).up then s.resetBoth d else
      { s.resetBoth d with
        session := none, requests := [], unsent := [], held := [], smbus := [],
        sensorValue := [], sensorLevel := [], sensorValid := [], sensorSince := [] } := by
  have hup : ((s.resetBoth d).skov !d).up = (s.skov !d).up := by rw [State.skov_resetBoth_not]
  rw [← hup]
  rfl

/-- HEARTBEAT_LOSS: the standby takes over. -/
theorem State.heartbeatLoss_eq {s : State} {watchdog : Bool} (hu : (s.skov !s.activeD).up = true) (hs : s.power.standby = true)
    (hw : watchdog = true → (s.skov s.activeD).up = false) :
    s.heartbeatLoss watchdog = ({ s.resetBoth s.activeD with session := none } : State).takeOver (!s.activeD) (b2n watchdog) := by
  have hw' : (watchdog && (s.skov s.activeD).up) = false := by
    cases watchdog with
    | false => rfl
    | true => rw [hw rfl]; rfl
  unfold State.heartbeatLoss
  dsimp only
  rw [if_neg (by simp [hs, hu, hw']), State.resetSkov_eq, if_pos hu]

theorem State.heartbeatLoss_refused {s : State} {watchdog : Bool}
    (h : ¬(s.power.standby = true ∧ (s.skov !s.activeD).up = true ∧ (watchdog = true → (s.skov s.activeD).up = false))) :
    s.heartbeatLoss watchdog = s := by
  unfold State.heartbeatLoss
  refine if_pos ?_
  by_contra hc
  exact h (by simpa [and_assoc] using hc)

theorem State.heartbeatLoss_spec {s : State} {watchdog : Bool}
    (h : s.power.standby = true ∧ (s.skov !s.activeD).up = true ∧ (watchdog = true → (s.skov s.activeD).up = false)) :
    let old := s.activeD
    let t := s.heartbeatLoss watchdog
    t.session = none ∧
      t.skov old = { s.skov old with up := false, peerReady := false, peerRecovery := false, wdogMs := 100, active := false } ∧
      t.skov (!old) = { s.skov (!old) with
        peerReady := false, active := true, takeovers := min (2 ^ 32 - 1) ((s.skov !old).takeovers + 1) } ∧
      (s.unsent = [] → t.ports = s.ports) ∧ t.unsent = [] ∧ (∀ p, (s.port p).Transmits (t.port p)) ∧
      (∀ r bs, s.unsent = [(r, bs)] → r.departed = false → s.Sends t r.port ⟨0x14, r.tag, 0, bs⟩) ∧
      s.Logs t { errorRecord 0x0D 0 13 0 0xFFFF s.tick with
        kind := 0x41, die := if !old then 11 else 9, detail0 := 0x03, detail1 := b2n (!old) + 2 ^ 8 * b2n watchdog } ∧
      t = { s with
        skovs := t.skovs, session := none, counters := t.counters, held := t.held, ports := t.ports, unsent := t.unsent } := by
  intro old t
  obtain ⟨hs, hu, hw⟩ := h
  have ht : t = ({ s.resetBoth old with session := none } : State).takeOver (!old) (b2n watchdog) := State.heartbeatLoss_eq hu hs hw
  clear_value t old
  have hold := s.skov_resetBoth old
  have hnew := s.skov_resetBoth_not old
  have hreset : s.resetBoth old = { s with skovs := (s.resetBoth old).skovs } := rfl
  generalize s.resetBoth old = b at hold hnew hreset ht
  have hframe := State.takeOver_frame ({ b with session := none } : State) (!old) (b2n watchdog)
  have heq := State.takeOver_eq ({ b with session := none } : State) (!old) (b2n watchdog)
  have hskov := fun e => State.takeOver_skov ({ b with session := none } : State) (!old) e (b2n watchdog)
  rw [← ht] at hframe heq hskov
  have hnewt := State.skov_roleTaken ({ b with session := none } : State) (!old)
  have holdt := State.skov_roleTaken_not ({ b with session := none } : State) (!old)
  have hactive := State.activeD_roleTaken ({ b with session := none } : State) (!old)
  have hrole : State.roleTaken ({ b with session := none } : State) (!old) =
      { b with session := none, unsent := [], skovs := (State.roleTaken ({ b with session := none } : State) (!old)).skovs } := rfl
  rw [Bool.not_not] at holdt
  generalize State.roleTaken ({ b with session := none } : State) (!old) = w at hframe heq hskov hnewt holdt hactive hrole
  have hunsent : b.unsent = s.unsent := by rw [hreset]
  have hports : w.ports = s.ports := by rw [hrole, hreset]
  have hport : ∀ p, w.port p = s.port p := fun p => by rw [State.port, State.port, hports]
  obtain ⟨dframe, dtr⟩ := State.deliverAll_frame s.unsent w
  have heq : t = (s.unsent.foldl (fun (s : State) x => s.deliverTo x.1 x.2) w).event 0x03 (b2n (!old) + b2n watchdog * 2 ^ 8) := by
    rw [heq]
    exact congrArg (fun l : List (Request × List Byte) =>
      (l.foldl (fun (s : State) x => s.deliverTo x.1 x.2) w).event 0x03 (b2n (!old) + b2n watchdog * 2 ^ 8)) hunsent
  have tports : t.ports = (s.unsent.foldl (fun (s : State) x => s.deliverTo x.1 x.2) w).ports := by
    rw [heq, State.event_frame]
  have tport : ∀ p, t.port p = (s.unsent.foldl (fun (s : State) x => s.deliverTo x.1 x.2) w).port p := fun p =>
    congrArg (fun v : Vector Port 2 => v[p]) tports
  refine ⟨?_, ?_, ?_, fun h0 => ?_, ?_, fun p => ?_, fun r bs h1 hr => ?_, ?_, ?_⟩
  · rw [hframe, hrole]
  · rw [hskov, holdt]
    exact congrArg Skov.standby hold
  · rw [hskov, hnewt]
    exact congrArg Skov.takeUp hnew
  · rw [tports, h0]
    exact hports
  · rw [hframe, hrole]
  · rw [tport, ← hport]
    exact dtr p
  · have hsend := (w.send_spec r.port ⟨0x14, r.tag, 0, bs⟩).1
    have hone : s.unsent.foldl (fun (s : State) x => s.deliverTo x.1 x.2) w = w.send r.port ⟨0x14, r.tag, 0, bs⟩ := by
      rw [h1, List.foldl_cons, List.foldl_nil, State.deliverTo, hr]
      rfl
    rw [State.Sends, tport, ← hport, hone]
    exact hsend
  · rw [heq]
    generalize hv : s.unsent.foldl (fun (s : State) x => s.deliverTo x.1 x.2) w = v at dframe
    have hva : v.activeD = !old := by
      rw [dframe]
      exact hactive
    have hvt : v.tick = s.tick := by rw [dframe, hrole, hreset]
    have hlog := State.Logs.congr (s := s) (v.log_logs _) (by rw [dframe, hrole, hreset]) (by rw [dframe, hrole, hreset]) hvt
      (r := { errorRecord 0x0D 0 13 0 0xFFFF v.tick with
        kind := 0x41, die := if v.activeD then 11 else 9, detail0 := 0x03, detail1 := b2n (!old) + b2n watchdog * 2 ^ 8 })
    rw [hva, hvt, Nat.mul_comm (b2n watchdog)] at hlog
    rw [State.event, hva, hvt, Nat.mul_comm (b2n watchdog)]
    exact hlog
  · rw [hframe, hrole, hreset]

/-! ## Watchdogs (R505) -/

/-- A window that has passed without a kick. -/
def State.wdogDue (s : State) (d : Bool) : Prop := (s.skov d).up = true ∧ (s.skov d).kickTick + max 1 (s.skov d).wdogMs * 50000 ≤ s.tick

theorem State.watchdogExpiry_refused {s : State} {d : Bool} (h : ¬s.wdogDue d) : s.watchdogExpiry d = s := by
  unfold State.watchdogExpiry
  refine if_pos ?_
  cases hu : (s.skov d).up with
  | false => rfl
  | true =>
    have ht : s.tick < (s.skov d).kickTick + (s.skov d).window := Nat.lt_of_not_le fun hle => h ⟨hu, hle⟩
    simp [ht]

/-- The expiry counted. -/
def Skov.expired (k : Skov) : Skov := { k with expiries := min (2 ^ 32 - 1) (k.expiries + 1) }

theorem State.watchdogExpiry_eq {s : State} {d : Bool} (h : s.wdogDue d) :
    s.watchdogExpiry d = ((s.updSkov d Skov.expired).resetSkov d).event 0x10 (b2n d) := by
  obtain ⟨hu, ht⟩ := h
  have ht : ¬s.tick < (s.skov d).kickTick + (s.skov d).window := Nat.not_lt.mpr ht
  unfold State.watchdogExpiry
  exact if_neg (by simp [hu, ht])

theorem State.watchdogExpiry_spec {s : State} {d : Bool} (h : s.wdogDue d) :
    let k := s.skov d
    let t := s.watchdogExpiry d
    t.skov d = { k with
        expiries := min (2 ^ 32 - 1) (k.expiries + 1), up := false, peerReady := false, peerRecovery := false, wdogMs := 100 } ∧
      t.skov (!d) = { s.skov (!d) with peerReady := false } ∧
      ((s.skov !d).up = true → t = { s with skovs := t.skovs, counters := t.counters, held := t.held }) ∧
      ((s.skov !d).up = false → t = { s with
        skovs := t.skovs, counters := t.counters, held := t.held, session := none, requests := [], unsent := [], smbus := []
        sensorValue := [], sensorLevel := [], sensorValid := [], sensorSince := [] }) := by
  intro k t
  have ht : t = ((s.updSkov d Skov.expired).resetSkov d).event 0x10 (b2n d) := State.watchdogExpiry_eq h
  clear_value t
  have hk := State.skov_resetBoth (s.updSkov d Skov.expired) d
  have hother := State.skov_resetBoth_not (s.updSkov d Skov.expired) d
  have hframe : (s.updSkov d Skov.expired).resetBoth d = { s with skovs := ((s.updSkov d Skov.expired).resetBoth d).skovs } := rfl
  rw [State.skov_updSkov] at hk
  rw [State.skov_updSkov_not] at hother
  rw [State.resetSkov_eq, State.skov_updSkov_not] at ht
  generalize (s.updSkov d Skov.expired).resetBoth d = b at hk hother hframe ht
  have hskov : ∀ e, t.skov e = b.skov e := fun e => by
    rw [ht, State.event_frame]
    split <;> rfl
  refine ⟨(hskov d).trans hk, (hskov !d).trans hother, fun hu => ?_, fun hu => ?_⟩
  · rw [ht, if_pos hu, State.event_frame, hframe]
  · rw [ht, if_neg (by simp [hu]), State.event_frame, hframe]

theorem State.updSkov_updSkov (s : State) (d : Bool) (f g : Skov → Skov) :
    (s.updSkov d f).updSkov d g = s.updSkov d fun k => g (f k) := by
  simp [State.updSkov]

/-- A Skovlaper's own write of SKOV_WDOG, whole and refused. -/
theorem State.ownWdog_word {s : State} {d : Bool} {data : List Byte} (hu : (s.skov d).up = true) (hlen : data.length = 8) :
    s.ownWdog d data = s.updSkov d fun k => { k with
      wdogMs := leAt data 0 8 % 65536, expiries := leAt data 0 8 / 2 ^ 32
      kickTick := if bitAt (leAt data 0 8) 16 then s.tick else k.kickTick, status := 0 } := by
  have hlt := leAt_lt data 0 8
  have hfld : fld (leAt data 0 8) 63 32 = leAt data 0 8 / 2 ^ 32 := by
    rw [fld_eq]
    omega
  unfold State.ownWdog
  dsimp only
  rw [if_neg (by simp [hu]), if_neg (by simp [hlen]), hfld]
  exact State.updSkov_updSkov s d _ fun k => { k with status := 0 }

theorem State.ownWdog_short {s : State} {d : Bool} {data : List Byte} (hu : (s.skov d).up = true) (hlen : data.length ≠ 8) :
    s.ownWdog d data = s.updSkov d fun k => { k with status := 1 } := by
  unfold State.ownWdog
  dsimp only
  rw [if_neg (by simp [hu]), if_pos (by simp [hlen])]
  rfl

theorem State.ownWdog_down {s : State} {d : Bool} (data : List Byte) (hu : (s.skov d).up = false) : s.ownWdog d data = s := by
  unfold State.ownWdog
  dsimp only
  rw [if_pos (by simp [hu])]

theorem skovReg_inj {d e : Bool} (h : skovReg d 8 = skovReg e 8) : d = e := by
  revert h
  cases d <;> cases e <;> decide

theorem State.windowWrite_own {s : State} {d : Bool} {a off : Nat} {p : PierId} {ok : Window → Nat → Bool} (data : List Byte)
    (hp : s.place a = .control p off) (hok : ok (windowOf p off) off = true) (ha : a = skovReg d 8) :
    s.windowWrite (.skov d) a data ok = s.ownWdog d data := by
  have hself : (a == skovReg d 8) = true := by rw [ha]; exact beq_self_eq_true _
  unfold State.windowWrite State.windowAt
  rw [hp]
  dsimp only
  rw [if_neg (by simp [hok]), if_pos hself]

theorem windowOf_wdog (d : Bool) : windowOf (cornerPier (if d then 3 else 1)) 0x80_1008 = .quoin (if d then 3 else 1) :=
  windowOf_quoin _ (by decide) (by decide)

theorem isRegs_wdog (d : Bool) : isRegs (windowOf (cornerPier (if d then 3 else 1)) 0x80_1008) 0x80_1008 = true :=
  (isRegs_iff _ _).mpr (.inr ⟨_, windowOf_wdog d⟩)

theorem wdog_listed (d : Bool) : (skovReg d 8 == skovReg false 8 || skovReg d 8 == skovReg true 8) = true := by
  cases d
  · rw [beq_self_eq_true, Bool.true_or]
  · rw [beq_self_eq_true, Bool.or_true]

/-- WATCHDOG_KICK by the Skovlaper's own firmware. -/
theorem State.watchdogKick_own (s : State) (d : Bool) (data : List Byte) :
    s.watchdogKick (.skov d) (skovReg d 8) data = s.ownWdog d data := by
  unfold State.watchdogKick
  rw [if_pos (wdog_listed d)]
  exact State.windowWrite_own data (s.place_wdog d) (isRegs_wdog d) rfl

/-- By anyone else: a register write that changes no register. -/
theorem State.watchdogKick_other {s : State} {src : Source} {d : Bool} {data : List Byte} (hne : src ≠ .skov d)
    (hr : s.reachesRegs src (cornerPier (if d then 3 else 1)) 2)
    (hfit : ∀ p tag, src = .host p tag → 1 ≤ data.length ∧ data.length ≤ 248) :
    s.watchdogKick src (skovReg d 8) data =
      ((if data.length = 8 then s.hostTrip src (cornerPier (if d then 3 else 1)) else s).answerWrite src
        (if data.length = 8 then 0 else 1)).afterAccess src := by
  have hregs := isRegs_wdog d
  have hmod := State.place_mod (s.place_wdog d)
  have haccess : accessFits src (skovReg d 8) data.length := fun p tag h => by
    obtain ⟨h1, h2⟩ := hfit p tag h
    exact ⟨h1, by rw [hmod]; omega⟩
  unfold State.watchdogKick
  rw [if_pos (wdog_listed d), State.windowWrite_reaches (s.place_wdog d) hregs hr haccess
    (fun e he h => hne (by rw [he, skovReg_inj h]))]
  by_cases hlen : data.length = 8
  · rw [if_pos hlen, if_pos hlen, State.controlWrite_register hregs hr (by decide) hlen, State.regWrite_quoin_other _ _ _ (windowOf_wdog d) (by decide),
      State.updPier_id]
  · rw [if_neg hlen, if_neg hlen, State.controlWrite_register_bad hregs (.inl hlen)]

/-- A host's or mason core's write answered after its trip, if it makes one. -/
theorem State.acked_afterTrip {s : State} {src : Source} {p : PierId} {m : Nat} (hr : s.reaches src p m) (c : Prop) [Decidable c]
    (st : Nat) :
    let t := ((if c then s.hostTrip src p else s).answerWrite src st).afterAccess src
    s.Acked t src st ∧ (∀ q, { t.pier q with masons := [] } = { s.pier q with masons := [] }) ∧
      t = { s with ports := t.ports, piers := t.piers, edgeRot := t.edgeRot } := by
  intro t
  have hs : s.answerable src := State.reachesRegs.answerable (.inl hr)
  obtain ⟨u, hu, hframe⟩ : ∃ u : State, t = (u.answerWrite src st).afterAccess src ∧ u = { s with edgeRot := u.edgeRot } := by
    refine ⟨_, rfl, ?_⟩
    split
    · exact s.hostTrip_frame src p
    · rfl
  clear_value t
  have hends : s.SameEnds u := by
    rw [hframe]
    exact ⟨rfl, rfl, fun _ => rfl⟩
  obtain ⟨hack, hpier, hrest⟩ := State.answerWrite_afterAccess (hends.answerable hs) st
  rw [← hu] at hack hpier hrest
  have hskovs := (hends.acked hs hack).skovs hr
  refine ⟨hends.acked hs hack, fun q => ?_, ?_⟩
  · rw [hpier q, hframe]
    rfl
  · rw [hrest, hskovs, hframe]

/-- Settles O57: a boot takes the PUF's, the floors' and the firmware's choice and settles the roles; a takeover, a reset and a write of
SKOV_WDOG change what they name alone. -/
theorem skovlapers : Obligations.skovlapers := by
  unfold Obligations.skovlapers
  refine ⟨?boot, ?heartbeat, ?watchdog, ?elsewhere⟩
  case boot =>
    intro d s k other fl base booted first again
    have hbooted : ∀ t : State, Skov.booted s d (t.skov d) → booted t := fun t h =>
      ⟨h.boots, h.keys, h.fwFloor, h.imageFloor, h.floorUnauth, h.runs, h.recovers⟩
    refine ⟨fun h => congrArg Host.Outcome.next (State.skovBoot_refused h), fun h => ?_,
      fun h => congrArg Host.Outcome.next (State.skovRejoin_refused h), fun h => ?_⟩
    · obtain ⟨hboot, hrest⟩ := State.skovBoot_spec h
      exact ⟨_, rfl, hbooted _ hboot, hrest⟩
    · obtain ⟨hboot, hrest⟩ := State.skovRejoin_spec h
      exact ⟨_, rfl, hbooted _ hboot, hrest⟩
  case heartbeat =>
    intro watchdog s old may
    exact ⟨fun h => congrArg Host.Outcome.next (State.heartbeatLoss_refused h), fun h => ⟨_, rfl, State.heartbeatLoss_spec h⟩⟩
  case watchdog =>
    intro d s k due
    refine ⟨fun h => congrArg Host.Outcome.next (State.watchdogExpiry_refused h), fun h => ⟨_, rfl, State.watchdogExpiry_spec h⟩, ?_⟩
    intro data v st
    refine ⟨fun hu hlen => ?_, fun hu hlen => ?_, fun hu => ?_, ?_, fun src hr hfit => ?_⟩
    · exact congrArg Host.Outcome.next ((s.watchdogKick_own d data).trans (State.ownWdog_word hu hlen))
    · exact congrArg Host.Outcome.next ((s.watchdogKick_own d data).trans (State.ownWdog_short hu hlen))
    · exact congrArg Host.Outcome.next ((s.watchdogKick_own d data).trans (State.ownWdog_down data hu))
    · refine congrArg Host.Outcome.next ((State.watchdogKick_other (by simp) (.inr ⟨d, rfl⟩) (fun _ _ h => nomatch h)).trans ?_)
      have htrip : (if data.length = 8 then s.hostTrip (.skov d) (cornerPier (if !d then 3 else 1)) else s) = s := ite_self s
      rw [htrip]
      rfl
    · have hne : src ≠ .skov d := fun h => by
        rw [h] at hr
        exact hr
      refine ⟨_, congrArg Host.Outcome.next (State.watchdogKick_other hne (.inl hr) hfit), ?_⟩
      exact State.acked_afterTrip hr _ _
  case elsewhere =>
    intro src a data s hb hd
    have hnot : (a == skovReg false 8 || a == skovReg true 8) = false := by simp [hb, hd]
    exact congrArg Host.Outcome.next (if_neg (by rw [hnot]; exact Bool.false_ne_true))

end Sys2Proof.Machine
end

section
/-! SUPPORT. The loss of the main supply (R392, R465, R509, R511): what the departures of windows and hosts leave, and what a module without
power keeps (R492). -/

namespace Sys2Proof.Machine

/-! ## Work that leaves what outlasts the main supply -/

/-- Units exchanged and domains failed, which outlast the main supply (R438, R492). -/
def Pier.lasting (p : Pier) : Table × Table × Table × List Nat := (p.coreMap, p.courseMap, p.keySpare, p.failed)

/-- A state without what the departure of a CXL window may change. -/
def State.fadeRest (s : State) : State :=
  { s with
    mem := [], poison := [], piers := Vector.replicate 8 Pier.reset, quoins := Vector.replicate 4 Quoin.reset
    cxl := Vector.replicate 8 CxlPort.reset, counters := [], held := [], linkHeld := [], crossHeld := [], crossPtr := [], edgeRot := [] }

/-- Work that leaves what outlasts the main supply. -/
structure State.Fades (s t : State) : Prop where
  rest : t.fadeRest = s.fadeRest
  piers : ∀ p, (t.pier p).lasting = (s.pier p).lasting

theorem State.Fades.refl (s : State) : s.Fades s := ⟨rfl, fun _ => rfl⟩

theorem State.Fades.trans {s t u : State} (h : s.Fades t) (g : t.Fades u) : s.Fades u :=
  ⟨g.rest.trans h.rest, fun p => (g.piers p).trans (h.piers p)⟩

theorem State.Fades.of {s t : State} (hr : t.fadeRest = s.fadeRest) (hp : t.piers = s.piers) : s.Fades t :=
  ⟨hr, fun p => by rw [State.pier, State.pier, hp]⟩

theorem State.Fades.updPier (s : State) (p : PierId) (f : Pier → Pier) (hf : ∀ pr, (f pr).lasting = pr.lasting) :
    s.Fades (s.updPier p f) := by
  refine ⟨rfl, fun r => ?_⟩
  rw [State.pier_updPier_ite]
  split
  · exact hf _
  · rfl

theorem State.Fades.foldl {α : Type} (f : State → α → State) (hf : ∀ (s : State) a, s.Fades (f s a)) (l : List α) :
    ∀ s : State, s.Fades (l.foldl f s) := by
  induction l with
  | nil => exact .refl
  | cons a l ih => exact fun s => (hf s a).trans (ih _)

theorem State.Fades.log (s : State) (r : Record) : s.Fades (s.log r) := by
  rw [State.log_frame]
  exact .of rfl rfl

theorem State.Fades.bump (s : State) (reg n : Nat) : s.Fades (s.bump reg n) := .of rfl rfl

/-! ## Writes through a home pier (R378) -/

theorem Pier.lasting_channelWrite (p : Pier) (line : Nat) (data : List Byte) : (p.channelWrite line data).lasting = p.lasting := by
  rw [Pier.channelWrite_frame]
  rfl

theorem Pier.lasting_writeBack (p : Pier) (mem : List Host.Cell) (l : MortLine) : (p.writeBack mem l).lasting = p.lasting := by
  unfold Pier.writeBack
  split
  · exact p.lasting_channelWrite _ _
  · rfl

theorem Pier.lasting_touchLine (p : Pier) (mem : List Host.Cell) (line : Nat) : (p.touchLine mem line).lasting = p.lasting := by
  have hfold : ∀ (ls : List MortLine) (q : Pier), (ls.foldl (fun (q : Pier) l => q.writeBack mem l) q).lasting = q.lasting := by
    intro ls
    induction ls with
    | nil => exact fun q => rfl
    | cons l ls ih => exact fun q => (ih _).trans (q.lasting_writeBack mem l)
  unfold Pier.touchLine
  dsimp only
  split
  · rfl
  · split
    · rfl
    · exact hfold _ p

theorem Pier.lasting_channelRead (p : Pier) (line : Nat) : (p.channelRead line).lasting = p.lasting := by
  unfold Pier.channelRead
  rw [Pier.useCheck_frame]
  rfl

theorem State.Fades.readLine (s : State) (p : PierId) (line : Nat) : s.Fades (s.readLine p line) := by
  refine .updPier s p _ fun pr => ?_
  rw [Pier.lasting_touchLine]
  split
  · rfl
  · exact pr.lasting_channelRead line

theorem State.Fades.staleLine (s : State) (p : PierId) (line : Nat) : s.Fades (s.staleLine p line) := by
  unfold State.staleLine
  split
  · exact .updPier s p _ fun _ => rfl
  · exact .refl s

theorem State.Fades.dirtyLine (s : State) (p : PierId) (line : Nat) : s.Fades (s.dirtyLine p line) := by
  unfold State.dirtyLine
  exact .updPier s p _ fun pr => pr.lasting_touchLine s.mem line

theorem State.Fades.channelLine (s : State) (p : PierId) (line : Nat) (new : List Host.Cell) : s.Fades (s.channelLine p line new) := by
  unfold State.channelLine
  split
  · exact .refl s
  · exact .updPier s p _ fun pr => pr.lasting_channelWrite _ _

theorem State.Fades.cacheWrite (s : State) (via : WriteVia) (p : PierId) (line : Nat) (new : List Host.Cell) (whole : Bool) :
    s.Fades (s.cacheWrite via p line new whole) := by
  unfold State.cacheWrite
  refine (State.Fades.staleLine s p line).trans ?_
  generalize s.staleLine p line = t
  match via with
  | .mortar =>
    refine State.Fades.trans (t := if whole then t else t.readLine p line) ?_ ((State.Fades.dirtyLine _ p line).trans (.channelLine _ p line new))
    split
    · exact .refl t
    · exact .readLine t p line
  | .trowel =>
    dsimp only
    split
    · exact .dirtyLine t p line
    · exact .channelLine t p line new
  | .quoin => exact .updPier t p _ fun _ => rfl

theorem State.Fades.writeBytes (s : State) (via : WriteVia) (a : Nat) (bs : List Byte) : s.Fades (s.writeBytes via a bs) := by
  unfold State.writeBytes State.writePart
  dsimp only
  refine State.Fades.trans (.foldl _ (fun t l => ?_) (linesOf a bs.length) s) (.of rfl rfl)
  split
  · exact .cacheWrite t via _ l _ _
  · exact .refl t

theorem State.Fades.putHome (s : State) (p : PierId) (via : WriteVia) (a : Nat) (bs : List Byte) : s.Fades (s.putHome p via a bs) := by
  unfold State.putHome
  split
  · exact .writeBytes s via a bs
  · refine .foldl _ (fun t i => ?_) _ s
    split
    · exact .writeBytes t via _ _
    · exact .refl t

/-! ## Keystone operations on their way -/

theorem State.Fades.wakePier (s : State) (p : PierId) : s.Fades (s.wakePier p) := by
  cases hd : s.deadPier p with
  | true =>
    rw [State.wakePier_dead hd]
    exact .refl s
  | false =>
    obtain ⟨-, hbut, hother, -, -, hframe⟩ := State.wakePier_woken hd
    refine ⟨by rw [hframe]; rfl, fun r => ?_⟩
    by_cases hr : r = p
    · rw [hr]
      exact (congrArg Pier.lasting hbut :)
    · rw [hother r hr]

theorem State.Fades.keyArrive (s : State) (p : PierId) (op : KeyOp) : s.Fades (s.keyArrive p op) :=
  (State.Fades.wakePier s p).trans (.updPier _ p _ fun _ => rfl)

theorem State.Fades.keyTravel (path : List (Nat × Nat)) (d : PierId) (op : KeyOp) :
    ∀ (last : Nat) (s : State), s.Fades (State.keyTravel path last d op s) := by
  induction path with
  | nil => exact fun last s => .keyArrive s d _
  | cons edge rest ih =>
    intro last s
    have hturn : s.Fades (s.turnEdge edge.1 edge.2 1) := .of rfl rfl
    unfold State.keyTravel
    dsimp only [State.rotateEdge]
    split
    · exact hturn.trans (.of rfl rfl)
    · exact hturn.trans (ih _ _)

theorem State.Fades.sendKey (s : State) (src : KeyFrom) (key kind operand : Nat) (answer : TasAnswer) :
    s.Fades (s.sendKey src key kind operand answer) := by
  unfold State.sendKey
  dsimp only
  split
  · split
    · exact .keyArrive s _ _
    · exact .keyTravel _ _ _ 0 s
  · exact .keyTravel _ _ _ 0 s

/-! ## A window gone (R350, R392) -/

theorem State.Fades.shardDone (s : State) (p : PierId) (x : DeferEntry) : s.Fades (s.shardDone p x) := by
  unfold State.shardDone
  split
  · next y _ =>
    have hput : s.Fades (s.putRuntime p { y with shard := y.shard + 1 }) := .putHome s p _ _ _
    dsimp only
    split
    · exact hput.trans (.sendKey _ _ _ _ _ _)
    · exact hput
  · exact .refl s

theorem State.Fades.dropEntry (s : State) (q : QuoinId) (gone : Bool) (x : DeferEntry) : s.Fades (s.dropEntry q gone x) := by
  unfold State.dropEntry
  extract_lets p e r u
  have hu : s.Fades u := (State.Fades.bump s _ 1).trans (.log _ _)
  clear_value u
  split
  · exact hu.trans (.shardDone u p x)
  · exact hu

theorem State.Fades.dropAll (q : QuoinId) (xs : List DeferEntry) : ∀ (gone : Bool) (s : State), s.Fades (s.dropAll q gone xs) := by
  induction xs with
  | nil => exact fun _ s => .refl s
  | cons x xs ih => exact fun gone s => (State.Fades.dropEntry s q _ x).trans (ih _ _)

theorem State.Fades.dropEntries (s : State) (q : QuoinId) (port : Nat) : s.Fades (s.dropEntries q port) := by
  unfold State.dropEntries
  dsimp only
  refine State.Fades.trans ?_ (.dropAll q _ _ _)
  exact .of rfl rfl

theorem State.Fades.drainAbandon (s : State) (p : PierId) : s.Fades (s.drainAbandon p) := by
  unfold State.drainAbandon
  dsimp only
  exact State.Fades.trans (.updPier s p (fun pr => { pr with ckpt := none, ckptPhase := 0, ckptDrainOk := false }) fun _ => rfl)
    ((State.Fades.bump _ _ 1).trans (.log _ _))

theorem State.Fades.dropWindow (s : State) (q : Fin 8) : s.Fades (s.dropWindow q) := by
  unfold State.dropWindow
  exact .updPier s _ _ fun _ => rfl

theorem State.Fades.cxlGone (s : State) (q : Fin 8) : s.Fades (s.cxlGone q true) := by
  unfold State.cxlGone
  refine State.Fades.trans ?_ (.log _ _)
  exact .of rfl rfl

theorem State.Fades.cxlSurprise (s : State) (q : Fin 8) : s.Fades (s.cxlSurprise q) := by
  unfold State.cxlSurprise
  split
  · exact .refl s
  · extract_lets dirty back s1 s2 drains s3
    have h2 : s.Fades s2 := .of rfl rfl
    clear_value s2
    have h3 : s2.Fades s3 := by
      refine State.Fades.trans (t := s2.dropWindow q) ?_ (State.Fades.trans (t := (s2.dropWindow q).cxlGone q true) ?_ (.dropEntries _ _ _))
      · exact .dropWindow s2 q
      · exact .cxlGone _ q
    exact h2.trans (h3.trans (.foldl _ .drainAbandon drains s3))

/-! ## Hosts gone (R465) -/

/-- A state without what the loss of a port's power may change as well. -/
def State.lostRest (s : State) : State :=
  { s.fadeRest with
    ports := Vector.replicate 2 Port.reset, queues := [], waitingSubs := [], requests := [], session := none, admits := [] }

/-- Work at the loss of the main supply. -/
structure State.Loses (s t : State) : Prop where
  rest : t.lostRest = s.lostRest
  piers : ∀ p, (t.pier p).lasting = (s.pier p).lasting

theorem State.Loses.refl (s : State) : s.Loses s := ⟨rfl, fun _ => rfl⟩

theorem State.Loses.trans {s t u : State} (h : s.Loses t) (g : t.Loses u) : s.Loses u :=
  ⟨g.rest.trans h.rest, fun p => (g.piers p).trans (h.piers p)⟩

theorem State.Fades.loses {s t : State} (h : s.Fades t) : s.Loses t :=
  ⟨congrArg (fun x : State => { x with
    ports := Vector.replicate 2 Port.reset, queues := [], waitingSubs := [], requests := [], session := none, admits := [] }) h.rest, h.piers⟩

theorem State.Fades.leaveKeys (s : State) (p : PortId) : s.Fades (s.leaveKeys p) := by
  unfold State.leaveKeys
  refine State.Fades.trans ?_ (.foldl _ (fun t q => ?_) _ _)
  · exact .of rfl rfl
  · exact .updPier t q _ fun _ => rfl

/-- A port whose host departs. -/
def Port.departed (p : Port) : Port :=
  { p with bound := false, hostId := 0, watches := [], held := [], inbox := p.inbox.map fun m => (true, m.2) }

theorem State.port_updPort_ite (s : State) (p r : PortId) (f : Port → Port) :
    (s.updPort p f).port r = if r = p then f (s.port r) else s.port r := by
  split
  · next h => rw [h, State.port_updPort]
  · next h => rw [State.port_updPort_ne s f h]

theorem State.Loses.updPort (s : State) (p : PortId) (f : Port → Port) : s.Loses (s.updPort p f) := ⟨rfl, fun _ => rfl⟩

/-- What a host had asked for gone with it. -/
theorem State.Loses.asked (s : State) (ws : List WaitingSub) (qs : List Queue) (rs : List Request) (u : Option Session) (as : List AdmitWait) :
    s.Loses { s with waitingSubs := ws, queues := qs, requests := rs, session := u, admits := as } := ⟨rfl, fun _ => rfl⟩

/-- A departure: the port is without its host. -/
theorem State.depart_spec (s : State) (p : PortId) :
    s.Loses (s.depart p) ∧ (s.depart p).ports = (s.updPort p Port.departed).ports := by
  have hkeys := State.Fades.leaveKeys s p
  have hports : (s.leaveKeys p).ports = s.ports := (congrArg State.ports hkeys.rest :)
  unfold State.depart
  generalize s.leaveKeys p = k at hkeys hports ⊢
  extract_lets j lost subs queues reqs session u
  refine ⟨hkeys.loses.trans (State.Loses.trans (t := u) (.asked k subs queues reqs session _) ?_), ?_⟩
  · exact (State.Loses.updPort u p _).trans (State.Fades.bump _ _ _).loses
  · have hu : u.ports = s.ports := hports
    clear_value u
    rw [State.updPort, State.updPort, ← hu]
    rfl

theorem State.linkDown_spec (s : State) (p : PortId) :
    s.Loses (s.linkDown p) ∧ ∀ r, (s.linkDown p).port r = if r = p then (s.port r).departed.unlinked else s.port r := by
  obtain ⟨hlost, hports⟩ := s.depart_spec p
  have hgone : ∀ r, (s.depart p).port r = if r = p then (s.port r).departed else s.port r := fun r => by
    rw [← State.port_updPort_ite, State.port, State.port, hports]
  unfold State.linkDown
  dsimp only
  generalize s.depart p = t at hlost hgone ⊢
  have hlost := hlost.trans (State.Loses.updPort t p Port.unlinked)
  have hport : ∀ r, (t.updPort p Port.unlinked).port r = if r = p then (s.port r).departed.unlinked else s.port r := fun r => by
    rw [State.port_updPort_ite, hgone]
    split <;> rfl
  split
  · refine ⟨hlost.trans (State.Fades.log _ _).loses, fun r => ?_⟩
    rw [State.event_frame]
    exact hport r
  · exact ⟨hlost, hport⟩

/-- A port without power: no link, and deliveries wait for one. -/
def Port.dark (p : Port) : Port :=
  { p.departed.unlinked with held := p.held.filter fun m => m.mtype == 0x14, inbox := [], waits := true }

theorem State.portUnpowered_spec (s : State) (p : PortId) :
    s.Loses (s.portUnpowered p) ∧ ∀ r, (s.portUnpowered p).port r = if r = p then (s.port r).dark else s.port r := by
  have hlost := (State.Loses.updPort s p fun pt => { pt with held := pt.held.filter fun m => m.mtype != 0x14 }).trans (State.linkDown_spec _ p).1
  have hport := (State.linkDown_spec (s.updPort p fun pt => { pt with held := pt.held.filter fun m => m.mtype != 0x14 }) p).2
  unfold State.portUnpowered
  dsimp only
  generalize State.linkDown _ p = t at hlost hport ⊢
  refine ⟨hlost.trans (State.Loses.trans (.updPort t p fun pt =>
    { pt with held := (s.port p).held.filter (fun m => m.mtype == 0x14), inbox := [], waits := true }) ⟨rfl, fun _ => rfl⟩), fun r => ?_⟩
  have hset : ∀ (f : Port → Port) (rs : List Request), ({ t.updPort p f with requests := rs } : State).port r =
      if r = p then f (t.port r) else t.port r := fun f rs => State.port_updPort_ite t p r f
  rw [hset, hport, State.port_updPort_ite]
  split
  · next hr =>
    rw [hr]
    rfl
  · rfl

/-! ## Piers without power (R492, R509) -/

/-- A pier without power: asleep, its keystones and registers 0. -/
def Pier.dark (p : Pier) : Prop := p.awake = false ∧ p.keys = [] ∧ p.keys1 = [] ∧ p.keys2 = [] ∧ p.cfg = PierCfg.reset

theorem Pier.dark_unpowered (p : Pier) : p.unpowered.dark := ⟨rfl, rfl, rfl, rfl, rfl⟩

theorem Pier.lasting_unpowered (p : Pier) : p.unpowered.lasting = p.lasting := rfl

theorem Pier.dark.keyAt {p : Pier} (h : p.dark) (k : Nat) : p.keyAt k = 0 := by
  obtain ⟨-, h0, h1, h2, -⟩ := h
  simp [Pier.keyAt, h0, h1, h2, majority, Table.get]

theorem State.pierUnpowered_spec (s : State) (p : PierId) :
    s.Fades (s.pierUnpowered p) ∧ ∀ r, (s.pierUnpowered p).pier r = if r = p then (s.pier r).unpowered else s.pier r := by
  have hst : s.Fades (s.updPier p (·.unpowered)) := .updPier s p _ Pier.lasting_unpowered
  have hpier : ∀ r, (s.updPier p (·.unpowered)).pier r = if r = p then (s.pier r).unpowered else s.pier r :=
    fun r => State.pier_updPier_ite s p r _
  unfold State.pierUnpowered
  dsimp only
  generalize s.updPier p (fun x => x.unpowered) = t at hst hpier ⊢
  split
  · exact ⟨hst, hpier⟩
  · refine ⟨hst.trans (.log _ _), fun r => ?_⟩
    rw [State.mapEvent, State.event_frame]
    exact hpier r

/-- Every pier made dark by work on each that leaves the others. -/
theorem State.dark_foldl (f : State → PierId → State) (hf : ∀ s p, ((f s p).pier p).dark)
    (hne : ∀ s p r, r ≠ p → (f s p).pier r = s.pier r) (s : State) (p : PierId) : ((allPiers.foldl f s).pier p).dark := by
  have hfold : ∀ (l : List PierId) (s : State), p ∈ l ∨ (s.pier p).dark → ((l.foldl f s).pier p).dark := by
    intro l
    induction l with
    | nil => exact fun s h => h.resolve_left (by simp)
    | cons q l ih =>
      intro s h
      refine ih _ ?_
      by_cases hp : p = q
      · right
        rw [hp]
        exact hf s q
      · rw [hne s q p hp]
        exact h.imp (fun hm => (List.mem_cons.mp hm).resolve_left hp) id
  exact hfold allPiers s (.inl (mem_allPiers p))

/-! ## Memory -/

/-- What a filter takes from memory reads 0. -/
theorem memGet_filter (keep : Nat → Bool) {a : Nat} (h : keep a = false) (m : List Host.Cell) :
    memGet (m.filter fun c => keep c.1) a = 0 := by
  induction m with
  | nil => rfl
  | cons c m ih =>
    obtain ⟨k, v⟩ := c
    cases hk : keep k with
    | false => simpa [List.filter_cons, hk] using ih
    | true =>
      have hne : k ≠ a := fun he => by rw [he, h] at hk; cases hk
      simpa [List.filter_cons, hk, memGet, hne] using ih

/-! ## The main supply lost (R509) -/

/-- The stages of the loss: windows, hosts, piers and quoins. -/
def State.lostLinks (s : State) : State :=
  allPorts.foldl (fun (s : State) p => s.portUnpowered p)
    (([0, 1, 2, 3, 4, 5, 6, 7] : List (Fin 8)).foldl (fun (s : State) q => s.cxlSurprise q) s)

def State.lostPiers (s : State) : State := allPiers.foldl (fun (s : State) p => s.pierUnpowered p) s

def State.lostQuoins (s : State) : State :=
  ([0, 1, 2, 3] : List QuoinId).foldl (fun (s : State) q => s.updQuoin q fun w => { Quoin.reset with spare := w.spare }) s

/-- The function state without an image. -/
def Func.unloaded (f : Func) : Func :=
  { f with
    slot := 0, generation := 0, loaded := false, imageSv := 0, keySlot := 0, imageMeas := [], cxlWait := 0, stopStep := 0
    stopAbort := false, downAfter := false }

/-- What the loss clears beside them. -/
def State.lostRegs (s : State) : State :=
  { s with
    mem := s.mem.filter fun c => isCxlAddr c.1
    poison := s.poison.filter isCxlAddr
    cxl := Vector.replicate 8 .reset
    counters := s.counters.filter fun c => isSkovReg c.1
    queues := [], waitingSubs := [], stepBase := 0, stepDone := none, uRan := [],
    linkFails := [], groupFails := [], linkCycles := [], testing := [], edgeRot := [], linkKept := [], linkHeld := [], crossHeld := [],
    crossPtr := [], sounding := [], promises := [], accepts := [], admits := [], admitRot := 0, portRot := 0,
    func := s.func.unloaded
    power := { s.power with regulators := false } }

theorem State.mainLost_eq (s : State) :
    s.mainLost = (s.lostLinks.lostPiers.lostQuoins.cutPrograms fun _ => true).lostRegs := by
  unfold State.mainLost
  extract_lets s1 s2 s3 k s4 s5
  have h2 : s2 = s.lostLinks := rfl
  have h3 : s3 = s2.lostPiers := rfl
  have h4 : s4 = s3.lostQuoins := rfl
  have h5 : s5 = s4.cutPrograms fun _ => true := rfl
  rw [← h2, ← h3, ← h4, ← h5]
  clear_value s5
  unfold State.lostRegs Func.unloaded
  generalize s5.counters.filter (fun c => isSkovReg c.1) = z
  rfl

theorem State.lostLinks_spec (s : State) :
    s.Loses s.lostLinks ∧ s.lostLinks.requests = s.requests ∧ ∀ p, s.lostLinks.port p = (s.port p).dark := by
  have hwin := State.Fades.foldl (fun (s : State) q => s.cxlSurprise q) .cxlSurprise ([0, 1, 2, 3, 4, 5, 6, 7] : List (Fin 8)) s
  unfold State.lostLinks
  generalize ([0, 1, 2, 3, 4, 5, 6, 7] : List (Fin 8)).foldl (fun (s : State) q => s.cxlSurprise q) s = t at hwin ⊢
  have hports : t.ports = s.ports := (congrArg State.ports hwin.rest :)
  have hreqs : t.requests = s.requests := (congrArg State.requests hwin.rest :)
  obtain ⟨h0, p0⟩ := t.portUnpowered_spec 0
  obtain ⟨h1, p1⟩ := (t.portUnpowered 0).portUnpowered_spec 1
  refine ⟨hwin.loses.trans (h0.trans h1), hreqs, fun p => ?_⟩
  have hport : t.port p = s.port p := congrArg (fun v : Vector Port 2 => v[p]) hports
  rw [← hport]
  refine (p1 p).trans ?_
  rw [p0]
  match p with
  | 0 => rfl
  | 1 => rfl

theorem State.lostPiers_spec (s : State) : s.Fades s.lostPiers ∧ ∀ p, (s.lostPiers.pier p).dark := by
  refine ⟨.foldl _ (fun t p => (t.pierUnpowered_spec p).1) allPiers s, State.dark_foldl _ (fun t p => ?_) (fun t p r hr => ?_) s⟩
  · rw [(t.pierUnpowered_spec p).2, if_pos rfl]
    exact Pier.dark_unpowered _
  · rw [(t.pierUnpowered_spec p).2, if_neg hr]

/-- Nothing but the quoins changes with them. -/
theorem State.lostQuoins_frame (s : State) : s.lostQuoins = { s with quoins := s.lostQuoins.quoins } := rfl

/-- A program that no header is left to complete keeps its delivery and its cause. -/
theorem State.mem_cutPrograms {s : State} {lost : Request → Bool} {r : Request} (h : r ∈ (s.cutPrograms lost).requests) :
    ∃ x ∈ s.requests, r.delivered = x.delivered ∧ r.cause = x.cause := by
  obtain ⟨x, hx, rfl⟩ := List.mem_map.mp h
  refine ⟨x, List.mem_of_mem_filter hx, ?_⟩
  split <;> exact ⟨rfl, rfl⟩

/-- A module without its main supply: what it keeps, and what is gone. -/
structure State.Dark (s t : State) : Prop where
  power : t.power = { s.power with regulators := false }
  func : t.func = s.func.unloaded
  mem : ∀ a, a < 0x1000_0000_0000 → memGet t.mem a = 0
  cxl : ∀ q, (t.cxlPort q).registered = false
  dark : ∀ p, (t.pier p).dark
  lasting : ∀ p, (t.pier p).lasting = (s.pier p).lasting
  ports : ∀ p, t.port p = (s.port p).dark
  requests : ∀ r ∈ t.requests, ∃ x ∈ s.requests, r.delivered = x.delivered ∧ r.cause = x.cause
  frame : t = { s with
    mem := t.mem, poison := t.poison, piers := t.piers, quoins := t.quoins, cxl := t.cxl, ports := t.ports, counters := t.counters
    queues := [], waitingSubs := [], stepBase := 0, stepDone := none, uRan := [], linkFails := [], groupFails := []
    linkCycles := [], testing := [], edgeRot := [], linkKept := [], linkHeld := [], crossHeld := [], crossPtr := [], sounding := []
    promises := [], accepts := [], admits := [], admitRot := 0, portRot := 0, func := t.func
    power := t.power, requests := t.requests, session := t.session, held := t.held }

theorem State.lostRegs_frame {s t : State} (h : t.lostRest = s.lostRest) (q : Vector Quoin 4) :
    let u := (State.cutPrograms { t with quoins := q } fun _ => true).lostRegs
    u = { s with
      mem := u.mem, poison := u.poison, piers := u.piers, quoins := u.quoins, cxl := u.cxl, ports := u.ports, counters := u.counters
      queues := [], waitingSubs := [], stepBase := 0, stepDone := none, uRan := [], linkFails := [], groupFails := []
      linkCycles := [], testing := [], edgeRot := [], linkKept := [], linkHeld := [], crossHeld := [], crossPtr := [], sounding := []
      promises := [], accepts := [], admits := [], admitRot := 0, portRot := 0, func := u.func
      power := u.power, requests := u.requests, session := u.session, held := u.held } := by
  intro u
  exact congrArg (fun x : State => { x with
      mem := u.mem, poison := u.poison, piers := u.piers, quoins := u.quoins, cxl := u.cxl, ports := u.ports, counters := u.counters
      queues := [], waitingSubs := [], stepBase := 0, stepDone := none, uRan := [], linkFails := [], groupFails := []
      linkCycles := [], testing := [], edgeRot := [], linkKept := [], linkHeld := [], crossHeld := [], crossPtr := [], sounding := []
      promises := [], accepts := [], admits := [], admitRot := 0, portRot := 0, func := u.func
      power := u.power, requests := u.requests, session := u.session, held := u.held }) h

theorem State.mainLost_dark (s : State) : s.Dark s.mainLost := by
  rw [State.mainLost_eq]
  obtain ⟨hlinks, hreqs, hports⟩ := s.lostLinks_spec
  generalize s.lostLinks = a at hlinks hreqs hports ⊢
  obtain ⟨hpiers, hdark⟩ := a.lostPiers_spec
  generalize a.lostPiers = b at hpiers hdark ⊢
  have hlost := hlinks.trans hpiers.loses
  have hbports : b.ports = a.ports := (congrArg State.ports hpiers.rest :)
  have hbreqs : b.requests = a.requests := (congrArg State.requests hpiers.rest :)
  have hbport : ∀ p, b.port p = (s.port p).dark := fun p => by
    rw [← hports]
    exact congrArg (fun v : Vector Port 2 => v[p]) hbports
  rw [State.lostQuoins_frame]
  generalize b.lostQuoins.quoins = q
  have hpower : b.power = s.power := (congrArg State.power hlost.rest :)
  have hfunc : b.func = s.func := (congrArg State.func hlost.rest :)
  refine ⟨?_, ?_, fun a ha => ?_, fun q => ?_, hdark, hlost.piers, hbport, fun r hr => ?_, ?_⟩
  · rw [← hpower]
    rfl
  · rw [← hfunc]
    rfl
  · exact memGet_filter isCxlAddr (by simpa [isCxlAddr] using ha) _
  · exact congrArg CxlPort.registered (by simp [State.cxlPort, State.lostRegs] : State.cxlPort _ q = CxlPort.reset)
  · obtain ⟨x, hx, hxr⟩ := State.mem_cutPrograms (s := { b with quoins := q }) hr
    exact ⟨x, by rw [← hreqs, ← hbreqs]; exact hx, hxr⟩
  · exact State.lostRegs_frame hlost.rest q

/-! ## The regulators off and held off (R509, R511) -/

/-- In Standby, with an event. -/
theorem State.standby_frame (m : State) (cause : Nat) :
    let t := (m.setFunc 1).powerEvent 1 cause
    t = { m with func := { m.func with state := 1 }, held := t.held, counters := t.counters } := by
  intro t
  have hf := (m.setFunc_starts 1).2
  have ht : t = { m.setFunc 1 with held := t.held, counters := t.counters } := State.event_frame _ _ _
  rw [State.setFunc_frame, hf] at ht
  exact ht

/-- What a trip notes before the regulators go off: the state stopping, and late notices (R479, R509). -/
def State.tripNoted (s : State) (trip : Option Nat) : State :=
  match trip with
  | some _ => (s.setFunc 4).noteStopping
  | none => s

theorem State.tripNoted_frame (s : State) (trip : Option Nat) :
    s.tripNoted trip = { s with
      func := (s.tripNoted trip).func, held := (s.tripNoted trip).held, counters := (s.tripNoted trip).counters
      requests := (s.tripNoted trip).requests } := by
  cases trip with
  | none => rfl
  | some n =>
    unfold State.tripNoted State.noteStopping
    dsimp only
    rw [State.setFunc_frame]

/-- A trip gives every request not delivered yet its cause. -/
theorem State.tripNoted_cause (s : State) (n : Nat) : ∀ r ∈ (s.tripNoted (some n)).requests, r.delivered = false → r.cause = 4 := by
  intro r hr hd
  obtain ⟨x, -, rfl⟩ := List.mem_map.mp hr
  split
  · next h =>
    rw [if_pos h] at hd
    rw [h] at hd
    cases hd
  · rfl

/-- The power supplies after the regulators have gone off. -/
def Power.heldOff (p : Power) (trip : Option Nat) (sensor : Nat) : Power :=
  { p with regulators := false, heldDown := true, tripped := trip.isSome, tripSensor := match trip with | some n => n | none => sensor }

/-- The supplies of a module that is held off. -/
def State.heldOff (m : State) (trip : Option Nat) : State := { m with power := m.power.heldOff trip m.power.tripSensor }

theorem State.powerOff_eq (s : State) (trip : Option Nat) (cause : Nat) :
    s.powerOff trip cause = (((s.tripNoted trip).mainLost.heldOff trip).setFunc 1).powerEvent 1 cause := by
  have hoff := (State.mainLost_dark (s.tripNoted trip)).power
  cases trip with
  | none =>
    unfold State.powerOff State.tripNoted at *
    dsimp only at *
    generalize s.mainLost = m at hoff ⊢
    unfold State.heldOff Power.heldOff
    rw [hoff]
  | some n =>
    unfold State.powerOff State.tripNoted at *
    dsimp only at *
    generalize (s.setFunc 4).noteStopping.mainLost = m at hoff ⊢
    unfold State.heldOff Power.heldOff
    rw [hoff]

theorem State.powerOff_frame (s : State) (trip : Option Nat) (cause : Nat) :
    s.powerOff trip cause = { (s.tripNoted trip).mainLost with
      power := s.power.heldOff trip s.power.tripSensor, func := { (s.tripNoted trip).mainLost.func with state := 1 }
      held := (s.powerOff trip cause).held, counters := (s.powerOff trip cause).counters } := by
  have hnoted : (s.tripNoted trip).power = s.power := by rw [State.tripNoted_frame]
  have hoff := (State.mainLost_dark (s.tripNoted trip)).power
  rw [State.powerOff_eq]
  generalize (s.tripNoted trip).mainLost = m at hoff ⊢
  have hpower : (m.heldOff trip).power = s.power.heldOff trip s.power.tripSensor := by
    rw [← hnoted, State.heldOff, hoff]
    rfl
  have h := (m.heldOff trip).standby_frame cause
  dsimp only at h
  rw [← hpower]
  exact h

theorem State.powerOff_mainOff (s : State) (trip : Option Nat) (cause : Nat) :
    s.MainOff (s.powerOff trip cause) ∧ (s.powerOff trip cause).power = s.power.heldOff trip s.power.tripSensor ∧
      (∀ p, (s.powerOff trip cause).port p = (s.port p).dark) ∧
      ∀ n, trip = some n → ∀ r ∈ (s.powerOff trip cause).requests, r.delivered = false → r.cause = 4 := by
  have hframe := s.powerOff_frame trip cause
  have hnoted := s.tripNoted_frame trip
  have hdark := (s.tripNoted trip).mainLost_dark
  have hcause := fun n (h : trip = some n) => h ▸ s.tripNoted_cause n
  generalize s.powerOff trip cause = t at hframe ⊢
  generalize s.tripNoted trip = u at hframe hnoted hdark hcause
  generalize u.mainLost = m at hframe hdark
  have hpower : t.power = s.power.heldOff trip s.power.tripSensor := by rw [hframe]
  have hfunc : t.func = { u.func.unloaded with state := 1 } := by rw [hframe, ← hdark.func]
  have hpier : ∀ p, t.pier p = m.pier p := fun p => by
    rw [hframe]
    rfl
  have huport : ∀ p, u.port p = s.port p := fun p => by
    rw [hnoted]
    rfl
  have hupier : ∀ p, u.pier p = s.pier p := fun p => by
    rw [hnoted]
    rfl
  have hport : ∀ p, t.port p = (s.port p).dark := fun p => by
    rw [← huport, ← hdark.ports, hframe]
    rfl
  have hmframe := hdark.frame
  refine ⟨⟨by rw [hpower]; rfl, by rw [hpower]; rfl, by rw [hpower]; rfl, by rw [hfunc], by rw [hfunc]; rfl, by rw [hfunc]; rfl,
    by rw [hfunc]; rfl, by rw [hframe, hmframe], by rw [hframe, hmframe], by rw [hframe, hmframe], fun a ha => ?_, fun q => ?_, fun p => ?_,
    fun p => ?_, ?_⟩, hpower, hport, fun n hn r hr hd => ?_⟩
  · rw [hframe]
    exact hdark.mem a ha
  · rw [hframe]
    exact hdark.cxl q
  · have hd := hdark.dark p
    have hl := hdark.lasting p
    rw [hupier] at hl
    rw [hpier]
    exact ⟨hd.1, hd.keyAt, hd.2.2.2.2, (congrArg Prod.fst hl :), (congrArg (fun x => x.2.1) hl :), (congrArg (fun x => x.2.2.1) hl :),
      (congrArg (fun x => x.2.2.2) hl :)⟩
  · rw [hport]
    exact ⟨rfl, rfl, rfl, rfl⟩
  · rw [hframe, hmframe, hnoted]
  · rw [hframe] at hr
    obtain ⟨x, hx, hxd, hxc⟩ := hdark.requests r hr
    rw [hxc]
    exact hcause n hn x hx (by rw [← hxd]; exact hd)

end Sys2Proof.Machine
end

section
/-! SUPPORT. Supplies and power commands (R7, R511, R525, R534, R535, R540): what the standby supply's loss restores, what the main supply and
the pins begin and end, and how POWER_DOWN and POWER_UP answer and act. -/

namespace Sys2Proof.Machine

/-! ## The standby supply (R7, R511, R540) -/

theorem State.standbyUp_spec {s : State} (h : s.power.standby = false) :
    s.standbyUp.tick = 0 ∧ s.standbyUp.power = { s.power with standby := true } ∧
      s.standbyUp = { s with
        tick := 0, power := s.standbyUp.power, counters := s.standbyUp.counters, held := s.standbyUp.held } := by
  have heq : s.standbyUp = State.powerEvent { s with tick := 0, power := { s.power with standby := true } } 1 1 := if_neg (by simp [h])
  rw [heq, State.powerEvent, State.event_frame]
  exact ⟨rfl, rfl, rfl⟩

/-- The channel map last recorded is read from the logs alone (R382). -/
theorem State.loggedMap_congr {s t : State} (h0 : t.log0 = s.log0) (h1 : t.log1 = s.log1) (p : PierId) : t.loggedMap p = s.loggedMap p := by
  unfold State.loggedMap
  rw [h0, h1]

/-- What outlasts the standby supply (R492, R540): the module Off. -/
structure State.Off (s t : State) : Prop where
  tick : t.tick = 0
  func : t.func = Func.reset
  power : t.power = { Power.reset with main := s.power.main, shortPin := s.power.shortPin, pwrDis := s.power.pwrDis }
  queues : t.queues = []
  requests : t.requests = []
  session : t.session = none
  held : t.held = []
  counters : t.counters = []
  mem : ∀ a, a < 0x1000_0000_0000 → memGet t.mem a = 0
  skovs : (∀ d, (t.skov d).up = false) ∧ (t.skov false).active = true ∧ (t.skov true).active = false
  piers : ∀ p, (∀ k, (t.pier p).keyAt k = 0) ∧ (t.pier p).coreMap = (s.pier p).coreMap ∧ (t.pier p).keySpare = (s.pier p).keySpare ∧
    (t.pier p).chanMap = s.loggedMap p
  ports : ∀ p, (t.port p).spareUsed = (s.port p).spareUsed ∧ (t.port p).retired = (s.port p).retired
  links : t.laneSpares = s.laneSpares ∧ t.retired = s.retired ∧ t.degraded = s.degraded
  logs : t.log0 = s.log0 ∧ t.log1 = s.log1 ∧ t.recordCount = s.recordCount
  flash : t.flash0 = s.flash0 ∧ t.flash1 = s.flash1 ∧ t.erased0 = s.erased0 ∧ t.erased1 = s.erased1

/-- What Skovlaper restores, of a module that has lost its main supply. -/
def State.restored (m : State) : State :=
  { State.reset with
    pending := m.pending, free := m.free, mem := m.mem, poison := m.poison
    power := { Power.reset with main := m.power.main, shortPin := m.power.shortPin, pwrDis := m.power.pwrDis }
    piers := Vector.ofFn fun p =>
      { m.pier p with hardErrors := [], soundings := [], failed := [], routineAt := [], chanMap := m.loggedMap p }
    quoins := m.quoins
    skovs := #v[{ Skov.reset false with boots := (m.skov false).boots }, { Skov.reset true with boots := (m.skov true).boots }]
    ports := m.ports.map fun p =>
      { Port.reset with present := p.present, spareUsed := p.spareUsed, retired := p.retired, badLanes := p.badLanes, sent := p.sent }
    laneSpares := m.laneSpares, retired := m.retired, degraded := m.degraded, seqOnC := m.seqOnC
    log0 := m.log0, log1 := m.log1, recordCount := m.recordCount, requestCount := m.requestCount
    flash0 := m.flash0, flash1 := m.flash1, erased0 := m.erased0, erased1 := m.erased1 }

theorem State.standbyLost_eq {s : State} (h : s.power.standby = true) : s.standbyLost = s.mainLost.restored := by
  unfold State.standbyLost State.restored
  rw [if_neg (by simp [h])]

theorem State.pier_restored (m : State) (p : PierId) : m.restored.pier p =
    { m.pier p with hardErrors := [], soundings := [], failed := [], routineAt := [], chanMap := m.loggedMap p } := by
  simp [State.pier, State.restored]

theorem State.port_restored (m : State) (p : PortId) : m.restored.port p =
    { Port.reset with
      present := (m.port p).present, spareUsed := (m.port p).spareUsed, retired := (m.port p).retired, badLanes := (m.port p).badLanes
      sent := (m.port p).sent } := by
  simp [State.port, State.restored]

theorem State.standbyLost_off {s : State} (h : s.power.standby = true) : s.Off s.standbyLost := by
  rw [State.standbyLost_eq h]
  have hdark := s.mainLost_dark
  generalize s.mainLost = m at hdark ⊢
  have hframe := hdark.frame
  have hpower := hdark.power
  have hl : ∀ p, m.loggedMap p = s.loggedMap p := State.loggedMap_congr (by rw [hframe]) (by rw [hframe])
  refine ⟨rfl, rfl, ?_, rfl, rfl, rfl, rfl, rfl, hdark.mem, ⟨fun d => ?_, rfl, rfl⟩, fun p => ?_, fun p => ?_, ?_, ?_, ?_⟩
  · unfold State.restored
    rw [hpower]
  · cases d <;> rfl
  · have hlast := hdark.lasting p
    rw [State.pier_restored]
    exact ⟨fun k => (hdark.dark p).keyAt k, (congrArg Prod.fst hlast :), (congrArg (fun x => x.2.2.1) hlast :), hl p⟩
  · rw [State.port_restored, hdark.ports]
    exact ⟨rfl, rfl⟩
  · unfold State.restored
    rw [hframe]
    exact ⟨rfl, rfl, rfl⟩
  · unfold State.restored
    rw [hframe]
    exact ⟨rfl, rfl, rfl⟩
  · unfold State.restored
    rw [hframe]
    exact ⟨rfl, rfl, rfl, rfl⟩

/-! ## The main supply, the pins and PWR_DIS (R511, R534, R535) -/

theorem State.supplyBad_off {s : State} (h : s.power.regulators = false) : s.supplyBad = s := if_neg (by simp [h])

theorem State.supplyBad_on {s : State} (h : s.power.regulators = true) : s.supplyBad = s.powerOff (some 64) 1 := if_pos h

/-- The supply no longer permitted: a trip of sensor 64. -/
theorem State.supplyBad_mainOff {s : State} (h : s.power.regulators = true) :
    s.MainOff s.supplyBad ∧ s.supplyBad.power.tripped = true ∧ s.supplyBad.power.tripSensor = 64 ∧
      ∀ r ∈ s.supplyBad.requests, r.delivered = false → r.cause = 4 := by
  rw [State.supplyBad_on h]
  obtain ⟨hoff, hpower, -, hcause⟩ := s.powerOff_mainOff (some 64) 1
  rw [hpower]
  exact ⟨hoff, rfl, rfl, hcause 64 rfl⟩

/-! ## Answers that stay (R477, R525) -/

/-- What has been sent to hosts stays sent, and the controller's answers stay to be read. -/
structure State.KeepsSent (s t : State) : Prop where
  sent : ∀ p, (s.port p).sent <+: (t.port p).sent
  smbus : t.smbus = s.smbus

theorem State.KeepsSent.refl (s : State) : s.KeepsSent s := ⟨fun _ => List.prefix_rfl, rfl⟩

theorem State.KeepsSent.trans {s t u : State} (h : s.KeepsSent t) (g : t.KeepsSent u) : s.KeepsSent u :=
  ⟨fun p => (h.sent p).trans (g.sent p), g.smbus.trans h.smbus⟩

theorem State.KeepsSent.of {s t : State} (hp : t.ports = s.ports) (hm : t.smbus = s.smbus) : s.KeepsSent t :=
  ⟨fun p => by rw [State.port, State.port, hp], hm⟩

theorem State.KeepsSent.foldl {α : Type} (f : State → α → State) (hf : ∀ (s : State) a, s.KeepsSent (f s a)) (l : List α) :
    ∀ s : State, s.KeepsSent (l.foldl f s) := by
  induction l with
  | nil => exact .refl
  | cons a l ih => exact fun s => (hf s a).trans (ih _)

theorem State.KeepsSent.credit (s : State) (m : Manager) : s.KeepsSent (s.creditBack m) := by
  obtain ⟨hframe, -, hsent, -⟩ := s.creditBack_spec m
  exact ⟨hsent, by rw [hframe]⟩

/-- A port that can send now, and what a manager's answer needs. -/
def State.answersNow (s : State) (m : Manager) : Prop := ∀ p tag, m = .port p tag → (s.port p).canSend 0x16 = true

/-- An answer sent at once stays one. -/
theorem State.Answers.keepsSent {s t u : State} {m : Manager} {bs : List Byte} (h : s.Answers t m bs) (hn : s.answersNow m)
    (hk : t.KeepsSent u) : s.Answers u m bs := by
  match m, h, hn with
  | .port p tag, h, hn =>
    have hc := hn p tag rfl
    simp only [State.Answers, State.Sends, hc, if_true] at h ⊢
    exact h.trans (hk.sent p)
  | .smbus _, h, _ => exact hk.smbus.trans h
  | .smbusRecovery _, h, _ => exact hk.smbus.trans h

theorem State.powerOff_keepsSent (s : State) (cause : Nat) : s.KeepsSent (s.powerOff none cause) := by
  obtain ⟨-, -, hport, -⟩ := s.powerOff_mainOff none cause
  refine ⟨fun p => by rw [hport]; exact List.prefix_rfl, ?_⟩
  rw [State.powerOff_frame]
  have hframe := (s.tripNoted none).mainLost_dark.frame
  generalize (s.tripNoted none).mainLost = m at hframe ⊢
  exact (congrArg State.smbus hframe :)

/-! ## POWER_DOWN at once (R525) -/

/-- A module whose regulators are off stays so when no more than answers are sent. -/
theorem State.MainOff.answered {s u v t : State} (h : u.MainOff v) (hu : u = { s with ports := u.ports, smbus := u.smbus, func := u.func })
    (ht : t = { v with ports := t.ports }) (htr : ∀ p, (v.port p).Transmits (t.port p)) : s.MainOff t := by
  obtain ⟨h1, h2, h3, h4, h5, h6, h7, h8, h9, h10, h11, h12, hpier, hport, hframe⟩ := h
  have htp : t.power = v.power := by rw [ht]
  have htf : t.func = v.func := by rw [ht]
  have hup : u.power = s.power := by rw [hu]
  have hpiers : ∀ p, t.pier p = v.pier p := fun p => by
    rw [ht]
    rfl
  have hupiers : ∀ p, u.pier p = s.pier p := fun p => by
    rw [hu]
    rfl
  refine ⟨by rw [htp, h1], by rw [htp, h2], by rw [htp, h3, hup], by rw [htf, h4], by rw [htf, h5], by rw [htf, h6], by rw [htf, h7],
    by rw [ht, h8], by rw [ht, h9], by rw [ht, h10], fun a ha => ?_, fun q => ?_, fun p => ?_, fun p => ?_, ?_⟩
  · rw [ht]
    exact h11 a ha
  · rw [ht]
    exact h12 q
  · rw [hpiers, ← hupiers]
    exact hpier p
  · have hk : (t.port p).kept = (v.port p).kept := htr p
    obtain ⟨g1, g2, g3, g4⟩ := hport p
    exact ⟨(congrArg Port.linked hk).trans g1, (congrArg Port.bound hk).trans g2, (congrArg Port.trainState hk).trans g3,
      (congrArg Port.waits hk).trans g4⟩
  · rw [ht, hframe, hu]

/-- POWER_DOWN where nothing runs: the regulators held off, switched off first where they are on. -/
theorem State.holdDown_credit {s u : State} (m : Manager) (hu : u = { s with
      ports := u.ports, smbus := u.smbus, func := { s.func with downAfter := u.func.downAfter } })
    (htr : ∀ p, (s.port p).Transmits (u.port p)) :
    let t := u.holdDown.creditBack m
    u.KeepsSent t ∧ (s.power.regulators = true → s.MainOff t ∧ t.power.tripped = false) ∧
      (s.power.regulators = false → t.power = { s.power with heldDown := true } ∧ (∀ p, (s.port p).Transmits (t.port p)) ∧
        t = { s with power := t.power, func := { s.func with downAfter := t.func.downAfter }, ports := t.ports, smbus := t.smbus }) := by
  intro t
  have hpower : u.power = s.power := by rw [hu]
  obtain ⟨hframe, hctr, -, -⟩ := u.holdDown.creditBack_spec m
  have hkeep : u.KeepsSent u.holdDown := by
    unfold State.holdDown
    split
    · exact u.powerOff_keepsSent 0
    · exact .of rfl rfl
  refine ⟨hkeep.trans (.credit _ m), fun hon => ?_, fun hoff => ?_⟩
  · have hd : u.holdDown = u.powerOff none 0 := if_pos (by rw [hpower, hon])
    obtain ⟨hmain, hp, -⟩ := u.powerOff_mainOff none 0
    rw [← hd] at hmain hp
    refine ⟨hmain.answered (by rw [hu]) hframe hctr, ?_⟩
    have hpt : t.power = u.holdDown.power := (congrArg State.power hframe :)
    rw [hpt, hp]
    rfl
  · have hd : u.holdDown = { u with power := { u.power with heldDown := true } } := if_neg (by simp [hpower, hoff])
    have htp : t.power = u.holdDown.power := (congrArg State.power hframe :)
    refine ⟨by rw [htp, hd, ← hpower], fun p => ?_, ?_⟩
    · have hp : u.holdDown.port p = u.port p := by
        rw [hd]
        rfl
      exact (htr p).trans (hp ▸ hctr p)
    · have ht : t = { u.holdDown with ports := t.ports } := hframe
      rw [ht, hd, hu]

/-! ## POWER_DOWN of a running module (R478, R525) -/

/-- Work that leaves the function state and what has been sent. -/
structure State.Quiet (s t : State) : Prop where
  keeps : s.KeepsSent t
  func : t.func = s.func

theorem State.Quiet.refl (s : State) : s.Quiet s := ⟨.refl s, rfl⟩

theorem State.Quiet.trans {s t u : State} (h : s.Quiet t) (g : t.Quiet u) : s.Quiet u := ⟨h.keeps.trans g.keeps, g.func.trans h.func⟩

theorem State.Quiet.foldl {α : Type} (f : State → α → State) (hf : ∀ (s : State) a, s.Quiet (f s a)) (l : List α) :
    ∀ s : State, s.Quiet (l.foldl f s) := by
  induction l with
  | nil => exact .refl
  | cons a l ih => exact fun s => (hf s a).trans (ih _)

theorem State.Quiet.updPier (s : State) (p : PierId) (f : Pier → Pier) : s.Quiet (s.updPier p f) := ⟨.of rfl rfl, rfl⟩

theorem State.Fades.quiet {s t : State} (h : s.Fades t) : s.Quiet t :=
  ⟨.of (congrArg State.ports h.rest :) (congrArg State.smbus h.rest :), (congrArg State.func h.rest :)⟩

theorem State.Quiet.updPort (s : State) (p : PortId) (f : Port → Port) (hf : ∀ pt, pt.sent <+: (f pt).sent) : s.Quiet (s.updPort p f) := by
  refine ⟨⟨fun r => ?_, rfl⟩, rfl⟩
  rw [State.port_updPort_ite]
  split
  · exact hf _
  · exact List.prefix_rfl

/-- A message sent leaves those sent before it. -/
theorem State.Quiet.send (s : State) (p : PortId) (m : OutMsg) : s.Quiet (s.send p m) := by
  have hhold : s.Quiet (s.updPort p fun pt => { pt with held := pt.held ++ [m] }) := .updPort s p _ fun _ => List.prefix_rfl
  unfold State.send
  dsimp only
  split
  · split
    · exact hhold
    · exact ⟨.of rfl rfl, rfl⟩
  · split
    · exact hhold
    · refine .updPort s p _ fun pt => ?_
      rw [(Port.transmit_spec _ m).2.1]
      exact List.prefix_append _ _

theorem State.Quiet.answerWrite (s : State) (src : Source) (st : Nat) : s.Quiet (s.answerWrite src st) := by
  match src with
  | .host p tag => exact .send s p _
  | .gone p => exact ⟨.of rfl rfl, rfl⟩
  | .mason p k =>
    exact .updPier s p fun pr => { pr with masons := pr.masons.modify k.val fun m => { m with faulted := if st == 0 then 0 else 2 } }
  | .skov d => exact ⟨.of rfl rfl, rfl⟩

/-- The queued headers that have not started gone, their writes answered (R478 step 2). -/
theorem State.discardQueued_spec (s : State) : s.Quiet s.discardQueued ∧ s.discardQueued.waitingSubs = [] := by
  refine ⟨?_, rfl⟩
  unfold State.discardQueued
  extract_lets kept lost acks s1 s2 s3
  have h1 : s.Quiet s1 := .foldl _ (fun t a => .answerWrite t a 5) acks s
  clear_value s1
  have h2 : s1.Quiet s2 := by
    refine .foldl _ (fun t q => ?_) _ s1
    split
    · exact .refl t
    · exact .foldl _ (fun t _ => .updPier t _ _) _ t
  clear_value s2
  have h3 : s2.Quiet s3 := ⟨.of rfl rfl, rfl⟩
  exact h1.trans (h2.trans (h3.trans ⟨.of rfl rfl, rfl⟩))

theorem State.KeepsSent.withFunc (s : State) (f : Func) : s.KeepsSent { s with func := f } := .of rfl rfl

theorem State.KeepsSent.setFunc (s : State) (n : Nat) : s.KeepsSent (s.setFunc n) := by
  have hframe := s.setFunc_frame n
  exact .of (congrArg State.ports hframe :) (congrArg State.smbus hframe :)

/-- The state stopping, with its event and the late notices. -/
theorem State.stopping_spec (s : State) :
    s.KeepsSent (s.setFunc 4).noteStopping ∧ (s.setFunc 4).noteStopping.func = { s.func with state := 4 } := by
  refine ⟨(State.KeepsSent.setFunc s 4).trans ?_, (s.setFunc_starts 4).2⟩
  exact .of rfl rfl

/-- How far a forced POWER_DOWN of a running module goes at once: its abort waits, or has ended in Standby. -/
def State.downOrStopping (t : State) : Prop :=
  t.func.state = 4 ∧ t.func.downAfter = true ∧ t.func.stopAbort = true ∧ t.waitingSubs = [] ∨
    t.func.state = 1 ∧ t.power.regulators = false ∧ t.power.heldDown = true ∧ t.queues = []

/-- Step 6 of an abort that POWER_DOWN asked for. -/
theorem State.stopped_down {s : State} (h : s.func.downAfter = true) :
    s.KeepsSent s.stopped ∧ s.stopped.downOrStopping := by
  unfold State.stopped
  extract_lets s1 down f s2
  have h1 : s.Quiet s1 := .foldl _ (fun t p => .updPier t p _) allPiers s
  have hdown : down = true := by
    have hf : s1.func.downAfter = s.func.downAfter := by rw [h1.func]
    exact hf.trans h
  clear_value s1 down f
  have h2 : s1.KeepsSent s2 := State.KeepsSent.trans (.withFunc s1 _) (.setFunc _ 5)
  clear_value s2
  rw [if_pos hdown]
  obtain ⟨hmain, hpower, -⟩ := s2.powerOff_mainOff none 0
  refine ⟨h1.keeps.trans (h2.trans (s2.powerOff_keepsSent 0)), .inr ⟨?_, ?_, ?_, ?_⟩⟩
  · exact hmain.2.2.2.1
  · rw [hpower]
    rfl
  · rw [hpower]
    rfl
  · exact hmain.2.2.2.2.2.2.2.1

/-- Steps 5 and 6 of an abort that POWER_DOWN asked for. -/
theorem State.stopDrain_down {s : State} (h4 : s.func.state = 4) (hd : s.func.downAfter = true) (ha : s.func.stopAbort = true)
    (hw : s.waitingSubs = []) : s.KeepsSent s.stopDrain ∧ s.stopDrain.downOrStopping := by
  have hfade : s.Fades (allPiers.foldl (fun (s : State) p => if (s.pier p).ckpt.isSome then s.drainAbandon p else s) s) := by
    refine .foldl _ (fun t p => ?_) allPiers s
    split
    · exact .drainAbandon t p
    · exact .refl t
  unfold State.stopDrain
  rw [if_pos ha]
  dsimp only
  generalize allPiers.foldl _ s = t at hfade ⊢
  have hq := hfade.quiet
  split
  · obtain ⟨hkeep, hend⟩ := State.stopped_down (s := t) (by rw [hq.func]; exact hd)
    exact ⟨hq.keeps.trans hkeep, hend⟩
  · refine ⟨hq.keeps.trans (.of rfl rfl), .inl ?_⟩
    have hws : t.waitingSubs = [] := ((congrArg State.waitingSubs hfade.rest :) : t.waitingSubs = s.waitingSubs).trans hw
    rw [← hq.func] at h4 hd ha
    exact ⟨h4, hd, ha, hws⟩

/-- Step 3 of a stop: it waits for what runs. -/
def State.holding3 (s : State) : State := { s with func := { s.func with stopStep := 3, stopSince := s.tick } }

theorem State.stopAdvance_abort {s : State} (h4 : s.func.state = 4) (ha : s.func.stopAbort = true) (h2 : s.func.stopStep = 2) :
    s.stopAdvance = if s.holding3.anyBusy then s.holding3 else s.holding3.stopDrain := by
  have hgo : (s.func.state != 4 || s.func.stopStep == 0) = false := by simp [h4, h2]
  have hthree : (s.func.stopStep == 2 && (s.func.stopAbort || s.requests.isEmpty)) = true := by simp [h2, ha]
  unfold State.stopAdvance
  rw [hgo, hthree]
  rfl

/-- An abort as far as it can go. -/
theorem State.stopAdvance_down {s : State} (h4 : s.func.state = 4) (hd : s.func.downAfter = true) (ha : s.func.stopAbort = true)
    (h2 : s.func.stopStep = 2) (hw : s.waitingSubs = []) : s.KeepsSent s.stopAdvance ∧ s.stopAdvance.downOrStopping := by
  rw [State.stopAdvance_abort h4 ha h2]
  have hkeep : s.KeepsSent s.holding3 := .withFunc s _
  split
  · exact ⟨hkeep, .inl ⟨h4, hd, ha, hw⟩⟩
  · obtain ⟨hdrain, hend⟩ := State.stopDrain_down (s := s.holding3) h4 hd ha hw
    exact ⟨hkeep.trans hdrain, hend⟩

theorem State.stopBegin_down {s : State} (hd : s.func.downAfter = true) : s.KeepsSent (s.stopBegin true) ∧ (s.stopBegin true).downOrStopping := by
  obtain ⟨h1, f1⟩ := s.stopping_spec
  unfold State.stopBegin
  generalize (s.setFunc 4).noteStopping = t at h1 f1 ⊢
  obtain ⟨h2, w2⟩ := t.discardQueued_spec
  dsimp only
  rw [if_pos rfl]
  generalize t.discardQueued = u at h2 w2 ⊢
  have hu : u.func = { s.func with state := 4 } := h2.func.trans f1
  obtain ⟨hkeep, hend⟩ := State.stopAdvance_down (s := { u with func := { u.func with stopStep := 2, stopAbort := true } })
    (by rw [hu]) (by rw [hu]; exact hd) rfl rfl w2
  exact ⟨h1.trans (h2.keeps.trans (State.KeepsSent.trans (.withFunc u _) hkeep)), hend⟩

/-! ## POWER_DOWN and POWER_UP as commands -/

/-- A manager that may: a bound host, or the SMBus (R463, R525). -/
def State.managerBound (s : State) (m : Manager) : Prop := ∀ p tag, m = .port p tag → (s.port p).bound = true

theorem State.unbound_of_bound {s : State} {m : Manager} (h : s.managerBound m) : s.unbound m = false := by
  match m with
  | .port p tag => simp [State.unbound, h p tag rfl]
  | .smbus _ | .smbusRecovery _ => rfl

theorem State.unbound_of_not {s : State} {m : Manager} (h : ¬s.managerBound m) : s.unbound m = true := by
  by_contra hu
  refine h fun p tag hm => ?_
  subst hm
  simpa [State.unbound] using hu

/-- An answer to a command that is served. -/
theorem State.manage_only {s : State} {m : Manager} {f : State → State} {cmd st : Nat} (hs : s.serves m false = true)
    (hl : s.linkUp m = true) (hf : f s = s.answerTo m cmd st 0 []) :
    s.OnlyAnswers (s.manage m false f) m (answerBytes cmd st 0 []) := by
  refine State.manage_answers hs hl ?_
  rw [hf]
  exact s.answerTo_spec m cmd st 0 [] hl

/-- Whether POWER_DOWN waits for a stop. -/
def State.noteDown (s : State) (down : Bool) : State := { s with func := { s.func with downAfter := down } }

/-- POWER_DOWN by force, its answer given: an abort first where an image runs or stops. -/
def State.forceDown (s : State) : State :=
  let t := s.noteDown (s.func.state == 3 || s.func.state == 4)
  if s.func.state == 3 then t.stopBegin true
  else if s.func.state == 4 then (if s.func.stopAbort then t else t.toAbort)
  else t.holdDown

theorem State.powerDown_eq (s : State) (m : Manager) (force : Bool) :
    s.powerDown m force =
      if s.unbound m then s.answerTo m 0x3A 4 0 []
      else if s.func.state == 5 || s.func.state == 6 then (s.answerTo m 0x3A 0 0 []).holdDown
      else if !force then s.answerTo m 0x3A 6 0 []
      else (s.answerTo m 0x3A 0 0 []).forceDown := rfl

theorem State.forceDown_low {s : State} (h : s.func.state ≤ 2) : s.forceDown = (s.noteDown false).holdDown := by
  have h3 : (s.func.state == 3) = false := by simp; omega
  have h4 : (s.func.state == 4) = false := by simp; omega
  unfold State.forceDown
  rw [h3, h4]
  rfl

theorem State.forceDown_running {s : State} (h : s.func.state = 3) : s.forceDown = (s.noteDown true).stopBegin true := by
  have h3 : (s.func.state == 3) = true := by simp [h]
  unfold State.forceDown
  rw [h3]
  rfl

/-- The answer given and the abort noted, the regulators are held off. -/
theorem State.powerDown_held {s : State} {m : Manager} {force : Bool} (hl : s.linkUp m = true) (hb : s.managerBound m)
    (hst : s.func.state = 5 ∨ s.func.state = 6 ∨ force = true ∧ s.func.state ≤ 2) :
    ∃ u : State, u = { s.answerTo m 0x3A 0 0 [] with func := { s.func with downAfter := u.func.downAfter } } ∧
      s.powerDown m force = u.holdDown := by
  have hunbound := State.unbound_of_bound hb
  have hfunc : (s.answerTo m 0x3A 0 0 []).func = s.func := (congrArg State.func (s.answerTo_spec m 0x3A 0 0 [] hl).2.1 :)
  rw [State.powerDown_eq, if_neg (by simp [hunbound])]
  by_cases h56 : s.func.state = 5 ∨ s.func.state = 6
  · refine ⟨s.answerTo m 0x3A 0 0 [], by rw [← hfunc], ?_⟩
    rw [if_pos (by simpa using h56)]
  · obtain ⟨hforce, h2⟩ : force = true ∧ s.func.state ≤ 2 := by
      rcases hst with h | h | h
      · exact absurd (.inl h) h56
      · exact absurd (.inr h) h56
      · exact h
    rw [if_neg (by simpa using h56), if_neg (by simp [hforce]), State.forceDown_low (by rw [hfunc]; exact h2), State.noteDown, hfunc]
    exact ⟨_, rfl, rfl⟩

section Command

variable {s : State} {m : Manager} (hs : s.serves m false = true) (hl : s.linkUp m = true)
include hs hl

theorem State.powerDown_unbound (hb : ¬s.managerBound m) (force : Bool) :
    s.OnlyAnswers (s.manage m false fun s => s.powerDown m force) m (answerBytes 0x3A 4 0 []) := by
  refine State.manage_only hs hl ?_
  exact if_pos (State.unbound_of_not hb)

theorem State.powerUp_unbound (hb : ¬s.managerBound m) :
    s.OnlyAnswers (s.manage m false fun s => s.powerUp m) m (answerBytes 0x3B 4 0 []) := by
  refine State.manage_only hs hl ?_
  exact if_pos (State.unbound_of_not hb)

theorem State.powerDown_busy (hb : s.managerBound m) (h5 : s.func.state ≠ 5) (h6 : s.func.state ≠ 6) :
    s.OnlyAnswers (s.manage m false fun s => s.powerDown m false) m (answerBytes 0x3A 6 0 []) := by
  refine State.manage_only hs hl ?_
  unfold State.powerDown
  simp [State.unbound_of_bound hb, h5, h6]

theorem State.powerDown_now {force : Bool} (hb : s.managerBound m)
    (hst : s.func.state = 5 ∨ s.func.state = 6 ∨ force = true ∧ s.func.state ≤ 2) :
    let t := s.manage m false fun s => s.powerDown m force
    (s.answersNow m → s.Answers t m (answerBytes 0x3A 0 0 [])) ∧
      (s.power.regulators = true → s.MainOff t ∧ t.power.tripped = false) ∧
      (s.power.regulators = false → t.power = { s.power with heldDown := true } ∧ (∀ p, (s.port p).Transmits (t.port p)) ∧
        t = { s with power := t.power, func := { s.func with downAfter := t.func.downAfter }, ports := t.ports, smbus := t.smbus }) := by
  intro t
  obtain ⟨hans, hframe, htr⟩ := s.answerTo_spec m 0x3A 0 0 [] hl
  obtain ⟨u, hu, hdown⟩ := State.powerDown_held hl hb hst
  have ht : t = u.holdDown.creditBack m := by
    rw [← hdown]
    exact if_pos hs
  clear_value t
  subst ht
  generalize s.answerTo m 0x3A 0 0 [] = v at hans hframe htr hu
  have hus : u = { s with ports := u.ports, smbus := u.smbus, func := { s.func with downAfter := u.func.downAfter } } := by
    rw [hu, hframe]
  have hutr : ∀ p, (s.port p).Transmits (u.port p) := fun p => by
    rw [hu]
    exact htr p
  obtain ⟨hkeep, hrest⟩ := State.holdDown_credit m hus hutr
  have hvu : v.KeepsSent u := by
    rw [hu]
    exact .withFunc v _
  exact ⟨fun hn => hans.keepsSent hn (hvu.trans hkeep), hrest⟩

/-- By force, a running module goes through an abort. -/
theorem State.powerDown_abort (hb : s.managerBound m) (h3 : s.func.state = 3) :
    let t := s.manage m false fun s => s.powerDown m true
    (s.answersNow m → s.Answers t m (answerBytes 0x3A 0 0 [])) ∧ t.downOrStopping := by
  intro t
  obtain ⟨hans, hframe, -⟩ := s.answerTo_spec m 0x3A 0 0 [] hl
  have hunbound := State.unbound_of_bound hb
  obtain ⟨u, hu, ht⟩ : ∃ u : State, u = { s.answerTo m 0x3A 0 0 [] with func := { s.func with downAfter := true } } ∧
      t = (u.stopBegin true).creditBack m := by
    have hfunc : (s.answerTo m 0x3A 0 0 []).func = s.func := (congrArg State.func hframe :)
    have hdown : s.powerDown m true = ((s.answerTo m 0x3A 0 0 []).noteDown true).stopBegin true := by
      rw [State.powerDown_eq, if_neg (by simp [hunbound]), if_neg (by simp [h3]), if_neg (by decide),
        State.forceDown_running (by rw [hfunc]; exact h3)]
    rw [State.noteDown, hfunc] at hdown
    exact ⟨_, rfl, (if_pos hs).trans (congrArg (fun x : State => x.creditBack m) hdown)⟩
  clear_value t
  subst ht
  generalize s.answerTo m 0x3A 0 0 [] = v at hans hu
  obtain ⟨hkeep, hend⟩ := State.stopBegin_down (s := u) (by rw [hu])
  have hvu : v.KeepsSent u := by
    rw [hu]
    exact .withFunc v _
  refine ⟨fun hn => hans.keepsSent hn (hvu.trans (hkeep.trans (.credit _ m))), ?_⟩
  rw [State.downOrStopping, ((u.stopBegin true).creditBack_spec m).1]
  exact hend

end Command

/-- Start-up sends no message and takes none back. -/
theorem State.tryIdle_sent (s : State) (cause : Nat) :
    (∀ p, ((s.tryIdle cause).port p).sent = (s.port p).sent ∧ ((s.tryIdle cause).port p).held = (s.port p).held) ∧
      (s.tryIdle cause).smbus = s.smbus := by
  by_cases h : s.mayIdle
  · obtain ⟨hst, -⟩ := State.tryIdle_starts h cause
    exact ⟨fun p => ⟨(congrArg Port.sent (hst.ports p) :), (congrArg Port.held (hst.ports p) :)⟩, (congrArg State.smbus hst.rest :)⟩
  · rw [State.tryIdle_not h]
    exact ⟨fun _ => ⟨rfl, rfl⟩, rfl⟩

/-- An answer stays one where its port keeps what it sent and holds. -/
theorem State.Answers.mono {s t u : State} {m : Manager} {bs : List Byte} (h : s.Answers t m bs) (hl : s.linkUp m = true)
    (h1 : ∀ p, (t.port p).sent <+: (u.port p).sent) (h2 : ∀ p, (t.port p).held = (u.port p).held) (h3 : u.smbus = t.smbus) :
    s.Answers u m bs := by
  match m, h, hl with
  | .port p tag, h, hl => exact State.Sends.mono h hl (h1 p) (by rw [h2 p])
  | .smbus _, h, _ => exact h3.trans h
  | .smbusRecovery _, h, _ => exact h3.trans h

/-- Whether start-up may begin is no matter of answers. -/
theorem State.mayIdle_congr {s t : State} (hp : t.power = s.power) (hf : t.func = s.func) (hl : t.sensorLevel = s.sensorLevel) :
    t.mayIdle ↔ s.mayIdle := by rw [State.mayIdle, State.mayIdle, hp, hf, hl]

/-- A start stays one when answers are sent before and after it. -/
theorem State.Started.answered {u v w t : State} (h : v.Started w) (hv : v = { u with ports := v.ports, smbus := v.smbus })
    (ht : t = { w with ports := t.ports }) : u.Started t := by
  obtain ⟨hend, hawake, hrun, hframe⟩ := h
  have hf : t.func = w.func := by rw [ht]
  have hp : ∀ p, t.pier p = w.pier p := fun p => by
    rw [ht]
    rfl
  have hw : t.waitingSubs = w.waitingSubs := by rw [ht]
  refine ⟨by rw [hf]; exact hend, fun p => by rw [hp]; exact hawake p, fun h3 => ?_, ?_⟩
  · obtain ⟨hws, hpiers⟩ := hrun (by rw [← hf]; exact h3)
    exact ⟨by rw [hw]; exact hws, fun p => by rw [hp, hf]; exact hpiers p⟩
  · rw [ht, hframe, hv]

/-- POWER_UP: the hold ends, and a module that may start does. -/
theorem State.powerUp_spec {s : State} {m : Manager} (hs : s.serves m false = true) (hl : s.linkUp m = true) (hb : s.managerBound m) :
    let t := s.manage m false fun s => s.powerUp m
    let u : State := { s with power := { s.power with heldDown := false } }
    s.Answers t m (answerBytes 0x3B 0 0 []) ∧ (¬u.mayIdle → t = { u with ports := t.ports, smbus := t.smbus }) ∧
      (u.mayIdle → t.power = { u.power with regulators := true } ∧ u.Started t) := by
  intro t u
  have hunbound := State.unbound_of_bound hb
  obtain ⟨hans, hframe, -⟩ := u.answerTo_spec m 0x3B 0 0 [] hl
  have ht : t = ((u.answerTo m 0x3B 0 0 []).tryIdle 0).creditBack m := by
    have hup : s.powerUp m = (u.answerTo m 0x3B 0 0 []).tryIdle 0 := if_neg (by simp [hunbound])
    exact (if_pos hs).trans (congrArg (fun x : State => x.creditBack m) hup)
  have hus : ∀ v bs, u.Answers v m bs → s.Answers v m bs := fun v bs h => by
    match m, h with
    | .port p tag, h => exact h
    | .smbus _, h => exact h
    | .smbusRecovery _, h => exact h
  clear_value t
  generalize u.answerTo m 0x3B 0 0 [] = v at hans hframe ht
  have hpower : v.power = u.power := by rw [hframe]
  have hidle : v.mayIdle ↔ u.mayIdle := State.mayIdle_congr hpower (by rw [hframe]) (by rw [hframe])
  obtain ⟨hsent, hsmbus⟩ := v.tryIdle_sent 0
  obtain ⟨hcframe, -, hcsent, hcheld⟩ := (v.tryIdle 0).creditBack_spec m
  rw [← ht] at hcframe hcsent hcheld
  refine ⟨(hus v _ hans).mono hl (fun p => ?_) (fun p => ?_) ?_, fun hno => ?_, fun hyes => ?_⟩
  · rw [← (hsent p).1]
    exact hcsent p
  · rw [hcheld, (hsent p).2]
  · rw [hcframe]
    exact hsmbus
  · rw [State.tryIdle_not (fun h => hno (hidle.mp h))] at hcframe
    rw [hcframe, hframe]
  · obtain ⟨hp, hst⟩ := State.tryIdle_started (hidle.mpr hyes) 0
    refine ⟨?_, hst.answered hframe hcframe⟩
    have htp : t.power = (v.tryIdle 0).power := (congrArg State.power hcframe :)
    rw [htp, hp, hpower]

/-- Settles O56: the standby supply, the supplies and pins that let a module start or trip it, and the two commands of R525. -/
theorem power : Obligations.power := by
  unfold Obligations.power
  refine ⟨fun s => ⟨fun h => ?_, fun h => ⟨_, rfl, State.standbyUp_spec h⟩, fun h => ?_, fun h => ?_⟩, fun s => ?supplies,
    fun m force s => ?commands⟩
  · exact congrArg Host.Outcome.next (if_pos h)
  · exact congrArg Host.Outcome.next (if_pos (by simp [h]))
  · have hoff := State.standbyLost_off h
    obtain ⟨hup, hb, hd⟩ := hoff.skovs
    obtain ⟨hspares, hretired, hdegraded⟩ := hoff.links
    obtain ⟨hlog0, hlog1, hcount⟩ := hoff.logs
    exact ⟨_, rfl, hoff.tick, hoff.func, hoff.power, hoff.queues, hoff.requests, hoff.session, hoff.held, hoff.counters, hoff.mem, hup, hb,
      hd, hoff.piers, hoff.ports, hspares, hretired, hdegraded, hlog0, hlog1, hcount, hoff.flash⟩
  case supplies =>
    intro begins ends
    have hbegins : ∀ (c : Instr) (power : Power), (exec c s = .next (State.tryIdle { s with power := power } 1)) → begins c power :=
      fun c power hc => ⟨fun h => hc.trans (congrArg Host.Outcome.next (State.tryIdle_not h 1)),
        fun h => ⟨_, hc, State.tryIdle_started h 1⟩⟩
    have hends : ∀ (c : Instr) (power : Power), power.regulators = s.power.regulators →
        (exec c s = .next (State.supplyBad { s with power := power })) → ends c power := fun c power hp hc =>
      ⟨fun h => hc.trans (congrArg Host.Outcome.next (State.supplyBad_off (hp.trans h))),
        fun h => ⟨_, hc, State.supplyBad_mainOff (hp.trans h)⟩⟩
    exact ⟨hbegins _ _ rfl, hbegins _ _ rfl, hends _ _ rfl rfl, hends _ _ rfl rfl, hends _ _ rfl rfl⟩
  case commands =>
    refine ⟨fun hs => ⟨?_, ?_⟩, fun hs hl => ?_⟩
    · exact congrArg Host.Outcome.next (if_neg (by simp [hs]))
    · exact congrArg Host.Outcome.next (if_neg (by simp [hs]))
    · intro may now
      refine ⟨fun hb => ⟨⟨_, rfl, State.powerDown_unbound hs hl hb force⟩, ⟨_, rfl, State.powerUp_unbound hs hl hb⟩⟩,
        fun hb hf h5 h6 => ?_, fun hb hst => ⟨_, rfl, State.powerDown_now hs hl hb hst⟩, fun hb hf h3 => ?_,
        fun hb => ⟨_, rfl, State.powerUp_spec hs hl hb⟩⟩
      · subst hf
        exact ⟨_, rfl, State.powerDown_busy hs hl hb h5 h6⟩
      · subst hf
        exact ⟨_, rfl, State.powerDown_abort hs hl hb h3⟩

end Sys2Proof.Machine
end

section
/-! SUPPORT. The head of a stream queue (R24, R38, R51): reading it after a change of the queue, and what such a change leaves. -/

namespace Sys2Proof.Machine

/-- Settles O1: `step` on a queue with a command in front is, by its definition, that command over the rest. -/
theorem stepRunsFront : Obligations.step_runs_front := by
  intro c rest s
  rfl

/-! ## The head of a queue -/

theorem State.queue_of_head {s : State} {q : QKey} {x : QEntry} (h : s.head q = some x) : s.queue q = x :: (s.queue q).tail := by
  unfold State.head at h
  cases hq : s.queue q with
  | nil => simp [hq] at h
  | cons y ys => simp_all

theorem State.head_of_queue {s : State} {q : QKey} {x : QEntry} {xs : List QEntry} (h : s.queue q = x :: xs) : s.head q = some x := by
  rw [State.head, h]
  rfl

theorem State.head_congr {s t : State} {q : QKey} (h : t.queue q = s.queue q) : t.head q = s.head q := by
  rw [State.head, State.head, h]

theorem State.queue_congr {s t : State} (h : t.queues = s.queues) (q : QKey) : t.queue q = s.queue q := by
  rw [State.queue, State.queue, h]

/-- Queues, and what else reads no more of the state, do not see the piers. -/
@[simp] theorem State.queue_updPier (s : State) (p : PierId) (f : Pier → Pier) (q : QKey) : (s.updPier p f).queue q = s.queue q := rfl
@[simp] theorem State.head_updPier (s : State) (p : PierId) (f : Pier → Pier) (q : QKey) : (s.updPier p f).head q = s.head q := rfl

/-- A queue that is listed stays at its place in the list when its entries are replaced, so that only the last of two changes counts. -/
theorem State.setQueue_setQueue (s : State) (q : QKey) {es fs : List QEntry} (he : es ≠ []) (hf : fs ≠ [])
    (hq : s.queue q ≠ []) : (s.setQueue q es).setQueue q fs = s.setQueue q fs := by
  have he' : es.isEmpty = false := by simpa using he
  have hf' : fs.isEmpty = false := by simpa using hf
  have hany : s.queues.any (fun x => x.key == q) = true := by
    rw [State.queue_eq] at hq
    cases hfind : s.queues.find? fun x => x.key == q with
    | none => simp [hfind] at hq
    | some x => exact List.any_eq_true.mpr ⟨x, List.mem_of_find?_eq_some hfind, by simpa using List.find?_some hfind⟩
  have hany' : (s.queues.map fun x => if x.key == q then { x with entries := es } else x).any (fun x => x.key == q) = true := by
    rw [List.any_map]
    refine hany ▸ congrArg s.queues.any (funext fun x => ?_)
    simp only [Function.comp]
    split <;> rfl
  simp only [State.setQueue, he', hf', hany, hany', Bool.false_eq_true, if_false, if_true, List.map_map]
  congr 1
  refine List.map_congr_left fun x _ => ?_
  by_cases hx : x.key = q <;> simp [hx]

section Head
variable {s : State} {q : QKey} {x : QEntry} (hx : s.head q = some x)
include hx

theorem State.updHead_eq (f : QEntry → QEntry) : s.updHead q f = s.setQueue q (f x :: (s.queue q).tail) := by
  rw [State.updHead, State.queue_of_head hx]
  rfl

theorem State.queue_updHead (f : QEntry → QEntry) : (s.updHead q f).queue q = f x :: (s.queue q).tail := by
  rw [State.updHead_eq hx, State.queue_setQueue s q (by simp)]

theorem State.head_updHead (f : QEntry → QEntry) : (s.updHead q f).head q = some (f x) :=
  State.head_of_queue (State.queue_updHead hx f)

theorem State.updHead_updHead (f g : QEntry → QEntry) : (s.updHead q f).updHead q g = s.updHead q fun y => g (f y) := by
  rw [State.updHead_eq (State.head_updHead hx f), State.queue_updHead hx, State.updHead_eq hx, State.updHead_eq hx]
  exact s.setQueue_setQueue q (by simp) (by simp) (by rw [State.queue_of_head hx]; simp)

end Head

theorem State.queue_updHead_ne (s : State) {q k : QKey} (f : QEntry → QEntry) (h : k ≠ q) : (s.updHead q f).queue k = s.queue k := by
  unfold State.updHead
  split
  · rfl
  · exact s.queue_setQueue_ne _ h

theorem State.updHead_frame (s : State) (q : QKey) (f : QEntry → QEntry) : s.updHead q f = { s with queues := (s.updHead q f).queues } := by
  unfold State.updHead
  split
  · rfl
  · exact s.setQueue_frame q _

@[simp] theorem State.pier_setQueue (s : State) (q : QKey) (es : List QEntry) (p : PierId) : (s.setQueue q es).pier p = s.pier p := by
  rw [State.setQueue_frame]
  rfl

@[simp] theorem State.pier_updHead (s : State) (q : QKey) (f : QEntry → QEntry) (p : PierId) : (s.updHead q f).pier p = s.pier p := by
  rw [State.updHead_frame]
  rfl

/-- A queue emptied has no entries, and the others keep theirs. -/
theorem State.queue_setQueue_nil (s : State) (q : QKey) : (s.setQueue q []).queue q = [] := by
  have hf : (s.queues.filter fun x => x.key != q).find? (fun x => x.key == q) = none :=
    List.find?_eq_none.mpr fun x hx hkey => by simp_all
  rw [State.queue_eq]
  simp [State.setQueue, hf]

theorem State.queue_popHead (s : State) (q : QKey) : (s.popHead q).queue q = (s.queue q).tail := by
  unfold State.popHead
  cases h : (s.queue q).tail with
  | nil => exact s.queue_setQueue_nil q
  | cons y ys => exact s.queue_setQueue q (by simp)

end Sys2Proof.Machine
end

section
/-! SUPPORT. What a sequencer holds on a stream (R82, R108): its line after a header or share joins or leaves it, and the way of a share. -/

namespace Sys2Proof.Machine

/-! ## Lines -/

@[simp] theorem Pier.line_setLine (p : Pier) (c stream : Nat) (ks : List QKey) : (p.setLine c stream ks).line c stream = ks := by
  cases ks with
  | cons k ks => simp [Pier.setLine, Pier.line]
  | nil =>
    have hnone : (p.lines.filter fun l => !(l.course == c && l.stream == stream)).find? (fun l => l.course == c && l.stream == stream) =
        none := List.find?_eq_none.mpr fun l hl hkey => by simp_all
    simp only [Pier.line, Pier.setLine, List.isEmpty_nil, if_true, hnone]

theorem Pier.line_setLine_ne (p : Pier) {c d stream st : Nat} (ks : List QKey) (h : ¬(d = c ∧ st = stream)) :
    (p.setLine c stream ks).line d st = p.line d st := by
  have hfilter : (p.lines.filter fun l => !(l.course == c && l.stream == stream)).find? (fun l => l.course == d && l.stream == st) =
      p.lines.find? fun l => l.course == d && l.stream == st := by
    rw [List.find?_filter]
    congr 1
    funext l
    by_cases hl : l.course = d ∧ l.stream = st
    · obtain ⟨rfl, rfl⟩ := hl
      simpa using not_and_or.mp h
    · simp only [not_and] at hl
      by_cases hd : l.course = d <;> simp [hd, hl]
  have hnew : (c == d && stream == st) = false := by
    by_cases hd : c = d
    · simpa [hd] using fun e => h ⟨hd.symm, e.symm⟩
    · simp [hd]
  unfold Pier.line Pier.setLine
  cases ks with
  | nil => simp only [List.isEmpty_nil, if_true, hfilter]
  | cons k ks => simp only [List.isEmpty_cons, Bool.false_eq_true, if_false, List.find?_cons, hnew, hfilter]

/-- A queue's first entry leaves every sequencer of a list that it stands at, and no other. -/
theorem Pier.line_leaveLines (stream : Nat) (q : QKey) {c st : Nat} (cs : List Nat) :
    ∀ p : Pier, cs.Nodup → (p.leaveLines cs stream q).line c st =
      if c ∈ cs ∧ st = stream then (p.line c st).erase q else p.line c st := by
  induction cs with
  | nil => intro p _; simp [Pier.leaveLines]
  | cons d ds ih =>
    intro p hnodup
    obtain ⟨hd, hds⟩ := List.nodup_cons.mp hnodup
    have hstep : p.leaveLines (d :: ds) stream q = (p.setLine d stream ((p.line d stream).erase q)).leaveLines ds stream q := rfl
    rw [hstep, ih _ hds]
    by_cases hcd : c = d ∧ st = stream
    · obtain ⟨rfl, rfl⟩ := hcd
      simp [hd]
    · rw [p.line_setLine_ne _ hcd]
      by_cases hc : c = d
      · simp_all
      · simp [hc]

theorem Pier.leaveLines_lines (p : Pier) (cs : List Nat) (stream : Nat) (q : QKey) :
    p.leaveLines cs stream q = { p with lines := (p.leaveLines cs stream q).lines } := by
  unfold Pier.leaveLines
  induction cs generalizing p with
  | nil => rfl
  | cons c cs ih => exact ih (p.setLine c stream ((p.line c stream).erase q))

/-- What heads a line leaves the rest of it. -/
theorem Pier.erase_of_front {p : Pier} {c stream : Nat} {q : QKey} (h : p.front c stream = some q) :
    (p.line c stream).erase q = (p.line c stream).tail := by
  unfold Pier.front at h
  cases hl : p.line c stream with
  | nil => simp [hl] at h
  | cons k ks => simp_all

theorem Pier.mem_line_of_front {p : Pier} {c stream : Nat} {q : QKey} (h : p.front c stream = some q) : q ∈ p.line c stream :=
  List.mem_of_mem_head? h

/-! ## Several piers changed, each by itself -/

theorem State.foldl_updPier_frame (f : PierId → Pier → Pier) (ps : List PierId) :
    ∀ s : State, ps.foldl (fun s p => s.updPier p (f p)) s = { s with piers := (ps.foldl (fun s p => s.updPier p (f p)) s).piers } := by
  induction ps with
  | nil => intro s; rfl
  | cons p ps ih => intro s; exact ih (s.updPier p (f p))

theorem State.pier_foldl_updPier (f : PierId → Pier → Pier) (r : PierId) (ps : List PierId) :
    ∀ s : State, ps.Nodup → (ps.foldl (fun s p => s.updPier p (f p)) s).pier r = if r ∈ ps then f r (s.pier r) else s.pier r := by
  induction ps with
  | nil => intro s _; rfl
  | cons p ps ih =>
    intro s hnodup
    obtain ⟨hp, hps⟩ := List.nodup_cons.mp hnodup
    rw [List.foldl_cons, ih _ hps]
    by_cases hr : r = p
    · subst hr
      simp [hp]
    · simp [State.pier_updPier_ne s _ hr, hr]

/-! ## The way of a share -/

/-- Work of sequencers alone passes at most the pier's own. -/
theorem sharePath_sequencers (q : QKey) {h : Header} (hu : usesCourses h = false) :
    sharePath q h = if unitLevel q.unit.toNat > 3 then [52] else [] := by
  simp [sharePath, hu]

/-- A list's fold that each element leaves where it is. -/
theorem foldl_still {α β : Type} (f : β → α → β) (b : β) (l : List α) (h : ∀ a ∈ l, f b a = b) : l.foldl f b = b := by
  induction l with
  | nil => rfl
  | cons a l ih =>
    rw [List.foldl_cons, h a List.mem_cons_self]
    exact ih fun c hc => h c (List.mem_cons_of_mem a hc)

/-- A share that stands in every queue of its way goes no further. -/
theorem State.descend_still {s : State} {q : QKey} {h : Header} {p : PierId}
    (hin : ∀ c ∈ sharePath q h, q ∈ (s.pier p).line c h.stream) : s.descend q h p = s := by
  refine foldl_still _ s _ fun c hc => ?_
  simp [hin c hc]

/-- A share has begun, and has run, needs not run, or stands in every queue of its way. -/
def State.shareStands (s : State) (q : QKey) (x : QEntry) (p : PierId) : Prop :=
  p ∈ x.begun ∧ (p ∈ x.piers ∨ s.outside q x.hdr p = true ∨ ∀ c ∈ sharePath q x.hdr, q ∈ (s.pier p).line c x.hdr.stream)

theorem State.beginShare_still {s : State} {q : QKey} {x : QEntry} {p : PierId} (hx : s.head q = some x) (h : s.shareStands q x p) :
    s.beginShare q x p = s := by
  obtain ⟨hbegun, hstand⟩ := h
  have hb : x.begun.contains p = true := by simpa using hbegun
  unfold State.beginShare
  rw [hx]
  simp only [hb, if_true]
  split
  · rfl
  · next hout =>
    simp only [Bool.or_eq_true, not_or, Bool.not_eq_true, List.contains_eq_mem, decide_eq_false_iff_not] at hout
    obtain hran | hskip | hline := hstand
    · exact absurd hran hout.2
    · rw [hout.1] at hskip
      cases hskip
    · exact State.descend_still hline

theorem State.beginShares_still {s : State} {q : QKey} {x : QEntry} (hx : s.head q = some x) (h : ∀ p ∈ x.shares, s.shareStands q x p) :
    s.beginShares q = s := by
  unfold State.beginShares
  rw [hx]
  dsimp only
  split
  · rfl
  · exact foldl_still _ s _ fun p hp => State.beginShare_still hx (h p hp)

/-- A share whose turn has come stands at the head of every queue of its way. -/
theorem State.front_of_shareTurn {s : State} {q : QKey} {h : Header} {p : PierId} (ht : s.shareTurn q h p = true)
    (hout : s.outside q h p = false) {c : Nat} (hc : c ∈ sharePath q h) : (s.pier p).front c h.stream = some q := by
  have hfront : (s.pier p).shareFront q h = true := by
    simp only [State.shareTurn, hout, Bool.false_or, Bool.and_eq_true] at ht
    exact ht.1.1.1.1
  simpa using List.all_eq_true.mp hfront c hc

theorem State.shareStands_of_turn {s : State} {q : QKey} {x : QEntry} {p : PierId} (hb : p ∈ x.begun)
    (ht : s.shareTurn q x.hdr p = true) : s.shareStands q x p := by
  refine ⟨hb, .inr ?_⟩
  cases hout : s.outside q x.hdr p with
  | true => exact .inl rfl
  | false => exact .inr fun c hc => Pier.mem_line_of_front (State.front_of_shareTurn ht hout hc)

end Sys2Proof.Machine
end

section
/-! SUPPORT. WAIT and SIGNAL (R50, R53, R56, R62, R63, R108): a header performed whose shares may all run, and the test-and-set sent. -/

namespace Sys2Proof.Machine

/-! ## A keystone operation sent by a sequencer -/

/-- The route between two piers ends on a link of the second (R18, R21). -/
theorem pathEdges_arrives {p d : PierId} (h : p ≠ d) : pathEdges p d ≠ [] ∧ arrivesAt (pathEdges p d) d := by
  have hall : ∀ p d : PierId, p ≠ d → (pathEdges p d).isEmpty = false ∧
      (pathEdges p d).getLast?.all (fun e => (edgeLinks e.1).all fun l => 8 + (linkEnds d).idxOf l < 20) = true := by decide
  obtain ⟨hne, harr⟩ := hall p d h
  refine ⟨by simpa using hne, fun e he l hl => ?_⟩
  rw [he] at harr
  simpa using (List.all_eq_true.mp harr) l hl

/-- A sequencer sends from one of its pier's requester ports (R412). -/
theorem State.keyFrom_port (s : State) (h : Header) : ∃ p port, s.keyFrom h = .pier p port ∧ port < 20 := by
  have hwall : fld h.unit 9 8 < 4 := Nat.mod_lt _ (by decide)
  unfold State.keyFrom
  dsimp only
  split <;> exact ⟨_, _, rfl, by grind⟩

theorem State.sendKey_pier_sent (s : State) (p : PierId) {port : Nat} (hport : port < 20) (key kind operand : Nat) (answer : TasAnswer) :
    s.KeySent (s.sendKey (.pier p port) key kind operand answer) key kind operand answer := by
  unfold State.sendKey
  dsimp only
  split
  · exact s.keyArrive_sent key kind operand answer hport
  · next hne =>
    obtain ⟨hpath, harr⟩ := pathEdges_arrives (p := p) (d := keyPier key) (by simpa using hne)
    exact s.keyTravel_sent key kind operand answer _ 0 port (fun h => absurd h hpath) harr

theorem State.sendKey_sequencer_sent (s u : State) (h : Header) (key kind operand : Nat) (answer : TasAnswer) :
    s.KeySent (s.sendKey (u.keyFrom h) key kind operand answer) key kind operand answer := by
  obtain ⟨p, port, hfrom, hport⟩ := u.keyFrom_port h
  rw [hfrom]
  exact s.sendKey_pier_sent p hport key kind operand answer

/-! ## A header whose shares may all run -/

theorem State.canRun.stands {s : State} {q : QKey} {op : Nat} {x : QEntry} (h : s.canRun q op x) : ∀ p ∈ x.shares, s.shareStands q x p := by
  obtain ⟨-, -, -, -, -, hbegun, hturn⟩ := h
  intro p hp
  by_cases hran : p ∈ x.piers
  · exact ⟨hbegun p hp, .inl hran⟩
  · have hleft : p ∈ x.left := List.mem_filter.mpr ⟨hp, by simpa using hran⟩
    exact State.shareStands_of_turn (hbegun p hp) (hturn p hleft).1

/-- It is performed by its shares in order, each of which then leaves its sequencers. -/
theorem State.runOp_canRun {s : State} {q : QKey} {op : Nat} {x : QEntry} (h : s.canRun q op x) (share : State → Env → Out) :
    s.runOp q op share = (x.left.foldl (fun (s : State) p => s.afterShare q x p) (s.allShares q x share).1).updHead q
      fun _ => { (s.allShares q x share).2 with phase := .ran } := by
  have hstands := h.stands
  obtain ⟨hx, hready, hop, hheld, -, hbegun, hturn⟩ := h
  have hlist : (x.shares.filter fun p => !x.piers.contains p) = x.left := rfl
  have hall : (x.left.filter fun p => x.begun.contains p && s.shareTurn q x.hdr p) = x.left := by
    refine List.filter_eq_self.mpr fun p hp => ?_
    have hb : p ∈ x.begun := hbegun p (List.mem_of_mem_filter hp)
    simp [hb, (hturn p hp).1]
  have hfree : (x.left.filter fun p => s.outside q x.hdr p || !s.needsTable (s.envAt p q x)) = x.left :=
    List.filter_eq_self.mpr fun p hp => by simpa using (hturn p hp).2
  have htake : s.allShares q x share = x.left.foldl (fun (a : State × QEntry) p => State.runShare share q x a p) (s, x) := by
    rw [State.allShares, State.shares, List.take_length]
  unfold State.runOp
  rw [hx]
  simp only [hready, hop, hheld, bne_self_eq_false, Bool.or_self, Bool.false_eq_true, if_false, State.beginShares_still hx hstands, hx,
    hlist, hall, hfree, beq_self_eq_true, if_true, htake]

/-- WAIT's shares do nothing, where no pier stands outside its class. -/
theorem State.noShares_eq (s : State) (q : QKey) (x : QEntry) (ps : List PierId) (hout : ∀ p ∈ ps, s.outside q x.hdr p = false) :
    ∀ y : QEntry, ps.foldl (fun (a : State × QEntry) p => State.runShare State.noShare q x a p) (s, y) =
      (s, { y with piers := y.piers ++ ps }) := by
  induction ps with
  | nil => intro y; simp
  | cons p ps ih =>
    intro y
    have hone : State.runShare State.noShare q x (s, y) p = (s, { y with piers := y.piers ++ [p] }) := by
      simp [State.runShare, hout p List.mem_cons_self, State.noShare, Out.of, QEntry.join, joinLines]
    rw [List.foldl_cons, hone, ih fun r hr => hout r (List.mem_cons_of_mem p hr)]
    simp [List.append_assoc]

/-- After a header of sequencers alone, where none of its shares passed one, nothing is left to do. -/
theorem State.afterShare_sequencers (s : State) (q : QKey) {x : QEntry} (p : PierId) (hop : x.hdr.opcode = 0x13 ∨ x.hdr.opcode = 0x14) :
    s.afterShare q x p = s.updPier p (·.leaveLines (sharePath q x.hdr) x.hdr.stream q) := by
  unfold State.afterShare
  obtain hop | hop := hop <;> simp only [hop]

theorem State.wait_performed {q : QKey} {s : State} {x : QEntry} (h : s.canRun q 0x14 x) (hl : unitLevel q.unit.toNat ≤ 3 ∨ x.left = []) :
    s.runOp q 0x14 State.noShare = s.setQueue q ({ x with phase := .ran, piers := x.piers ++ x.left } :: (s.queue q).tail) := by
  have hx : s.head q = some x := h.1
  have hop : x.hdr.opcode = 0x14 := h.2.2.1
  have hout : ∀ p ∈ x.left, s.outside q x.hdr p = false := by
    intro p hp
    obtain hl | hl := hl
    · simp [State.outside, Nat.not_lt.mpr hl]
    · simp [hl] at hp
  have hshares : s.allShares q x State.noShare = (s, { x with piers := x.piers ++ x.left }) := by
    rw [State.allShares, State.shares, List.take_length]
    exact s.noShares_eq q x x.left hout x
  have hafter : x.left.foldl (fun (s : State) p => s.afterShare q x p) s = s := by
    refine foldl_still _ s _ fun p hp => ?_
    have hpath : sharePath q x.hdr = [] := by
      obtain hl | hl := hl
      · rw [sharePath_sequencers q (by simp [usesCourses, hop]), if_neg (Nat.not_lt.mpr hl)]
      · simp [hl] at hp
    rw [State.afterShare_sequencers s q p (.inr hop), hpath]
    exact s.updPier_id p
  rw [State.runOp_canRun h, hshares, hafter, State.updHead_eq hx]

/-! ## SIGNAL -/

/-- The shares of a header gone from the sequencers they stood at. -/
def State.sharesLeft (s : State) (q : QKey) (h : Header) (ps : List PierId) : State :=
  ps.foldl (fun (s : State) p => s.updPier p (·.leaveLines (sharePath q h) h.stream q)) s

theorem State.sharesLeft_frame (s : State) (q : QKey) (h : Header) (ps : List PierId) :
    s.sharesLeft q h ps = { s with piers := (s.sharesLeft q h ps).piers } :=
  State.foldl_updPier_frame (fun _ pr => pr.leaveLines (sharePath q h) h.stream q) ps s

theorem State.pier_sharesLeft (s : State) (q : QKey) (h : Header) {ps : List PierId} (hnodup : ps.Nodup) (r : PierId) :
    (s.sharesLeft q h ps).pier r = if r ∈ ps then (s.pier r).leaveLines (sharePath q h) h.stream q else s.pier r :=
  State.pier_foldl_updPier (fun _ pr => pr.leaveLines (sharePath q h) h.stream q) r ps s hnodup

/-- Only lines change by it. -/
theorem State.sharesLeft_lines (s : State) (q : QKey) (h : Header) {ps : List PierId} (hnodup : ps.Nodup) (r : PierId) :
    { (s.sharesLeft q h ps).pier r with lines := [] } = { s.pier r with lines := [] } := by
  rw [s.pier_sharesLeft q h hnodup]
  split
  · rw [Pier.leaveLines_lines]
  · rfl

/-- A share that ran has left the sequencers of its way, at whose head it stood (R108). -/
theorem State.line_sharesLeft {q : QKey} {s v : State} {x : QEntry} (hop : x.hdr.opcode = 0x13) (hnodup : x.shares.Nodup)
    (hv : ∀ r, v.pier r = s.pier r) {p : PierId} (hp : p ∈ x.shares) (ht : s.shareTurn q x.hdr p = true)
    (hout : s.outside q x.hdr p = false) {c : Nat} (hc : c ∈ sharePath q x.hdr) :
    ((v.sharesLeft q x.hdr x.shares).pier p).line c x.hdr.stream = ((s.pier p).line c x.hdr.stream).tail := by
  have hpath : (sharePath q x.hdr).Nodup := by
    rw [sharePath_sequencers q (by simp [usesCourses, hop])]
    split <;> simp
  rw [v.pier_sharesLeft q x.hdr hnodup, if_pos hp, hv, Pier.line_leaveLines _ _ _ _ hpath, if_pos ⟨hc, rfl⟩]
  exact Pier.erase_of_front (State.front_of_shareTurn ht hout hc)

section Signal
variable {q : QKey} {s : State} {x : QEntry} (hx : s.head q = some x) (hready : x.phase = .ready) (hop : x.hdr.opcode = 0x13)
  (hheld : s.heldBack q x.hdr x.policy x.ops = false)
  (hall : ∀ p ∈ x.shares, p ∈ x.begun ∧ s.shareTurn q x.hdr p = true)
include hx hready hop hheld hall

/-- What a SIGNAL that may run does: the test-and-set goes out, or its shares are over. -/
theorem State.runSignal_eq : s.runSignal q =
    if x.hdr.sigEn && x.hdr.sigOp == 2 then
      let outside := x.shares.filter fun p => s.outside q x.hdr p
      let v := (outside.foldl (fun (s : State) p => s.headerAnomaly p x.hdr) s).sharesLeft q x.hdr x.shares
      let u := v.updHead q fun y => { y with
        phase := .ran, jobs := 1, piers := y.shares, status := if outside.isEmpty then y.status else 1 }
      u.sendKey (u.keyFrom x.hdr) x.hdr.sigKey 2 x.hdr.sigOperand
        (if refOn x.hdr.refD && outside.isEmpty then .element (x.ops.getD 0 .zero) q else .signal q)
    else (s.sharesLeft q x.hdr x.shares).updHead q fun y => { y with phase := .ran, piers := y.shares } := by
  have hstill : s.beginShares q = s :=
    State.beginShares_still hx fun p hp => State.shareStands_of_turn (hall p hp).1 (hall p hp).2
  have hready' : (x.shares.all fun p => x.begun.contains p && s.shareTurn q x.hdr p) = true :=
    List.all_eq_true.mpr fun p hp => by simp [(hall p hp).1, (hall p hp).2]
  have hafter : (fun (s : State) (p : PierId) => s.afterShare q x p) =
      fun (s : State) p => s.updPier p (·.leaveLines (sharePath q x.hdr) x.hdr.stream q) :=
    funext fun s => funext fun p => s.afterShare_sequencers q p (.inl hop)
  unfold State.runSignal
  rw [hx]
  simp only [hready, hop, hheld, bne_self_eq_false, Bool.or_self, Bool.false_eq_true, if_false, hstill, hx, hready', Bool.not_true, hafter,
    State.sharesLeft]

end Signal

/-- Settles O18: a header whose shares may all run is performed by them, and SIGNAL's part is the operation sent behind them. -/
theorem signalAndWait : Obligations.signal_and_wait := by
  refine ⟨fun q s x hrun hl => congrArg Host.Outcome.next (State.wait_performed hrun hl), ?_⟩
  intro q s x hx hready hop hheld hnodup hall left
  have hexec : exec (.signal q) s = .next (s.runSignal q) := rfl
  have heq := State.runSignal_eq hx hready hop hheld hall
  /- A state whose queue's head has been replaced once its shares have left is as `left` says. -/
  have hleft : ∀ (v : State) (f : QEntry → QEntry), v.queues = s.queues → (∀ r, v.pier r = s.pier r) →
      left ((v.sharesLeft q x.hdr x.shares).updHead q f) v ∧
        ((v.sharesLeft q x.hdr x.shares).updHead q f).queue q = f x :: (s.queue q).tail := by
    intro v f hqueues hpiers
    have hw := v.sharesLeft_frame q x.hdr x.shares
    have hline := fun p hp hout c hc => State.line_sharesLeft (c := c) hop hnodup hpiers (p := p) hp (hall p hp).2 hout hc
    have hrest := v.sharesLeft_lines q x.hdr hnodup
    generalize v.sharesLeft q x.hdr x.shares = w at hw hline hrest ⊢
    have hqueue : ∀ k, w.queue k = s.queue k := fun k => State.queue_congr (by rw [hw]; exact hqueues) k
    have hwx : w.head q = some x := (State.head_congr (hqueue q)).trans hx
    refine ⟨⟨fun k hk => (w.queue_updHead_ne f hk).trans (hqueue k), fun p hp hout c hc => ?_, fun p => ?_, ?_⟩, ?_⟩
    · rw [State.pier_updHead]
      exact hline p hp hout c hc
    · rw [State.pier_updHead, hrest, hpiers]
    · rw [State.updHead_frame, hw]
    · rw [State.queue_updHead hwx, hqueue]
  refine ⟨fun hno => ?plain, fun hen hop2 hin => ?inside, fun p hen hop2 hone hout => ?outside⟩
  case plain =>
    have hcond : (x.hdr.sigEn && x.hdr.sigOp == 2) = false := by simpa using hno
    rw [hcond] at heq
    obtain ⟨hl, hq⟩ := hleft s (fun y => { y with phase := .ran, piers := y.shares }) rfl fun _ => rfl
    exact ⟨_, hexec.trans (congrArg Host.Outcome.next heq), hl, hq⟩
  case inside =>
    have hcond : (x.hdr.sigEn && x.hdr.sigOp == 2) = true := by simp [hen, hop2]
    have hnone : (x.shares.filter fun p => s.outside q x.hdr p) = [] :=
      List.filter_eq_nil_iff.mpr fun p hp => by simp [hin p hp]
    rw [hcond, if_pos rfl, hnone] at heq
    simp only [List.foldl_nil, List.isEmpty_nil, if_true, Bool.and_true] at heq
    obtain ⟨hl, hq⟩ := hleft s (fun y => { y with phase := .ran, jobs := 1, piers := y.shares }) rfl fun _ => rfl
    exact ⟨_, _, hexec.trans (congrArg Host.Outcome.next heq), hl, hq, State.sendKey_sequencer_sent _ _ _ _ _ _ _⟩
  case outside =>
    have hcond : (x.hdr.sigEn && x.hdr.sigOp == 2) = true := by simp [hen, hop2]
    have hsome : (x.shares.filter fun p => s.outside q x.hdr p) = [p] := by rw [hone]; simp [hout]
    rw [hcond, if_pos rfl, hsome] at heq
    simp only [List.foldl_cons, List.foldl_nil, List.isEmpty_cons, Bool.and_false, Bool.false_eq_true, if_false] at heq
    have hlog : (s.headerAnomaly p x.hdr).queues = s.queues ∧ (s.headerAnomaly p x.hdr).piers = s.piers := by
      unfold State.headerAnomaly
      rw [State.log_frame]
      exact ⟨rfl, rfl⟩
    obtain ⟨⟨hne, -, hrest, hframe⟩, hq⟩ := hleft (s.headerAnomaly p x.hdr)
      (fun y => { y with phase := .ran, jobs := 1, piers := y.shares, status := 1 }) hlog.1
      fun r => by rw [State.pier, State.pier, hlog.2]
    exact ⟨_, _, hexec.trans (congrArg Host.Outcome.next heq), by rw [hq, hone], hne, hrest, hframe,
      State.sendKey_sequencer_sent _ _ _ _ _ _ _⟩

end Sys2Proof.Machine
end

section
/-! SUPPORT. HEADER_DECODE (R51, R52, R62, R63, R108, R434): the head decoded, its wait evaluated, and what then follows, each step by
itself; and what a change of one queue leaves to be read. -/

namespace Sys2Proof.Machine

/-! ## What does not see a queue -/

/-- Records do not see the queues. -/
theorem State.log_withQueues (s : State) (qs : List Queue) (r : Record) :
    ({ s with queues := qs } : State).log r = { s.log r with queues := qs } := by
  unfold State.log
  split
  · rfl
  · split
    · rfl
    · split <;> rfl

theorem State.setQueue_congr {s t : State} (h : t.queues = s.queues) (q : QKey) (es : List QEntry) :
    (t.setQueue q es).queues = (s.setQueue q es).queues := by
  unfold State.setQueue
  rw [h]
  dsimp only
  split
  · rfl
  · split <;> rfl

theorem State.updHead_congr {s t : State} (h : t.queues = s.queues) (q : QKey) (f : QEntry → QEntry) :
    (t.updHead q f).queues = (s.updHead q f).queues := by
  unfold State.updHead
  rw [State.queue_congr h]
  split
  · exact h
  · exact State.setQueue_congr h q _

theorem State.log_queues (s : State) (r : Record) : (s.log r).queues = s.queues := by rw [State.log_frame]

theorem State.log_updHead (s : State) (q : QKey) (f : QEntry → QEntry) (r : Record) :
    (s.updHead q f).log r = (s.log r).updHead q f := by
  rw [s.updHead_frame, (s.log r).updHead_frame, State.log_withQueues, State.updHead_congr (s.log_queues r)]

theorem State.queue_log (s : State) (r : Record) (q : QKey) : (s.log r).queue q = s.queue q := State.queue_congr (s.log_queues r) q

theorem State.queues_headerAnomaly (s : State) (p : PierId) (h : Header) : (s.headerAnomaly p h).queues = s.queues :=
  State.log_queues _ _

/-- What looks at the other queues alone does not see one of them replaced. -/
theorem State.any_setQueue (s : State) (q : QKey) (es : List QEntry) {P : Queue → Bool} (hP : ∀ y, y.key = q → P y = false) :
    (s.setQueue q es).queues.any P = s.queues.any P := by
  have hfilter : (s.queues.filter fun x => x.key != q).any P = s.queues.any P := by
    rw [List.any_filter]
    refine congrArg s.queues.any (funext fun y => ?_)
    by_cases hy : y.key = q <;> simp [hy, hP]
  have hmap : (s.queues.map fun x => if x.key == q then { x with entries := es } else x).any P = s.queues.any P := by
    rw [List.any_map]
    refine congrArg s.queues.any (funext fun y => ?_)
    by_cases hy : y.key = q
    · have hnew : P { y with entries := es } = false := hP _ hy
      simp only [Function.comp, hy, beq_self_eq_true, if_true, hP y hy]
      exact hy ▸ hnew
    · simp [hy]
  unfold State.setQueue
  dsimp only
  split
  · exact hfilter
  · split
    · exact hmap
    · simp [hP ⟨q, es⟩ rfl]

theorem State.heldBack_updHead (s : State) (q : QKey) (f : QEntry → QEntry) (h : Header) (v : Nat) (ops : List Tens) :
    (s.updHead q f).heldBack q h v ops = s.heldBack q h v ops := by
  have hreads : ∀ (p : PierId) tid single, (s.updHead q f).otherReads q p tid v single = s.otherReads q p tid v single := by
    intro p tid single
    have hsame : (s.updHead q f).uTids = s.uTids := by
      rw [State.updHead_frame]
      rfl
    unfold State.otherReads
    rw [hsame]
    unfold State.updHead
    split
    · rfl
    · exact s.any_setQueue q _ fun y hy => by simp [hy]
  have hrest : (s.updHead q f).sharePiers = s.sharePiers ∧ (s.updHead q f).uTids = s.uTids ∧ (s.updHead q f).pier = s.pier ∧
      (s.updHead q f).quoins = s.quoins ∧ (s.updHead q f).sounding = s.sounding := by
    rw [State.updHead_frame]
    exact ⟨rfl, rfl, rfl, rfl, rfl⟩
  obtain ⟨hshare, htids, hpier, hquoins, hsound⟩ := hrest
  simp only [State.heldBack, hreads, hshare, htids, hpier, hquoins, hsound]

/-- What the module's own reads of memory see (R117, R367, R390). -/
structure State.SameReads (s t : State) : Prop where
  mem : t.mem = s.mem
  cxl : t.cxl = s.cxl

section SameReads
variable {s t : State} (h : s.SameReads t)
include h

theorem State.SameReads.place : t.place = s.place := by
  have hport : t.cxlPort = s.cxlPort := by
    unfold State.cxlPort
    rw [h.cxl]
  unfold State.place
  rw [hport]

theorem State.SameReads.memHome : t.memHome = s.memHome := by
  unfold State.memHome
  rw [h.place]

theorem State.SameReads.rawBytes : t.rawBytes = s.rawBytes := by
  funext a n
  induction n generalizing a with
  | zero => rfl
  | succ n ih => simp only [State.rawBytes, State.rawByte, h.memHome, h.mem, ih]

theorem State.SameReads.rawWord : t.rawWord = s.rawWord := by
  unfold State.rawWord
  rw [h.rawBytes]

theorem State.SameReads.missingIn : t.missingIn = s.missingIn := by
  unfold State.missingIn
  rw [h.memHome]

theorem State.SameReads.tensOf : t.tensOf = s.tensOf := by
  have howner : t.readOwner = s.readOwner := by
    unfold State.readOwner
    rw [h.rawWord]
  unfold State.tensOf
  rw [howner, h.missingIn]

theorem State.SameReads.readTens : t.readTens = s.readTens := by
  have hdesc : t.readDesc = s.readDesc := by
    unfold State.readDesc
    rw [h.rawBytes]
  unfold State.readTens
  rw [hdesc, h.tensOf, h.missingIn]

/-- The tensors of a header's references, with the same free value for what it meets (R117, R132). -/
theorem State.SameReads.readOps (hf : t.free = s.free) (g : Header) (v : Nat) : t.readOps g v = s.readOps g v := by
  simp only [State.readOps, h.readTens, hf]

end SameReads

section UpdHead
variable (s : State) (q : QKey) (f : QEntry → QEntry) (h : Header)

theorem State.SameReads.updHead : s.SameReads (s.updHead q f) := by
  rw [State.updHead_frame]
  exact ⟨rfl, rfl⟩

theorem State.readOps_updHead (v : Nat) : (s.updHead q f).readOps h v = s.readOps h v :=
  (State.SameReads.updHead s q f).readOps (by rw [State.updHead_frame]) h v

theorem State.headerMet_updHead : (s.updHead q f).headerMet h = s.headerMet h := by
  rw [State.updHead_frame]
  rfl

theorem State.unitFailed_updHead : (s.updHead q f).unitFailed h = s.unitFailed h := by
  rw [State.updHead_frame]
  rfl

theorem State.courseFailed_updHead : (s.updHead q f).courseFailed h = s.courseFailed h := by
  rw [State.updHead_frame]
  rfl

end UpdHead

theorem State.headerMet_headerAnomaly (s : State) (p : PierId) (g h : Header) : (s.headerAnomaly p g).headerMet h = s.headerMet h := by
  rw [State.headerAnomaly, State.log_frame]
  rfl

/-! ## The steps of HEADER_DECODE -/

/-- What follows once the wait of a head is met: it is held, ends, or starts (R52, R63, R438, R486). -/
def State.metHead (s : State) (q : QKey) (p : PierId) (x : QEntry) : State :=
  let v := (s.pier p).policy
  let ops := s.readOps x.hdr v
  if !x.malformed && (s.heldBack q x.hdr v ops || (!s.unitFailed x.hdr && s.courseFailed x.hdr)) then s
  else
    let s := if x.hdr.waitInval then s.dropBed x.hdr.unit none else s
    if x.malformed then s.updHead q fun y => { y with phase := .ran, status := 1 }
    else if s.unitFailed x.hdr then s.failHeader q x.hdr p
    else (s.startHeader q x.hdr p v ops).beginShares q

/-- What follows once a head has been decoded: shares begun, or its wait evaluated (R51). -/
def State.evaluateHead (s : State) (q : QKey) (p : PierId) (x : QEntry) : State :=
  if x.phase == .ready then s.beginShares q
  else if x.phase != .met && (x.phase != .waiting || !s.headerMet x.hdr) then s
  else (s.updHead q fun y => { y with phase := .met }).metHead q p x

/-- A head as its decoding leaves it. -/
def QEntry.decoded (x : QEntry) (bad : Bool) : QEntry := { x with phase := .waiting, malformed := bad }

section Decode
variable {s : State} {q : QKey} {x : QEntry} (hx : s.head q = some x)
include hx

theorem State.decodeHead_eq : s.decodeHead q =
    if s.holding || !s.inTurn q || ((s.asleepBefore x.hdr.unit x.hdr.stream).isSome && !s.unitFailed x.hdr) then s
    else if x.phase == .queued then
      let bad := s.malformed x.hdr x.origin (s.queuePier q)
      ((if bad then s.headerAnomaly (s.queuePier q) x.hdr else s).updHead q fun _ => x.decoded bad).evaluateHead q (s.queuePier q)
        (x.decoded bad)
    else s.evaluateHead q (s.queuePier q) x := by
  unfold State.decodeHead
  rw [hx]
  refine if_congr Iff.rfl rfl ?_
  cases x.phase == Phase.queued <;> rfl

section Go
variable (hhold : s.holding = false) (hturn : s.inTurn q = true) (hawake : s.asleepBefore x.hdr.unit x.hdr.stream = none)
include hhold hturn hawake

/-- A head in turn that has been decoded before, at a queue that STOP does not hold and before a domain that runs. -/
theorem State.decodeHead_later (hp : x.phase ≠ .queued) : s.decodeHead q = s.evaluateHead q (s.queuePier q) x := by
  have hp' : (x.phase == .queued) = false := by simpa using hp
  rw [State.decodeHead_eq hx, hhold, hturn, hawake, hp']
  rfl

/-- One that has not. -/
theorem State.decodeHead_first (hp : x.phase = .queued) {bad : Bool} (hb : s.malformed x.hdr x.origin (s.queuePier q) = bad) :
    s.decodeHead q = ((if bad then s.headerAnomaly (s.queuePier q) x.hdr else s).updHead q fun _ => x.decoded bad).evaluateHead q
      (s.queuePier q) (x.decoded bad) := by
  rw [State.decodeHead_eq hx, hhold, hturn, hawake, hp, hb]
  rfl

end Go

end Decode

theorem State.evaluateHead_waits {s : State} {q : QKey} {p : PierId} {x : QEntry} (hp : x.phase = .waiting)
    (hm : s.headerMet x.hdr = false) : s.evaluateHead q p x = s := by
  simp [State.evaluateHead, hp, hm]

theorem State.evaluateHead_met {s : State} {q : QKey} {p : PierId} {x : QEntry}
    (h : x.phase = .met ∨ x.phase = .waiting ∧ s.headerMet x.hdr = true) :
    s.evaluateHead q p x = (s.updHead q fun y => { y with phase := .met }).metHead q p x := by
  obtain h | ⟨h, hm⟩ := h
  · simp [State.evaluateHead, h]
  · simp [State.evaluateHead, h, hm]

section Met
variable {s : State} {q : QKey} {p : PierId} {x : QEntry}

theorem State.metHead_malformed (hm : x.malformed = true) (hi : x.hdr.waitInval = false) :
    s.metHead q p x = s.updHead q fun y => { y with phase := .ran, status := 1 } := by
  unfold State.metHead
  dsimp only
  rw [hm, hi]
  rfl

variable (hm : x.malformed = false)
include hm

theorem State.metHead_held (h : s.heldBack q x.hdr (s.pier p).policy (s.readOps x.hdr (s.pier p).policy) = true ∨
    s.unitFailed x.hdr = false ∧ s.courseFailed x.hdr = true) : s.metHead q p x = s := by
  unfold State.metHead
  dsimp only
  rw [if_pos]
  simpa [hm] using h

variable (hb : s.heldBack q x.hdr (s.pier p).policy (s.readOps x.hdr (s.pier p).policy) = false)
include hb

theorem State.metHead_failed (hi : x.hdr.waitInval = false) (hu : s.unitFailed x.hdr = true) :
    s.metHead q p x = s.failHeader q x.hdr p := by
  unfold State.metHead
  dsimp only
  rw [hm, hb, hi, hu, if_neg (by simp), if_neg Bool.false_ne_true, if_neg Bool.false_ne_true, hu, if_pos rfl]

end Met

/-- A head that has been changed and then ends for a failed domain. -/
theorem State.failHeader_updHead {s : State} {q : QKey} {x : QEntry} (hx : s.head q = some x) (f : QEntry → QEntry) (h : Header)
    (p : PierId) : (s.updHead q f).failHeader q h p = (s.log { hdrRecord s p h 0x0A 3 with detail0 := h.w0.toNat }).updHead q
      fun y => { f y with phase := .ran, status := 1, jobs := 0, malformed := (f y).malformed || (f y).phase != .ran } := by
  have hrecord : hdrRecord (s.updHead q f) p h = hdrRecord s p h := by
    rw [State.updHead_frame]
    rfl
  rw [State.failHeader, hrecord, State.log_updHead,
    State.updHead_updHead ((State.head_congr (s.queue_log _ q)).trans hx)]

/-! ## The counter of a malformed head -/

/-- The counters of the Skovlapers are not those of a pier (R551). -/
theorem pierCtr_ne_skovReg (p : PierId) {k : Nat} (hk : k < 64) (d : Bool) {w : Nat} (hw : w < 0x100) : pierCtr p k ≠ skovReg d w := by
  have hcorner : ∀ q : QuoinId, (cornerPier q).val < 8 := fun q => (cornerPier q).isLt
  have hq := hcorner (if d then 3 else 1)
  have hp := p.isLt
  unfold pierCtr pierReg skovReg quoinReg controlBase
  omega

/-- A record handed over leaves every counter but the active Skovlaper's of those dropped. -/
theorem State.log_counters_get (s : State) (r : Record) {reg : Nat} (h : reg ≠ skovReg s.activeD 0x40) :
    (s.log r).counters.get reg = s.counters.get reg := by
  unfold State.log
  split
  · rfl
  · split
    · rfl
    · split
      · rfl
      · exact Table.get_addSat_ne _ _ h

theorem State.headerAnomaly_counted (s : State) (p : PierId) (h : Header) :
    (s.headerAnomaly p h).counters.get (pierCtr p kHdrAnomaly) =
      min (s.counters.get (pierCtr p kHdrAnomaly) + 1) 0xFFFF_FFFF_FFFF_FFFF := by
  rw [State.headerAnomaly, State.log_counters_get _ _ (pierCtr_ne_skovReg p (by decide) _ (by decide))]
  exact Table.get_addSat _ _ _

/-! ## The statement -/

/-- Settles O19: by the steps of HEADER_DECODE. -/
theorem headerDecoded : Obligations.header_decoded := by
  intro q s x hx p h v out
  have hexec : exec (.headerDecode q) s = .next (s.decodeHead q) := rfl
  have heq := State.decodeHead_eq hx
  /- A head that some replacement of it ends. -/
  have hout : ∀ (u : State) (f : QEntry → QEntry), u.queues = s.queues → s.decodeHead q = u.updHead q f → out u (f x) := by
    intro u f hu hf
    have hux : u.head q = some x := (State.head_congr (State.queue_congr hu q)).trans hx
    rw [State.updHead_eq hux, State.queue_congr hu] at hf
    exact hexec.trans (congrArg Host.Outcome.next hf)
  refine ⟨fun hh => ?_, fun ht => ?_, fun hu ha => ?_, fun hr hs => ?_, fun hh ht ha => ?_, s.headerAnomaly_counted p h⟩
  · rw [hexec, heq, hh]
    rfl
  · rw [hexec, heq, ht]
    simp
  · rw [hexec, heq]
    have ha' := Option.isSome_iff_ne_none.mpr ha
    simp [h] at hu ha'
    simp [hu, ha']
  · have hstill : s.beginShares q = s := State.beginShares_still hx hs
    rw [hexec, heq]
    simp [hr, State.evaluateHead, hstill]
  · have hmet : ∀ (u : State) (y : QEntry), (u.updHead q fun _ => y).headerMet h = u.headerMet h := fun u y => u.headerMet_updHead q _ h
    have hanomaly := s.queues_headerAnomaly p h
    have hax : (s.headerAnomaly p h).head q = some x := (State.head_congr (State.queue_congr hanomaly q)).trans hx
    have hgood := fun hq (hb : s.malformed h x.origin p = false) => State.decodeHead_first hx hh ht ha hq hb
    have hbad := fun hq (hb : s.malformed h x.origin p = true) => State.decodeHead_first hx hh ht ha hq hb
    simp only [Bool.false_eq_true, if_false, if_true] at hgood hbad
    have hwait : ∀ bad, (x.decoded bad).phase = .waiting := fun _ => rfl
    refine ⟨fun hq hb hw => ?waits, fun hq hb hw => ?badWaits, fun hq hb hw hi => ?bad, fun hq hb hw hheld => ?held,
      fun hq hb hw hheld hi hu => ?failed⟩
    case waits =>
      exact hout s _ rfl ((hgood hq hb).trans (State.evaluateHead_waits rfl ((hmet _ _).trans hw)))
    case badWaits =>
      exact hout _ _ hanomaly ((hbad hq hb).trans (State.evaluateHead_waits rfl
        ((hmet _ _).trans ((s.headerMet_headerAnomaly p h h).trans hw))))
    case bad =>
      refine hout _ (fun _ => { x with phase := .ran, malformed := true, status := 1 }) hanomaly ((hbad hq hb).trans ?_)
      rw [State.evaluateHead_met (.inr ⟨hwait _, (hmet _ _).trans ((s.headerMet_headerAnomaly p h h).trans hw)⟩),
        State.metHead_malformed (x := x.decoded true) rfl hi, State.updHead_updHead hax, State.updHead_updHead hax]
      rfl
    case held =>
      refine hout s (fun _ => { x with phase := .met, malformed := false }) rfl ((hgood hq hb).trans ?_)
      rw [State.evaluateHead_met (.inr ⟨hwait _, (hmet _ _).trans hw⟩), State.updHead_updHead hx, State.metHead_held rfl]
      · rfl
      · rw [State.readOps_updHead, State.heldBack_updHead, State.unitFailed_updHead, State.courseFailed_updHead, State.pier_updHead]
        exact hheld
    case failed =>
      refine hout (s.log { hdrRecord s p h 0x0A 3 with detail0 := h.w0.toNat })
        (fun _ => { x with phase := .ran, malformed := true, status := 1, jobs := 0 }) (s.log_queues _) ((hgood hq hb).trans ?_)
      rw [State.evaluateHead_met (.inr ⟨hwait _, (hmet _ _).trans hw⟩), State.updHead_updHead hx, State.metHead_failed (x := x.decoded false) rfl _ hi]
      · rw [State.failHeader_updHead hx]
        rfl
      · rw [State.unitFailed_updHead]
        exact hu
      · rw [State.readOps_updHead, State.heldBack_updHead, State.pier_updHead]
        exact hheld

end Sys2Proof.Machine
end

section
/-! SUPPORT. What starting a header sets going (R22, R52, R82, R117, R293, R434, R435): bed caches invalidated, descriptors fetched, piers and
courses awake, walks and jobs begun. -/

namespace Sys2Proof.Machine

/-! ## Bed caches invalidated (R52, R375) -/

theorem allPiers_nodup : allPiers.Nodup := by decide

theorem unitPiers_nodup (u : Nat) : (unitPiers u).Nodup := by
  unfold unitPiers
  split
  · simp
  · exact allPiers_nodup

/-- What a line of a bed cache becomes when those beneath a unit lose every line, or the lines given. -/
def dropOf (u : Nat) (lines : Option (List Nat)) (b : BedLine) : Option BedLine :=
  match lines with
  | some ls => if ls.contains b.line then dropLine u b else some b
  | none => dropLine u b

theorem State.dropBed_eq (s : State) (u : Nat) (lines : Option (List Nat)) : s.dropBed u lines =
    (unitPiers u).foldl (fun s p => s.updPier p fun pr => { pr with bed := pr.bed.filterMap (dropOf u lines) }) s := by
  unfold State.dropBed
  congr 1
  funext s p
  split
  · next hb =>
    have hb' : (s.pier p).bed = [] := by simpa using hb
    have hsame : ({ s.pier p with bed := (s.pier p).bed.filterMap (dropOf u lines) } : Pier) = s.pier p := by
      rw [hb', List.filterMap_nil, ← hb']
    exact (State.updPier_id s p).symm.trans (congrArg (fun pr => { s with piers := s.piers.set p pr }) hsame.symm)
  · cases lines <;> rfl

theorem State.dropBed_frame (s : State) (u : Nat) (lines : Option (List Nat)) :
    s.dropBed u lines = { s with piers := (s.dropBed u lines).piers } := by
  rw [State.dropBed_eq]
  exact State.foldl_updPier_frame (fun _ pr => { pr with bed := pr.bed.filterMap (dropOf u lines) }) _ s

theorem State.pier_dropBed (s : State) (u : Nat) (lines : Option (List Nat)) (r : PierId) : (s.dropBed u lines).pier r =
    if r ∈ unitPiers u then { s.pier r with bed := (s.pier r).bed.filterMap (dropOf u lines) } else s.pier r := by
  rw [State.dropBed_eq]
  exact State.pier_foldl_updPier (fun _ pr => { pr with bed := pr.bed.filterMap (dropOf u lines) }) r _ s (unitPiers_nodup u)

/-- Only bed caches lose by it. -/
theorem State.dropBed_rest (s : State) (u : Nat) (lines : Option (List Nat)) (r : PierId) :
    { (s.dropBed u lines).pier r with bed := [] } = { s.pier r with bed := [] } := by
  rw [State.pier_dropBed]
  split <;> rfl

/-- A line that all 16 cores of its course lose is gone. -/
theorem BedLine.without_all (b : BedLine) : b.without 0xFFFF = none := by
  have h0 : (b.olds.map fun o => (o.1 &&& (0xFFFF - 0xFFFF % 0x1_0000), o.2)).filter (fun o => o.1 != 0) = [] := by
    refine List.filter_eq_nil_iff.mpr fun o ho => ?_
    obtain ⟨o', -, rfl⟩ := List.mem_map.mp ho
    simp
  unfold BedLine.without
  dsimp only
  rw [h0]
  simp

theorem dropLine_of_course {u : Nat} (hl : unitLevel u ≠ 0) (b : BedLine) :
    dropLine u b = if (unitCourses u).contains b.course then none else some b := by
  unfold dropLine
  cases (unitCourses u).contains b.course <;> simp [hl, b.without_all]

/-- Of a unit with courses of its own every line goes. -/
theorem filterMap_dropLine {u : Nat} (hl : unitLevel u ≠ 0) (bs : List BedLine) :
    bs.filterMap (dropLine u) = bs.filter fun b => !(unitCourses u).contains b.course := by
  have heq : dropLine u = Option.guard fun b : BedLine => !(unitCourses u).contains b.course := by
    funext b
    rw [dropLine_of_course hl]
    by_cases hb : b.course ∈ unitCourses u <;> simp [Option.guard, hb]
  rw [heq, List.filterMap_eq_filter]

/-- The bits of the cores that keep a line. -/
theorem bitAt_keep (x : Nat) {k : Nat} (hk : k < 16) : bitAt (x &&& (0xFFFF - 2 ^ k % 0x1_0000)) k = false := by
  have hmask : ∀ k : Fin 16, (0xFFFF - 2 ^ k.val % 0x1_0000).testBit k.val = false := by decide
  have hbit := Nat.testBit_and x (0xFFFF - 2 ^ k % 0x1_0000) k
  rw [hmask ⟨k, hk⟩, Bool.and_false] at hbit
  simpa [bitAt, Nat.testBit_eq_decide_div_mod_eq, Nat.shiftRight_eq_div_pow] using hbit

theorem BedLine.without_core {b c : BedLine} {k : Nat} (hk : k < 16) (h : b.without (2 ^ k) = some c) :
    c.course = b.course ∧ bitAt c.held k = false ∧ ∀ o ∈ c.olds, bitAt o.1 k = false := by
  unfold BedLine.without at h
  dsimp only at h
  split at h
  · cases h
  · obtain rfl := Option.some.inj h
    refine ⟨rfl, bitAt_keep _ hk, fun o ho => ?_⟩
    obtain ⟨ho, -⟩ := List.mem_filter.mp ho
    obtain ⟨o', -, rfl⟩ := List.mem_map.mp ho
    exact bitAt_keep _ hk

/-- Of a core's unit that core holds none of the lines left. -/
theorem dropLine_of_core {u : Nat} (hl : unitLevel u = 0) {b c : BedLine} (h : dropLine u b = some c) (hc : c.course ∈ unitCourses u) :
    bitAt c.held (fld u 3 0) = false ∧ ∀ o ∈ c.olds, bitAt o.1 (fld u 3 0) = false := by
  have hk : fld u 3 0 < 16 := Nat.mod_lt _ (by decide)
  unfold dropLine at h
  simp only [hl, beq_self_eq_true, if_true] at h
  split at h
  · next hout =>
    obtain rfl := Option.some.inj h
    simp [hc] at hout
  · exact (BedLine.without_core hk h).2

/-! ## Piers and courses set going -/

/-- A pier without what the start of a header may change in it. -/
def Pier.butBegun (p : Pier) : Pier :=
  { p.butWake with
    coursesAwake := [], courseStir := [], bed := [], walks := [], tiles := [], jobs := [], jobCount := 0, lines := [], known := [] }

/-- Piers and courses may be awake that were not, packets sent, walks and jobs begun and parameters known; bed caches and all else but
lines and queues stay, and in Run no event comes of it (R530). -/
structure State.SetsGoing (s t : State) : Prop where
  frame : t = { s with
    piers := t.piers, queues := t.queues, edgeRot := t.edgeRot, crossHeld := t.crossHeld, crossPtr := t.crossPtr, held := t.held
    counters := t.counters }
  run : s.powerState = 3 → t.held = s.held ∧ t.counters = s.counters
  awake : ∀ p, (s.pier p).awake = true → (t.pier p).awake = true
  courses : ∀ p c, c ∈ (s.pier p).coursesAwake → c ∈ (t.pier p).coursesAwake
  rest : ∀ p, (t.pier p).butBegun = (s.pier p).butBegun
  bed : ∀ p, (t.pier p).bed = (s.pier p).bed

/-- The same without a change of queues and lines. -/
structure State.Stirs (s t : State) : Prop extends s.SetsGoing t where
  queues : t.queues = s.queues
  lines : ∀ p, (t.pier p).lines = (s.pier p).lines

theorem State.SetsGoing.refl (s : State) : s.SetsGoing s :=
  ⟨rfl, fun _ => ⟨rfl, rfl⟩, fun _ => id, fun _ _ => id, fun _ => rfl, fun _ => rfl⟩

theorem State.powerState_mono {s t : State} (hp : t.power = s.power) (ha : ∀ p, (s.pier p).awake = true → (t.pier p).awake = true)
    (h : s.powerState = 3) : t.powerState = 3 := by
  obtain ⟨hreg, p, hpier⟩ := s.powerState_run.mp h
  exact t.powerState_run.mpr ⟨by rw [hp]; exact hreg, p, ha p hpier⟩

theorem State.SetsGoing.trans {s t u : State} (h : s.SetsGoing t) (g : t.SetsGoing u) : s.SetsGoing u where
  frame := by rw [g.frame, h.frame]
  run h3 := by
    obtain ⟨hh, hc⟩ := h.run h3
    obtain ⟨gh, gc⟩ := g.run (State.powerState_mono (by rw [h.frame]) h.awake h3)
    exact ⟨gh.trans hh, gc.trans hc⟩
  awake p := g.awake p ∘ h.awake p
  courses p c := g.courses p c ∘ h.courses p c
  rest p := (g.rest p).trans (h.rest p)
  bed p := (g.bed p).trans (h.bed p)

theorem State.Stirs.refl (s : State) : s.Stirs s := ⟨.refl s, rfl, fun _ => rfl⟩

theorem State.Stirs.trans {s t u : State} (h : s.Stirs t) (g : t.Stirs u) : s.Stirs u :=
  ⟨h.toSetsGoing.trans g.toSetsGoing, g.queues.trans h.queues, fun p => (g.lines p).trans (h.lines p)⟩

theorem State.Stirs.foldl {α : Type} (f : State → α → State) (hf : ∀ (s : State) a, s.Stirs (f s a)) (l : List α) :
    ∀ s : State, s.Stirs (l.foldl f s) := by
  induction l with
  | nil => exact State.Stirs.refl
  | cons a l ih => exact fun s => (hf s a).trans (ih (f s a))

/-- A pier changed in what a start may change, but for its bed cache. -/
theorem State.SetsGoing.updPier (s : State) (p : PierId) (f : Pier → Pier) (ha : ∀ pr, pr.awake = true → (f pr).awake = true)
    (hc : ∀ pr c, c ∈ pr.coursesAwake → c ∈ (f pr).coursesAwake)
    (hr : ∀ pr, (f pr).butBegun = pr.butBegun ∧ (f pr).bed = pr.bed) : s.SetsGoing (s.updPier p f) := by
  have hpier : ∀ {P : Pier → Pier → Prop}, (∀ pr, P pr pr) → (∀ pr, P pr (f pr)) → ∀ r, P (s.pier r) ((s.updPier p f).pier r) := by
    intro P hsame hnew r
    rw [State.pier_updPier_ite]
    split
    · exact hnew _
    · exact hsame _
  exact ⟨rfl, fun _ => ⟨rfl, rfl⟩, hpier (P := fun a b => a.awake = true → b.awake = true) (fun _ => id) ha,
    fun r c => hpier (P := fun a b => c ∈ a.coursesAwake → c ∈ b.coursesAwake) (fun _ => id) (fun pr => hc pr c) r,
    hpier (P := fun a b => b.butBegun = a.butBegun) (fun _ => rfl) fun pr => (hr pr).1,
    hpier (P := fun a b => b.bed = a.bed) (fun _ => rfl) fun pr => (hr pr).2⟩

theorem State.Stirs.updPier (s : State) (p : PierId) (f : Pier → Pier) (ha : ∀ pr, pr.awake = true → (f pr).awake = true)
    (hc : ∀ pr c, c ∈ pr.coursesAwake → c ∈ (f pr).coursesAwake)
    (hr : ∀ pr, (f pr).butBegun = pr.butBegun ∧ (f pr).bed = pr.bed ∧ (f pr).lines = pr.lines) : s.Stirs (s.updPier p f) := by
  refine ⟨.updPier s p f ha hc fun pr => ⟨(hr pr).1, (hr pr).2.1⟩, rfl, fun r => ?_⟩
  rw [State.pier_updPier_ite]
  split
  · exact (hr _).2.2
  · rfl

theorem State.Stirs.sendPackets (s : State) (path : List (Nat × Nat)) (n : Nat) : s.Stirs (s.sendPackets path n) := by
  rw [State.sendPackets_frame]
  exact ⟨⟨rfl, fun _ => ⟨rfl, rfl⟩, fun _ => id, fun _ _ => id, fun _ => rfl, fun _ => rfl⟩, rfl, fun _ => rfl⟩

theorem State.Woken.stirs {s t : State} {p : PierId} (h : s.Woken t p) : s.Stirs t := by
  obtain ⟨hawake, hbut, hother, -, hrun, hframe⟩ := h
  have hpier : ∀ {P : Pier → Pier → Prop}, (∀ pr, P pr pr) → P (s.pier p) (t.pier p) → ∀ r, P (s.pier r) (t.pier r) := by
    intro P hsame hp r
    by_cases hr : r = p
    · rw [hr]
      exact hp
    · rw [hother r hr]
      exact hsame _
  refine ⟨⟨by rw [hframe], hrun, hpier (P := fun a b => a.awake = true → b.awake = true) (fun _ => id) fun _ => hawake,
    fun r c => hpier (P := fun a b => c ∈ a.coursesAwake → c ∈ b.coursesAwake) (fun _ => id)
      (by rw [show (t.pier p).coursesAwake = (s.pier p).coursesAwake from (congrArg Pier.coursesAwake hbut :)]; exact id) r,
    hpier (P := fun a b => b.butBegun = a.butBegun) (fun _ => rfl) (congrArg (fun pr : Pier => { pr with
      coursesAwake := [], courseStir := [], bed := [], walks := [], tiles := [], jobs := [], jobCount := 0, lines := [], known := [] }) hbut :),
    hpier (P := fun a b => b.bed = a.bed) (fun _ => rfl) (congrArg Pier.bed hbut :)⟩, by rw [hframe],
    hpier (P := fun a b => b.lines = a.lines) (fun _ => rfl) (congrArg Pier.lines hbut :)⟩

theorem State.Stirs.wakePier (s : State) (p : PierId) : s.Stirs (s.wakePier p) := by
  cases hd : s.deadPier p with
  | true => rw [State.wakePier_dead hd]; exact .refl s
  | false => exact (State.wakePier_woken hd).stirs

theorem State.Stirs.deliver (s : State) (d : Domain) : s.Stirs (s.deliver d) :=
  ⟨⟨rfl, fun _ => ⟨rfl, rfl⟩, fun _ => id, fun _ _ => id, fun _ => rfl, fun _ => rfl⟩, rfl, fun _ => rfl⟩

theorem State.Stirs.wakeCourse (s : State) (c : CourseId) : s.Stirs (s.wakeCourse c) := by
  refine (State.Stirs.wakePier s c.pier).trans ?_
  unfold State.wakeCourse
  generalize s.wakePier c.pier = s
  dsimp only
  split
  · exact .refl s
  · have hstir : s.Stirs (s.updPier c.pier (·.stirCourse c.course.val s.tick)) :=
      .updPier s c.pier (·.stirCourse c.course.val s.tick) (fun _ => id) (fun _ _ => id) fun _ => ⟨rfl, rfl, rfl⟩
    refine hstir.trans ?_
    split
    · exact .refl _
    · exact .trans (.updPier _ c.pier (fun pr => { pr with coursesAwake := pr.coursesAwake ++ [c.course.val] }) (fun _ => id)
        (fun _ _ h => List.mem_append_left _ h) fun _ => ⟨rfl, rfl, rfl⟩) (State.Stirs.deliver _ _)

/-- A course that has not failed runs once it has been woken (R434). -/
theorem State.wakeCourse_runs (s : State) (c : CourseId) (hf : (s.pier c.pier).failed.contains (domainNo (.course c)) = false) :
    c.course.val ∈ ((s.wakeCourse c).pier c.pier).coursesAwake := by
  have hf' : ((s.wakePier c.pier).pier c.pier).failed = (s.pier c.pier).failed :=
    (congrArg Pier.failed ((State.Stirs.wakePier s c.pier).rest c.pier) :)
  unfold State.wakeCourse
  dsimp only
  rw [hf', if_neg (by simpa using hf)]
  split
  · next h => simpa using h
  · simp [State.deliver, State.pier, State.updPier]

/-! ## Descriptors fetched (R117, R435) -/

theorem State.Stirs.fetchFar (s : State) (p : PierId) (a n : Nat) : s.Stirs (s.fetchFar p a n) := by
  refine State.Stirs.foldl _ (fun s l => ?_) _ s
  split
  · next h _ =>
    unfold State.remoteRead
    split
    · exact .refl s
    · exact ((State.Stirs.wakePier s h).trans (.sendPackets _ _ _)).trans (.sendPackets _ _ _)
  · exact .refl s

theorem State.Stirs.fetchOps (s : State) (p : PierId) (ops : List Tens) : s.Stirs (s.fetchOps p ops) := by
  refine State.Stirs.foldl _ (fun s t => ?_) _ s
  cases t.ref <;> cases t.own
  · exact .refl s
  · exact .fetchFar s p _ _
  · exact .fetchFar s p _ _
  · exact (State.Stirs.fetchFar s p _ _).trans (.fetchFar _ p _ _)

/-! ## Shares started -/

theorem envAt_share (s : State) (p : PierId) (q : QKey) (x : QEntry) :
    (s.envAt p q x).p = p ∧ (s.envAt p q x).q = q ∧ (s.envAt p q x).h = x.hdr := by
  unfold State.envAt envOf
  dsimp only
  split <;> exact ⟨rfl, rfl, rfl⟩

theorem State.Stirs.meet (s : State) (e : Env) : s.Stirs (s.meet e) := by
  refine State.Stirs.foldl _ (fun s t => ?_) _ s
  split
  · exact .refl s
  · exact .updPier s e.p (fun pr => { pr with known := (t.tid, t) :: pr.known }) (fun _ => id) (fun _ _ => id) fun _ => ⟨rfl, rfl, rfl⟩

theorem State.Stirs.beginWalks (s : State) (e : Env) : s.Stirs (s.beginWalks e) := by
  unfold State.beginWalks
  refine State.Stirs.updPier s e.p _ ?_ ?_ ?_
  exacts [fun _ => id, fun _ _ => id, fun _ => ⟨rfl, rfl, rfl⟩]

theorem State.Stirs.addJob (s : State) (p : PierId) (q : QKey) (body : JobBody) (wall : Option (Fin 4)) : s.Stirs (s.addJob p q body wall) := by
  refine State.Stirs.updPier s p _ ?_ ?_ ?_
  exacts [fun _ => id, fun _ _ => id, fun _ => ⟨rfl, rfl, rfl⟩]

/-- The courses of a share's work woken. -/
def State.wakeCourses (s : State) (e : Env) : State :=
  if !usesCourses e.h then s else (unitCourses e.q.unit.toNat).foldl (fun (s : State) c => s.wakeCourse (courseId e.p c)) s

theorem State.Stirs.wakeCourses (s : State) (e : Env) : s.Stirs (s.wakeCourses e) := by
  unfold State.wakeCourses
  split
  · exact .refl s
  · exact .foldl _ (fun s c => .wakeCourse s _) _ s

/-- They run, where none of them has failed. -/
theorem State.wakeCourses_run (s : State) (e : Env) (hu : usesCourses e.h = true)
    (hf : ∀ c ∈ unitCourses e.q.unit.toNat, (s.pier e.p).failed.contains (domainNo (.course (courseId e.p c))) = false) :
    ∀ c ∈ unitCourses e.q.unit.toNat, c % 48 ∈ ((s.wakeCourses e).pier e.p).coursesAwake := by
  simp only [State.wakeCourses, hu, Bool.not_true, Bool.false_eq_true, if_false]
  generalize unitCourses e.q.unit.toNat = cs at hf ⊢
  induction cs generalizing s with
  | nil => simp
  | cons d ds ih =>
    have hd := State.Stirs.wakeCourse s (courseId e.p d)
    have hrun := s.wakeCourse_runs (courseId e.p d) (hf d List.mem_cons_self)
    have hfail : ∀ {c}, ((s.wakeCourse (courseId e.p d)).pier e.p).failed.contains c = (s.pier e.p).failed.contains c := by
      intro c
      rw [show ((s.wakeCourse (courseId e.p d)).pier e.p).failed = (s.pier e.p).failed from (congrArg Pier.failed (hd.rest e.p) :)]
    intro c hc
    rw [List.foldl_cons]
    obtain rfl | hc := List.mem_cons.mp hc
    · exact (State.Stirs.foldl _ (fun s c => .wakeCourse s (courseId e.p c)) ds _).courses e.p _ hrun
    · exact ih _ (fun c hc => hfail.trans (hf c (List.mem_cons_of_mem d hc))) c hc

/-- The walks of a product or the jobs of a TOPK begun (R103, R218). -/
def State.beginWork (s : State) (e : Env) : State :=
  let op := e.h.opcode
  if 1 ≤ op && op ≤ 4 then s.beginWalks e
  else if op == 0x0A then
    let d := if e.tD.sparse then e.tD.rowMajor else e.tD
    (e.tA.topRows d e.p).foldl (fun (s : State) r =>
      let n := d.rho r.1 r.2.1 r.2.2
      s.addJob e.p e.q (.topk n) (some ⟨(e.wall + n % e.W) % 4, Nat.mod_lt _ (by decide)⟩)) s
  else s

theorem State.Stirs.beginWork (s : State) (e : Env) : s.Stirs (s.beginWork e) := by
  unfold State.beginWork
  dsimp only
  split
  · exact .beginWalks s e
  · split
    · exact .foldl _ (fun s r => .addJob s _ _ _ _) _ s
    · exact .refl s

/-- The packet that brings a share to its pier (R22). -/
def State.bringShare (s : State) (e : Env) : State :=
  if unitLevel e.q.unit.toNat > 3 then s.sendPackets (quoinEdges (portQuoin s.seqPort) e.p) 1 else s

theorem State.Stirs.bringShare (s : State) (e : Env) : s.Stirs (s.bringShare e) := by
  unfold State.bringShare
  split
  · exact .sendPackets s _ _
  · exact .refl s

theorem State.startShare_eq (s : State) (e : Env) :
    s.startShare e = ((((s.bringShare e).wakePier e.p).meet e).wakeCourses e).beginWork e := rfl

theorem State.Stirs.startShare (s : State) (e : Env) : s.Stirs (s.startShare e) := by
  rw [State.startShare_eq]
  exact ((((State.Stirs.bringShare s e).trans (.wakePier _ _)).trans (.meet _ _)).trans (.wakeCourses _ _)).trans (.beginWork _ _)

/-- The pier of a share started runs, and its courses, unless they have failed. -/
theorem State.startShare_runs (s : State) (e : Env) (hd : s.deadPier e.p = false)
    (hf : usesCourses e.h = true →
      ∀ c ∈ unitCourses e.q.unit.toNat, (s.pier e.p).failed.contains (domainNo (.course (courseId e.p c))) = false) :
    ((s.startShare e).pier e.p).awake = true ∧
      (usesCourses e.h = true → ∀ c ∈ unitCourses e.q.unit.toNat, c % 48 ∈ ((s.startShare e).pier e.p).coursesAwake) := by
  have hb := State.Stirs.bringShare s e
  have hfailed : ∀ {t : State}, s.Stirs t → (t.pier e.p).failed = (s.pier e.p).failed := fun h => (congrArg Pier.failed (h.rest e.p) :)
  have hdead : (s.bringShare e).deadPier e.p = false := by
    rw [State.deadPier, hfailed hb]
    exact hd
  have hawake := (State.wakePier_woken hdead).1
  have hmet := (hb.trans (.wakePier _ e.p)).trans (.meet _ e)
  have hrun := fun hu => State.wakeCourses_run (((s.bringShare e).wakePier e.p).meet e) e hu (fun c hc => by
    rw [hfailed hmet]
    exact hf hu c hc)
  rw [State.startShare_eq]
  refine ⟨?_, fun hu c hc => (State.Stirs.beginWork _ e).courses e.p _ (hrun hu c hc)⟩
  exact (((State.Stirs.meet _ e).trans (.wakeCourses _ e)).trans (.beginWork _ e)).awake e.p hawake

end Sys2Proof.Machine
end

section
/-! SUPPORT. HEADER_DECODE starting a header (R52, R82, R108, R110, R112): the way of a share from above, and the shares begun one by one. -/

namespace Sys2Proof.Machine

/-! ## The way of a share -/

theorem seqAbove_ne (c : Nat) : seqAbove c ≠ some c := by
  unfold seqAbove
  split
  · intro h
    have := Option.some.inj h
    omega
  · split
    · intro h
      have := Option.some.inj h
      omega
    · simp

/-- The way of a share passes a sequencer once, and what stands above one before it. -/
def FromAbove (cs : List Nat) : Prop := cs.Pairwise fun a b => a ≠ b ∧ seqAbove a ≠ some b

theorem sharePath_fromAbove (q : QKey) (h : Header) : FromAbove (sharePath q h) := by
  have hlists : FromAbove ([52] ++ [48, 49, 50, 51] ++ List.range 48) ∧ FromAbove ([] ++ [48, 49, 50, 51] ++ List.range 48) ∧
      (∀ w < 4, FromAbove ([] ++ [] ++ (List.range 12).map (w * 12 + ·))) ∧ FromAbove [52] := by
    unfold FromAbove
    decide
  obtain ⟨hmodule, hpier, hwall, htop⟩ := hlists
  have hnil : FromAbove [] := List.Pairwise.nil
  have hw : fld q.unit.toNat 9 8 < 4 := Nat.mod_lt _ (by decide)
  unfold sharePath
  dsimp only
  split
  · match hl : unitLevel q.unit.toNat with
    | 0 | 1 => simp [unitCourses, hl, FromAbove]
    | 2 => simpa [unitCourses, hl] using hwall _ hw
    | 3 => simpa [unitCourses, hl] using hpier
    | n + 4 => simpa [unitCourses, hl, show 3 ≤ n + 4 by omega, show 3 < n + 4 by omega] using hmodule
  · split
    · exact htop
    · exact hnil

/-- Whether a share stays above a sequencer of its way for now. -/
def State.staysAbove (s : State) (q : QKey) (h : Header) (p : PierId) (path : List Nat) (c : Nat) : Bool :=
  ((s.pier p).line c h.stream).contains q ||
    !(match seqAbove c with
      | some w => !path.contains w || (s.pier p).front w h.stream == some q
      | none => true) || !s.seqRoom p h.stream c

/-- A share goes on through some sequencers of its way. -/
def State.descendTo (s : State) (q : QKey) (h : Header) (p : PierId) (path cs : List Nat) : State :=
  cs.foldl (fun (s : State) c => if s.staysAbove q h p path c then s else s.updPier p (·.joinLines [c] h.stream q)) s

theorem State.descend_eq (s : State) (q : QKey) (h : Header) (p : PierId) :
    s.descend q h p = s.descendTo q h p (sharePath q h) (sharePath q h) := rfl

/-- A pier whose lines alone change. -/
structure State.Lines (s t : State) (p : PierId) : Prop where
  frame : t = { s with piers := t.piers }
  pier : t.pier p = { s.pier p with lines := (t.pier p).lines }
  other : ∀ r, r ≠ p → t.pier r = s.pier r

theorem State.Lines.refl (s : State) (p : PierId) : s.Lines s p := ⟨rfl, rfl, fun _ _ => rfl⟩

theorem State.Lines.trans {s t u : State} {p : PierId} (h : s.Lines t p) (g : t.Lines u p) : s.Lines u p :=
  ⟨by rw [g.frame, h.frame], by rw [g.pier, h.pier], fun r hr => (g.other r hr).trans (h.other r hr)⟩

theorem State.Lines.join (s : State) (p : PierId) (cs : List Nat) (stream : Nat) (q : QKey) :
    s.Lines (s.updPier p (·.joinLines cs stream q)) p := by
  refine ⟨rfl, ?_, fun r hr => s.pier_updPier_ne _ hr⟩
  rw [State.pier_updPier]
  exact Pier.joinLines_lines _ cs stream q

theorem State.seqRoom_congr {s t : State} (hs : t.sounding = s.sounding) {p : PierId} (hr : (t.pier p).butBegun = (s.pier p).butBegun)
    {stream c : Nat} (hl : (t.pier p).line c stream = (s.pier p).line c stream) : t.seqRoom p stream c = s.seqRoom p stream c := by
  have hcore : (t.pier p).idleCore ((t.pier p).physCourse c) = (s.pier p).idleCore ((s.pier p).physCourse c) :=
    (congrArg (fun pr : Pier => pr.idleCore (pr.physCourse c)) hr :)
  have hcourse : (t.pier p).idleCourse = (s.pier p).idleCourse := (congrArg Pier.idleCourse hr :)
  simp only [State.seqRoom, State.exchangeDue, hs, hl, hcore, hcourse]

theorem Pier.line_congr {p r : Pier} (h : p.lines = r.lines) (c stream : Nat) : p.line c stream = r.line c stream := by
  rw [Pier.line, Pier.line, h]

theorem State.Lines.seqRoom {s t : State} {p : PierId} (h : s.Lines t p) {stream c : Nat}
    (hl : (t.pier p).line c stream = (s.pier p).line c stream) : t.seqRoom p stream c = s.seqRoom p stream c :=
  State.seqRoom_congr (by rw [h.frame]) (by rw [h.pier]; rfl) hl

/-- A share comes to a sequencer of its way, or not: it is not there yet, there is room, and the one above runs it (R82, R108). -/
def State.Reaches (s t : State) (q : QKey) (h : Header) (p : PierId) (path : List Nat) (c : Nat) : Prop :=
  let goes := q ∉ (s.pier p).line c h.stream ∧ s.seqRoom p h.stream c = true ∧
    ∀ w, seqAbove c = some w → w ∉ path ∨ (t.pier p).front w h.stream = some q;
  (goes → (t.pier p).line c h.stream = (s.pier p).line c h.stream ++ [q]) ∧
  (¬goes → (t.pier p).line c h.stream = (s.pier p).line c h.stream)

theorem State.Reaches.congr {s t u v : State} {q : QKey} {h : Header} {p : PierId} {path : List Nat} {c : Nat}
    (hr : s.Reaches t q h p path c) (hl : (u.pier p).lines = (s.pier p).lines) (hroom : u.seqRoom p h.stream c = s.seqRoom p h.stream c)
    (hv : (v.pier p).lines = (t.pier p).lines) : u.Reaches v q h p path c := by
  simpa only [State.Reaches, Pier.front, Pier.line_congr hl, Pier.line_congr hv, hroom] using hr

section Descend
variable (q : QKey) (h : Header) (p : PierId) (path : List Nat)

theorem State.staysAbove_eq_false {s : State} {c : Nat} : s.staysAbove q h p path c = false ↔
    q ∉ (s.pier p).line c h.stream ∧ s.seqRoom p h.stream c = true ∧
      ∀ w, seqAbove c = some w → w ∉ path ∨ (s.pier p).front w h.stream = some q := by
  unfold State.staysAbove
  cases seqAbove c with
  | none => simp
  | some w =>
    by_cases hw : w ∈ path <;> simp [hw, and_assoc, and_comm, and_left_comm]

/-- What a share that goes on through some sequencers leaves, and where it comes to. -/
theorem State.descendTo_spec (cs : List Nat) (hcs : FromAbove cs) : ∀ s : State, s.Lines (s.descendTo q h p path cs) p ∧
    (∀ c, c ∉ cs → ((s.descendTo q h p path cs).pier p).line c h.stream = (s.pier p).line c h.stream) ∧
    ∀ c ∈ cs, s.Reaches (s.descendTo q h p path cs) q h p path c := by
  induction cs with
  | nil => exact fun s => ⟨.refl s p, fun _ _ => rfl, by simp⟩
  | cons c cs ih =>
    intro s
    obtain ⟨hc, hcs⟩ := List.pairwise_cons.mp hcs
    obtain ⟨u, hu⟩ : ∃ u, u = if s.staysAbove q h p path c then s else s.updPier p (·.joinLines [c] h.stream q) := ⟨_, rfl⟩
    have hstep : s.descendTo q h p path (c :: cs) = u.descendTo q h p path cs := by
      rw [hu]
      rfl
    obtain ⟨hlines, hother, hreach⟩ := ih hcs u
    have hsu : s.Lines u p := by
      rw [hu]
      split
      · exact .refl s p
      · exact .join s p _ _ _
    have hune : ∀ d, d ≠ c → (u.pier p).line d h.stream = (s.pier p).line d h.stream := by
      intro d hd
      rw [hu]
      split
      · rfl
      · rw [State.pier_updPier]
        exact Pier.line_setLine_ne _ _ fun hdc => hd hdc.1
    rw [hstep]
    generalize u.descendTo q h p path cs = t at hlines hother hreach
    have hcmem : c ∉ cs := fun hm => (hc c hm).1 rfl
    refine ⟨hsu.trans hlines, fun d hd => ?_, fun d hd => ?_⟩
    · obtain ⟨hdc, hdcs⟩ := not_or.mp (mt List.mem_cons.mpr hd)
      exact (hother d hdcs).trans (hune d hdc)
    obtain rfl | hd := List.mem_cons.mp hd
    · have hfront : ∀ w, seqAbove d = some w → (t.pier p).front w h.stream = (s.pier p).front w h.stream := by
        intro w hw
        have hwd : w ≠ d := fun e => seqAbove_ne d (e ▸ hw)
        rw [Pier.front, hother w fun hm => (hc w hm).2 hw, hune w hwd]
        rfl
      have hgoes : (q ∉ (s.pier p).line d h.stream ∧ s.seqRoom p h.stream d = true ∧
          ∀ w, seqAbove d = some w → w ∉ path ∨ (t.pier p).front w h.stream = some q) ↔ s.staysAbove q h p path d = false := by
        rw [State.staysAbove_eq_false]
        exact and_congr_right fun _ => and_congr_right fun _ => forall_congr' fun w => imp_congr_right fun hw => by rw [hfront w hw]
      unfold State.Reaches
      dsimp only
      rw [hgoes, hother d hcmem, hu]
      cases s.staysAbove q h p path d
      · simp [State.pier_updPier, Pier.line_joinLines]
      · simp
    · have hdc : d ≠ c := fun e => hcmem (e ▸ hd)
      have hreach := hreach d hd
      simpa only [State.Reaches, hune d hdc, hsu.seqRoom (hune d hdc)] using hreach

end Descend

/-! ## Shares begun -/

theorem State.Lines.setsGoing {s t : State} {p : PierId} (h : s.Lines t p) : s.SetsGoing t := by
  have hpier : ∀ {P : Pier → Pier → Prop}, (∀ pr, P pr pr) → (∀ pr ls, P pr { pr with lines := ls }) → ∀ r, P (s.pier r) (t.pier r) := by
    intro P hsame hnew r
    by_cases hr : r = p
    · rw [hr, h.pier]
      exact hnew _ _
    · rw [h.other r hr]
      exact hsame _
  exact ⟨by rw [h.frame], fun _ => by rw [h.frame]; exact ⟨rfl, rfl⟩,
    hpier (P := fun a b => a.awake = true → b.awake = true) (fun _ => id) fun _ _ => id,
    fun r c => hpier (P := fun a b => c ∈ a.coursesAwake → c ∈ b.coursesAwake) (fun _ => id) (fun _ _ => id) r,
    hpier (P := fun a b => b.butBegun = a.butBegun) (fun _ => rfl) fun _ _ => rfl,
    hpier (P := fun a b => b.bed = a.bed) (fun _ => rfl) fun _ _ => rfl⟩

theorem State.SetsGoing.updHead (s : State) (q : QKey) (f : QEntry → QEntry) : s.SetsGoing (s.updHead q f) := by
  rw [State.updHead_frame]
  exact ⟨rfl, fun _ => ⟨rfl, rfl⟩, fun _ => id, fun _ _ => id, fun _ => rfl, fun _ => rfl⟩

theorem State.SetsGoing.seqRoom {s t : State} (h : s.SetsGoing t) {p : PierId} (hl : (t.pier p).lines = (s.pier p).lines)
    (stream c : Nat) : t.seqRoom p stream c = s.seqRoom p stream c :=
  State.seqRoom_congr (by rw [h.frame]) (h.rest p) (Pier.line_congr hl c stream)

/-- Which piers take a share now looks at the promise classes and the piers' configuration (R62, R295). -/
theorem State.outside_congr {s t : State} (h : t.promises = s.promises) (q : QKey) (g : Header) : t.outside q g = s.outside q g := by
  funext p
  simp only [State.outside, State.classHas, State.classWord, h]

theorem State.shareRoom_congr {s t : State} (h : t.promises = s.promises) (hr : ∀ p, (t.pier p).butBegun = (s.pier p).butBegun)
    (q : QKey) (g : Header) : t.shareRoom q g = s.shareRoom q g := by
  funext p
  have hcfg : (t.pier p).cfg = (s.pier p).cfg := (congrArg Pier.cfg (hr p) :)
  simp only [State.shareRoom, State.outside_congr h, hcfg]

theorem State.SetsGoing.outside {s t : State} (h : s.SetsGoing t) (q : QKey) (g : Header) : t.outside q g = s.outside q g :=
  State.outside_congr (by rw [h.frame]) q g

theorem State.SetsGoing.shareRoom {s t : State} (h : s.SetsGoing t) (q : QKey) (g : Header) : t.shareRoom q g = s.shareRoom q g :=
  State.shareRoom_congr (by rw [h.frame]) h.rest q g

/-- No domain that a header's share at a pier needs has been declared failed (R438, R486). -/
def State.fit (s : State) (q : QKey) (h : Header) (p : PierId) : Prop :=
  s.deadPier p = false ∧ (usesCourses h = true →
    ∀ c ∈ unitCourses q.unit.toNat, (s.pier p).failed.contains (domainNo (.course (courseId p c))) = false)

theorem State.fit_congr {s t : State} {p : PierId} (hr : (t.pier p).butBegun = (s.pier p).butBegun) (q : QKey) (g : Header) :
    t.fit q g p ↔ s.fit q g p := by
  have hfailed : (t.pier p).failed = (s.pier p).failed := (congrArg Pier.failed hr :)
  simp only [State.fit, State.deadPier, hfailed]

/-- The shares of a header begun on some piers: listed in its entry, on those that have a slot, and there running, on their way. -/
structure State.Begun (s t : State) (q : QKey) (h : Header) (y : QEntry) (ps : List PierId) : Prop where
  going : s.SetsGoing t
  queue : t.queue q = { y with begun := y.begun ++ ps.filter fun p => s.shareRoom q h p } :: (s.queue q).tail
  queues : ∀ k, k ≠ q → t.queue k = s.queue k
  lines : ∀ p, p ∉ ps → (t.pier p).lines = (s.pier p).lines
  shares : ∀ p ∈ ps, s.shareRoom q h p = true → s.outside q h p = false → (t.pier p).awake = true ∧
    (usesCourses h = true → ∀ c ∈ unitCourses q.unit.toNat, c % 48 ∈ (t.pier p).coursesAwake) ∧
    ∀ c ∈ sharePath q h, s.Reaches t q h p (sharePath q h) c

section Begin
variable {s : State} {q : QKey} {y : QEntry} (hy : s.head q = some y)
include hy

theorem State.Begun.none (h : Header) : s.Begun s q h y [] :=
  ⟨.refl s, by simpa using State.queue_of_head hy, fun _ _ => rfl, fun _ _ => rfl, by simp⟩

variable (hran : y.piers = []) (x : QEntry)
include hran

/-- One share that has not begun. -/
theorem State.Begun.one {p : PierId} (hnew : p ∉ y.begun) (hfit : s.fit q x.hdr p) : s.Begun (s.beginShare q x p) q x.hdr y [p] := by
  obtain ⟨w, hw⟩ : ∃ w, w = s.updHead q fun y => { y with begun := y.begun ++ [p] } := ⟨_, rfl⟩
  have hgoing : s.SetsGoing w := by
    rw [hw]
    exact .updHead s q _
  have hpier : ∀ r, w.pier r = s.pier r := by
    rw [hw]
    exact s.pier_updHead q _
  have hqueue : w.queue q = { y with begun := y.begun ++ [p] } :: (s.queue q).tail := by
    rw [hw]
    exact State.queue_updHead hy _
  have hqueues : ∀ k, k ≠ q → w.queue k = s.queue k := fun k hk => by rw [hw, State.queue_updHead_ne s _ hk]
  have hstep : s.beginShare q x p = if s.outside q x.hdr p then w
      else if s.shareRoom q x.hdr p then (w.startShare (s.envAt p q x)).descend q x.hdr p else s := by
    have hb : y.begun.contains p = false := by simpa using hnew
    unfold State.beginShare
    rw [hy, hw]
    simp only [hran, hb, List.contains_nil, Bool.or_false, Bool.false_eq_true, if_false]
  rw [hstep]
  cases hout : s.outside q x.hdr p with
  | true =>
    have hroom : s.shareRoom q x.hdr p = true := by simp [State.shareRoom, hout]
    exact ⟨hgoing, by simpa [hroom] using hqueue, hqueues, fun r _ => by rw [if_pos rfl, hpier], by simp [hout]⟩
  | false =>
    rw [if_neg Bool.false_ne_true]
    cases hroom : s.shareRoom q x.hdr p with
    | false =>
      rw [if_neg Bool.false_ne_true]
      exact ⟨.refl s, by simpa [hroom] using State.queue_of_head hy, fun _ _ => rfl, fun _ _ => rfl, by simp [hroom]⟩
    | true =>
      rw [if_pos rfl]
      obtain ⟨hp, hq, hh⟩ := envAt_share s p q x
      generalize s.envAt p q x = e at hp hq hh
      have hstart := State.Stirs.startShare w e
      have hrun := w.startShare_runs e
      rw [hp, hq, hh] at hrun
      obtain ⟨hawake, hcourses⟩ := hrun ((State.fit_congr (hgoing.rest p) q x.hdr).mpr hfit).1 ((State.fit_congr (hgoing.rest p) q x.hdr).mpr hfit).2
      generalize w.startShare e = z at hstart hawake hcourses
      rw [State.descend_eq]
      obtain ⟨hlines, -, hreach⟩ := State.descendTo_spec q x.hdr p (sharePath q x.hdr) _ (sharePath_fromAbove q x.hdr) z
      generalize z.descendTo q x.hdr p (sharePath q x.hdr) (sharePath q x.hdr) = t at hlines hreach
      have hsz : s.SetsGoing z := hgoing.trans hstart.toSetsGoing
      have hzl : ∀ r, (z.pier r).lines = (s.pier r).lines := fun r => (hstart.lines r).trans (by rw [hpier])
      have htq : ∀ k, t.queue k = w.queue k := fun k =>
        (State.queue_congr (by rw [hlines.frame]) k).trans (State.queue_congr hstart.queues k)
      refine ⟨hsz.trans hlines.setsGoing, ?_, fun k hk => (htq k).trans (hqueues k hk), fun r hr => ?_, fun r hr _ _ => ?_⟩
      · rw [htq, hqueue]
        simp [hroom]
      · rw [hlines.other r (by simpa using hr), hzl]
      · obtain rfl := List.mem_singleton.mp hr
        refine ⟨hlines.setsGoing.awake r hawake, fun hu c hc => hlines.setsGoing.courses r _ (hcourses hu c hc), fun c hc => ?_⟩
        exact (hreach c hc).congr (hzl r).symm (hsz.seqRoom (hzl r) _ c).symm rfl

end Begin

/-- Shares begun one after another. -/
theorem State.Begun.append {s t u : State} {q : QKey} {h : Header} {y : QEntry} {p : PierId} {ps : List PierId} (hp : p ∉ ps)
    (hst : s.Begun t q h y [p]) (htu : t.Begun u q h { y with begun := y.begun ++ [p].filter fun p => s.shareRoom q h p } ps) :
    s.Begun u q h y (p :: ps) := by
  have hne : ∀ r ∈ ps, r ≠ p := fun r hr e => hp (e ▸ hr)
  refine ⟨hst.going.trans htu.going, ?_, fun k hk => (htu.queues k hk).trans (hst.queues k hk), fun r hr => ?_, fun r hr hroom hout => ?_⟩
  · rw [htu.queue, hst.queue, hst.going.shareRoom]
    simp [List.append_assoc, ← List.filter_append]
  · obtain ⟨hrp, hrps⟩ := not_or.mp (mt List.mem_cons.mpr hr)
    exact (htu.lines r hrps).trans (hst.lines r (by simpa using hrp))
  · obtain rfl | hr := List.mem_cons.mp hr
    · obtain ⟨hawake, hcourses, hreach⟩ := hst.shares r List.mem_cons_self hroom hout
      exact ⟨htu.going.awake r hawake, fun hu c hc => htu.going.courses r _ (hcourses hu c hc),
        fun c hc => (hreach c hc).congr rfl rfl (htu.lines r hp)⟩
    · obtain ⟨hawake, hcourses, hreach⟩ := htu.shares r hr (by rwa [hst.going.shareRoom]) (by rwa [hst.going.outside])
      have hl := hst.lines r (by simpa using hne r hr)
      exact ⟨hawake, hcourses, fun c hc => (hreach c hc).congr hl.symm (hst.going.seqRoom hl _ c).symm rfl⟩

/-- The shares of a header that has just started begun. -/
theorem State.Begun.all {q : QKey} (x : QEntry) (ps : List PierId) : ∀ {s : State} {y : QEntry}, s.head q = some y → y.piers = [] →
    ps.Nodup → (∀ p ∈ ps, p ∉ y.begun) → (∀ p ∈ ps, s.fit q x.hdr p) →
    s.Begun (ps.foldl (fun (s : State) p => s.beginShare q x p) s) q x.hdr y ps := by
  induction ps with
  | nil => exact fun hy _ _ _ _ => .none hy x.hdr
  | cons p ps ih =>
    intro s y hy hran hnodup hnew hfit
    obtain ⟨hp, hnodup⟩ := List.nodup_cons.mp hnodup
    have hone := State.Begun.one hy hran x (hnew p List.mem_cons_self) (hfit p List.mem_cons_self)
    refine .append hp hone (ih (State.head_of_queue hone.queue) hran hnodup (fun r hr hb => ?_)
      fun r hr => (State.fit_congr (hone.going.rest r) q x.hdr).mpr (hfit r (List.mem_cons_of_mem p hr)))
    obtain hb | hb := List.mem_append.mp hb
    · exact hnew r (List.mem_cons_of_mem p hr) hb
    · obtain rfl := List.mem_singleton.mp (List.mem_of_mem_filter hb)
      exact hp hr

end Sys2Proof.Machine
end

section
/-! SUPPORT. HEADER_DECODE of a head that nothing holds (R51, R52, R117, R417): the header started, and what its unit is. -/

namespace Sys2Proof.Machine

/-! ## The unit of a header and of its queue -/

theorem unitCourses_congr {u v : Nat} (hl : unitLevel u = unitLevel v) (hw : unitLevel v ≤ 2 → fld u 9 8 = fld v 9 8)
    (hc : unitLevel v ≤ 1 → fld u 7 4 = fld v 7 4) : unitCourses u = unitCourses v := by
  unfold unitCourses
  rw [hl]
  match h : unitLevel v with
  | 0 | 1 => simp only [hw (by omega), hc (by omega)]
  | 2 => simp only [hw (by omega)]
  | n + 3 => rfl

theorem unitCanon_courses (u : Nat) : unitCanon u < 65536 ∧ unitCourses (unitCanon u) = unitCourses u := by
  unfold unitCanon
  match hl : unitLevel u with
  | 0 | 1 | 2 | 3 =>
    simp only [unitLevel, fld, Nat.shiftRight_eq_div_pow, Nat.reduceAdd, Nat.reduceSub, Nat.reducePow] at hl ⊢
    refine ⟨by omega, unitCourses_congr ?_ (fun h => ?_) fun h => ?_⟩ <;>
      simp only [unitLevel, fld, Nat.shiftRight_eq_div_pow, Nat.reduceAdd, Nat.reduceSub, Nat.reducePow] at * <;> omega
  | n + 4 => simp [unitCourses, hl, show unitLevel 32768 = 4 from rfl]

/-- The courses of a unit are those of the unit whose queue a header of courses' work waits in. -/
theorem unitCourses_key {h : Header} (hu : usesCourses h = true) : unitCourses h.key.unit.toNat = unitCourses h.unit := by
  have hstream : (h.stream % 4 == 3) = false := by
    have hlt : h.stream < 4 := by
      unfold Header.stream
      exact Nat.mod_lt _ (by decide)
    have hne : h.stream ≠ 3 := by simp_all [usesCourses]
    have : h.stream % 4 ≠ 3 := by omega
    simpa using this
  obtain ⟨hlt, hcourses⟩ := unitCanon_courses h.unit
  simp [Header.key, queueKey, hstream, Nat.mod_eq_of_lt hlt, hcourses]

/-! ## The piers of a header's shares (R110) -/

theorem State.sharePiers_congr {s t : State} (h : s.SameReads t) (hc : t.seqOnC = s.seqOnC) : t.sharePiers = s.sharePiers := by
  unfold State.sharePiers State.destPiers State.seqCorner
  rw [h.memHome, hc]

/-- Each once, and all in the header's unit. -/
theorem State.sharePiers_spec (s : State) (h : Header) (v : Nat) (ops : List Tens) : (s.sharePiers h v ops).Nodup ∧
    ∀ p ∈ s.sharePiers h v ops, p ∈ unitPiers h.unit := by
  have hdest : ∀ t, (s.destPiers t).Nodup := by
    intro t
    unfold State.destPiers
    split
    · exact allPiers_nodup.filter _
    · simp
  unfold State.sharePiers unitPiers
  dsimp only
  split
  · simp
  · refine ⟨?_, fun p _ => mem_allPiers p⟩
    split
    · simp
    · simp
    · exact allPiers_nodup
    · split
      · split
        · simp
        · exact hdest _
      · simp
    · simp
    · exact hdest _

theorem State.readBound_congr {s t : State} (h : s.SameReads t) (hf : t.free = s.free) (hc : ∀ p, (t.pier p).cfg = (s.pier p).cfg) :
    t.readBound = s.readBound := by
  have hentry : t.pentry = s.pentry := by
    funext p tid
    unfold State.pentry
    rw [hc p, h.rawWord]
  unfold State.readBound State.boundTens
  rw [hentry, h.readTens, hf]

/-! ## A header started -/

/-- The entry of a header that has started. -/
def QEntry.started (x : QEntry) (s : State) (p : PierId) (v : Nat) (ops : List Tens) (ps : List PierId) : QEntry :=
  { x with
    phase := .ready, malformed := false, epoch := (s.pier p).epoch, policy := v, ops := ops, shares := ps
    bound := if x.hdr.opcode ∈ [0x0C, 0x0D, 0x0E] then ps.map fun r => (r, s.readBound r (ops.getD 0 .zero).tid v) else [] }

/-- Fetching the descriptors is all that the start of a header does before its shares begin, but for its entry. -/
theorem State.startHeader_eq (s : State) (q : QKey) (h : Header) (p : PierId) (v : Nat) (ops : List Tens) :
    ∃ u, s.Stirs u ∧ s.startHeader q h p v ops = ({ u with free := s.free + 1 } : State).updHead q fun y => { y with
      phase := .ready, epoch := (s.pier p).epoch, policy := v, ops := ops, shares := s.sharePiers h v ops
      bound := if h.opcode ∈ [0x0C, 0x0D, 0x0E]
        then (s.sharePiers h v ops).map fun r => (r, s.readBound r (ops.getD 0 .zero).tid v) else [] } := by
  have hop : h.opcode ∈ [0x0C, 0x0D, 0x0E] ↔ (h.opcode == 0x0C || h.opcode == 0x0D || h.opcode == 0x0E) = true := by simp [or_assoc]
  simp only [hop]
  unfold State.startHeader
  dsimp only
  generalize (if (h.opcode == 0x0C || h.opcode == 0x0D || h.opcode == 0x0E) = true
    then (s.sharePiers h v ops).map fun r => (r, s.readBound r (ops.getD 0 .zero).tid v) else []) = bound
  have hu : s.Stirs (bound.foldl (fun (s : State) b => s.fetchOps b.1 (b.2.filterMap id)) (s.fetchOps p ops)) :=
    (State.Stirs.fetchOps s p ops).trans (.foldl _ (fun s b => .fetchOps s _ _) bound _)
  generalize bound.foldl (fun (s : State) b => s.fetchOps b.1 (b.2.filterMap id)) (s.fetchOps p ops) = u at hu
  have hfree : u.free = s.free := by rw [hu.frame]
  have hepoch : (u.pier p).epoch = (s.pier p).epoch := (congrArg Pier.epoch (hu.rest p) :)
  refine ⟨u, hu, ?_⟩
  rw [← hfree, ← hepoch]

/-- From a head that nothing holds to the header started, whose shares have not begun: bed caches may be invalidated, and nothing moves
in the lines. -/
structure State.StartsHeader (s t : State) (q : QKey) (x : QEntry) : Prop where
  frame : t = { s with
    piers := t.piers, queues := t.queues, crossHeld := t.crossHeld, crossPtr := t.crossPtr, free := s.free + 1, edgeRot := t.edgeRot
    held := t.held, counters := t.counters }
  run : s.powerState = 3 → t.powerState = 3 ∧ t.held = s.held ∧ t.counters = s.counters
  rest : ∀ p, (t.pier p).butBegun = (s.pier p).butBegun
  lines : ∀ p, (t.pier p).lines = (s.pier p).lines
  bed : ∀ p, (t.pier p).bed = ((if x.hdr.waitInval then s.dropBed x.hdr.unit none else s).pier p).bed
  queues : ∀ k, k ≠ q → t.queue k = s.queue k

/-- A pier once the bed caches beneath a header's unit have been invalidated, where its wait asks it. -/
theorem State.pier_inval (s : State) (x : QEntry) (r : PierId) :
    { (if x.hdr.waitInval then s.dropBed x.hdr.unit none else s).pier r with bed := [] } = { s.pier r with bed := [] } := by
  split
  · exact s.dropBed_rest _ _ r
  · rfl

theorem State.inval_frame (s : State) (x : QEntry) : (if x.hdr.waitInval then s.dropBed x.hdr.unit none else s) =
    { s with piers := (if x.hdr.waitInval then s.dropBed x.hdr.unit none else s).piers } := by
  split
  · exact s.dropBed_frame _ _
  · rfl

section Started
variable {s : State} {q : QKey} {x : QEntry} (hx : s.head q = some x) (hm : x.malformed = false) {p : PierId}
  (hb : s.heldBack q x.hdr (s.pier p).policy (s.readOps x.hdr (s.pier p).policy) = false) (hu : s.unitFailed x.hdr = false)
  (hc : s.courseFailed x.hdr = false)
include hx hm hb hu hc

theorem State.metHead_starts : ∃ t, s.StartsHeader t q x ∧ s.metHead q p x = t.beginShares q ∧
    t.queue q = x.started s p (s.pier p).policy (s.readOps x.hdr (s.pier p).policy)
      (s.sharePiers x.hdr (s.pier p).policy (s.readOps x.hdr (s.pier p).policy)) :: (s.queue q).tail := by
  obtain ⟨w, hw⟩ : ∃ w, w = if x.hdr.waitInval then s.dropBed x.hdr.unit none else s := ⟨_, rfl⟩
  have hframe : w = { s with piers := w.piers } := by
    rw [hw]
    exact s.inval_frame x
  have hpier : ∀ r, { w.pier r with bed := [] } = { s.pier r with bed := [] } := by
    rw [hw]
    exact s.pier_inval x
  have hreads : s.SameReads w := ⟨by rw [hframe], by rw [hframe]⟩
  have hfailed : w.unitFailed x.hdr = s.unitFailed x.hdr := by
    have hf : ∀ r, (w.pier r).failed = (s.pier r).failed := fun r => (congrArg Pier.failed (hpier r) :)
    simp only [State.unitFailed, State.deadPier, hf]
  have hmet : s.metHead q p x =
      (w.startHeader q x.hdr p (s.pier p).policy (s.readOps x.hdr (s.pier p).policy)).beginShares q := by
    unfold State.metHead
    dsimp only
    rw [hm, hb, hu, hc, ← hw, hfailed, hu]
    rfl
  obtain ⟨u, hstirs, hstart⟩ := w.startHeader_eq q x.hdr p (s.pier p).policy (s.readOps x.hdr (s.pier p).policy)
  rw [State.sharePiers_congr hreads (by rw [hframe]),
    State.readBound_congr hreads (by rw [hframe]) fun r => (congrArg Pier.cfg (hpier r) :),
    show (w.pier p).epoch = (s.pier p).epoch from (congrArg Pier.epoch (hpier p) :), show w.free = s.free by rw [hframe]] at hstart
  rw [hmet, hstart]
  have huq : ∀ k, u.queue k = s.queue k := fun k =>
    (State.queue_congr hstirs.queues k).trans (State.queue_congr (by rw [hframe]) k)
  have hux : ({ u with free := s.free + 1 } : State).head q = some x := (State.head_congr (huq q)).trans hx
  have hwake : ∀ r, (w.pier r).awake = (s.pier r).awake := fun r => (congrArg Pier.awake (hpier r) :)
  refine ⟨_, ⟨?frame, fun hrun => ?run, fun r => ?rest, fun r => ?lines, fun r => ?bed, fun k hk => ?queues⟩, rfl, ?queue⟩
  case frame =>
    rw [State.updHead_frame, hstirs.frame, hframe]
  case run =>
    have hw3 : w.powerState = 3 := State.powerState_mono (by rw [hframe]) (fun r => by rw [hwake]; exact id) hrun
    have hu3 : u.powerState = 3 := State.powerState_mono (by rw [hstirs.frame]) hstirs.awake hw3
    obtain ⟨hh, hcount⟩ := hstirs.run hw3
    rw [State.updHead_frame]
    exact ⟨hu3, hh.trans (by rw [hframe]), hcount.trans (by rw [hframe])⟩
  case rest =>
    rw [State.pier_updHead]
    exact (hstirs.rest r).trans (congrArg (fun pr : Pier => pr.butBegun) (hpier r) :)
  case lines =>
    rw [State.pier_updHead]
    exact (hstirs.lines r).trans (congrArg Pier.lines (hpier r) :)
  case bed =>
    rw [State.pier_updHead, ← hw]
    exact hstirs.bed r
  case queues =>
    rw [State.queue_updHead_ne _ _ hk]
    exact huq k
  case queue =>
    rw [State.queue_updHead hux, State.queue_congr (show ({ u with free := s.free + 1 } : State).queues = u.queues from rfl), huq]
    simp only [QEntry.started, hm]

end Started

/-- A head that is well formed, whose turn has come and whose wait is met goes on to what follows its wait. -/
theorem State.decodeHead_met {s : State} {q : QKey} {x : QEntry} (hx : s.head q = some x) (hhold : s.holding = false)
    (hturn : s.inTurn q = true) (hawake : s.asleepBefore x.hdr.unit x.hdr.stream = none)
    (hphase : x.phase = .queued ∧ s.malformed x.hdr x.origin (s.queuePier q) = false ∧ s.headerMet x.hdr = true ∨
      x.phase = .waiting ∧ x.malformed = false ∧ s.headerMet x.hdr = true ∨ x.phase = .met ∧ x.malformed = false) :
    ∃ f : QEntry → QEntry, f x = { x with phase := .met, malformed := false } ∧
      s.decodeHead q = (s.updHead q f).metHead q (s.queuePier q) (f x) := by
  obtain ⟨hq, hgood, hmet⟩ | hlater := hphase
  · refine ⟨fun _ => { x with phase := .met, malformed := false }, rfl, ?_⟩
    rw [State.decodeHead_first hx hhold hturn hawake hq hgood, if_neg Bool.false_ne_true,
      State.evaluateHead_met (x := x.decoded false) (.inr ⟨rfl, (s.headerMet_updHead q _ _).trans hmet⟩), State.updHead_updHead hx]
    rfl
  · have hne : x.phase ≠ .queued := by
      obtain ⟨hp, -⟩ | ⟨hp, -⟩ := hlater <;> simp [hp]
    have hmet : x.phase = .met ∨ x.phase = .waiting ∧ s.headerMet x.hdr = true := hlater.symm.imp And.left fun h => ⟨h.1, h.2.2⟩
    have hm : x.malformed = false := hlater.elim (fun h => h.2.1) And.right
    refine ⟨fun y => { y with phase := .met }, congrArg (fun m => ({ x with phase := .met, malformed := m } : QEntry)) hm, ?_⟩
    rw [State.decodeHead_later hx hhold hturn hawake hne, State.evaluateHead_met hmet]
    rfl

/-- The shares of a header that has just started begin. -/
theorem State.beginShares_started {s : State} {q : QKey} {x : QEntry} {xs : List QEntry} (hq : s.queue q = x :: xs) (hp : x.phase = .ready) :
    s.beginShares q = x.shares.foldl (fun (s : State) p => s.beginShare q x p) s := by
  unfold State.beginShares
  rw [State.head_of_queue hq]
  simp [hp]

/-- No share of a header whose domains work needs one that has failed. -/
theorem State.fit_of_works {s : State} {h : Header} (hu : s.unitFailed h = false) (hc : s.courseFailed h = false) {p : PierId}
    (hp : p ∈ unitPiers h.unit) : s.fit h.key h p := by
  have hdead : ∀ r ∈ unitPiers h.unit, s.deadPier r = false := by simpa [State.unitFailed] using hu
  refine ⟨hdead p hp, fun huse c hcu => ?_⟩
  rw [unitCourses_key huse] at hcu
  have hall : ∀ r ∈ unitPiers h.unit, ∀ c ∈ unitCourses h.unit,
      (s.pier r).failed.contains (domainNo (.course (courseId r c))) = false := by
    simpa [State.courseFailed, huse] using hc
  exact hall p hp c hcu

/-- Settles O20: the wait met, the header started, its shares begun one by one. -/
theorem headerStarted : Obligations.header_started := by
  intro q s x hx hhold hturn hkey hbegun hpiers hawake hphase h v ops ps path hheld hunit hcourse
  obtain ⟨f, hf, hdecode⟩ := State.decodeHead_met hx hhold hturn hawake hphase
  have hhdr : (f x).hdr = h := by rw [hf]
  obtain ⟨w, hstart, hmet, hqueue⟩ := State.metHead_starts (p := s.queuePier q) (State.head_updHead hx f) (by rw [hf])
    (by rw [hhdr, State.readOps_updHead, State.heldBack_updHead, State.pier_updHead]; exact hheld)
    (by rw [hhdr, State.unitFailed_updHead]; exact hunit) (by rw [hhdr, State.courseFailed_updHead]; exact hcourse)
  have hreads := State.SameReads.updHead s q f
  have hentry : (f x).started (s.updHead q f) (s.queuePier q) v ops ps = x.started s (s.queuePier q) v ops ps := by
    rw [hf]
    simp only [QEntry.started, State.pier_updHead,
      State.readBound_congr hreads (by rw [State.updHead_frame]) fun r => congrArg Pier.cfg (s.pier_updHead q f r)]
  rw [hhdr, State.readOps_updHead, State.pier_updHead, State.sharePiers_congr hreads (by rw [State.updHead_frame]), hentry,
    State.queue_updHead hx] at hqueue
  obtain ⟨hframe, hrun, hrest, hlines, hbed, hqueues⟩ := hstart
  have hrest' : ∀ p, (w.pier p).butBegun = (s.pier p).butBegun := fun p => (hrest p).trans (by rw [State.pier_updHead])
  have hlines' : ∀ p, (w.pier p).lines = (s.pier p).lines := fun p => (hlines p).trans (by rw [State.pier_updHead])
  have hframe' : w = { s with
      piers := w.piers, queues := w.queues, crossHeld := w.crossHeld, crossPtr := w.crossPtr, free := s.free + 1, edgeRot := w.edgeRot
      held := w.held, counters := w.counters } := hframe.trans (by rw [State.updHead_frame])
  have hroom : w.shareRoom q h = s.shareRoom q h := State.shareRoom_congr (by rw [hframe']) hrest' q h
  have hout : w.outside q h = s.outside q h := State.outside_congr (by rw [hframe']) q h
  have hbegin : w.Begun (w.beginShares q) q h (x.started s (s.queuePier q) v ops ps) ps := by
    rw [State.beginShares_started hqueue rfl]
    refine State.Begun.all _ ps (State.head_of_queue hqueue) hpiers (s.sharePiers_spec h v ops).1 (fun p _ => ?_) fun p hp => ?_
    · simp [QEntry.started, hbegun]
    · rw [State.fit_congr (hrest' p), ← hkey]
      exact State.fit_of_works hunit hcourse ((s.sharePiers_spec h v ops).2 p hp)
  have hbedof : ∀ p, ((w.beginShares q).pier p).bed = ((if h.waitInval then s.dropBed h.unit none else s).pier p).bed := by
    intro p
    rw [hbegin.going.bed, hbed, hhdr]
    cases h.waitInval with
    | false => exact congrArg Pier.bed (s.pier_updHead q f p)
    | true => simp only [if_true, State.pier_dropBed, State.pier_updHead]
  refine ⟨w.beginShares q, ?exec, ?queue, fun k hk => ?queues, fun p hp hr ho => ?shares, fun hi p => ?bed,
    fun hi p => ⟨fun hp => ?other, fun hp hl => ?courses, fun hp hl b hb hc => ?core⟩, fun p => ?rest, fun h3 => ?run, ?frame⟩
  case exec => exact congrArg Host.Outcome.next (hdecode.trans hmet)
  case queue =>
    rw [hbegin.queue, hqueue, hroom]
    simp only [QEntry.started, hbegun, List.nil_append, List.tail_cons]
    rfl
  case queues => rw [hbegin.queues k hk, hqueues k hk, State.queue_updHead_ne s f hk]
  case shares =>
    obtain ⟨hrunning, hcourses, hreach⟩ := hbegin.shares p hp (by rwa [hroom]) (by rwa [hout])
    exact ⟨hrunning, hcourses, fun c hc => (hreach c hc).congr (hlines' p).symm
      (State.seqRoom_congr (by rw [hframe']) (hrest' p) (Pier.line_congr (hlines' p) c h.stream)).symm rfl⟩
  case bed => simp [hbedof, hi]
  case other => simp [hbedof, hi, State.pier_dropBed, hp]
  case courses =>
    rw [hbedof, hi, if_pos rfl, State.pier_dropBed, if_pos hp]
    exact filterMap_dropLine hl _
  case core =>
    rw [hbedof, hi, if_pos rfl, State.pier_dropBed, if_pos hp] at hb
    obtain ⟨b', -, hb'⟩ := List.mem_filterMap.mp hb
    exact dropLine_of_core hl hb' hc
  case rest => exact (hbegin.going.rest p).trans (hrest' p)
  case run =>
    have h3' : (s.updHead q f).powerState = 3 := State.powerState_mono (by rw [State.updHead_frame])
      (fun r => by rw [State.pier_updHead]; exact id) h3
    obtain ⟨hw3, hheldw, hcountw⟩ := hrun h3'
    obtain ⟨hheldt, hcountt⟩ := hbegin.going.run hw3
    exact ⟨hheldt.trans (hheldw.trans (by rw [State.updHead_frame])), hcountt.trans (hcountw.trans (by rw [State.updHead_frame]))⟩
  case frame => rw [hbegin.going.frame, hframe']

end Sys2Proof.Machine
end

section
/-! SUPPORT. Bytes written through a home pier (R375, R376, R378, R385): what a write changes besides memory. -/

namespace Sys2Proof.Machine

/-! ## Mortar and channels -/

theorem Pier.writeBack_frame (p : Pier) (mem : List Host.Cell) (l : MortLine) :
    p.writeBack mem l = { p with checks := (p.writeBack mem l).checks, checkCells := (p.writeBack mem l).checkCells } := by
  unfold Pier.writeBack
  split
  · exact Pier.channelWrite_frame _ _ _
  · rfl

theorem Pier.touchLine_frame (p : Pier) (mem : List Host.Cell) (line : Nat) : p.touchLine mem line = { p with
    mortar := (p.touchLine mem line).mortar, plru := (p.touchLine mem line).plru, checks := (p.touchLine mem line).checks
    checkCells := (p.touchLine mem line).checkCells } := by
  have hfold : ∀ (ls : List MortLine) (p : Pier), ls.foldl (fun p l => p.writeBack mem l) p = { p with
      checks := (ls.foldl (fun p l => p.writeBack mem l) p).checks
      checkCells := (ls.foldl (fun p l => p.writeBack mem l) p).checkCells } := by
    intro ls
    induction ls with
    | nil => exact fun p => rfl
    | cons l ls ih =>
      intro p
      rw [List.foldl_cons, ih (p.writeBack mem l), p.writeBack_frame mem l]
  unfold Pier.touchLine
  dsimp only
  split
  · rfl
  · split
    · rfl
    · rw [hfold]

theorem Pier.channelRead_frame (p : Pier) (line : Nat) :
    p.channelRead line = { p with checks := (p.channelRead line).checks, checkCells := (p.channelRead line).checkCells } :=
  p.useCheck_frame _

/-! ## What a write leaves -/

/-- Memory, poison and the caches may change, and nothing else. -/
structure State.Writes (s t : State) : Prop where
  frame : t = { s with mem := t.mem, poison := t.poison, piers := t.piers }
  piers : ∀ p, (t.pier p).butCaches = (s.pier p).butCaches

theorem State.Writes.refl (s : State) : s.Writes s := ⟨rfl, fun _ => rfl⟩

theorem State.Writes.trans {s t u : State} (h : s.Writes t) (g : t.Writes u) : s.Writes u :=
  ⟨by rw [g.frame, h.frame], fun p => (g.piers p).trans (h.piers p)⟩

theorem State.Writes.foldl {α : Type} (f : State → α → State) (hf : ∀ (s : State) a, s.Writes (f s a)) (l : List α) :
    ∀ s : State, s.Writes (l.foldl f s) := by
  induction l with
  | nil => exact .refl
  | cons a l ih => exact fun s => (hf s a).trans (ih _)

/-- A state whose caches alone differ, their contents of memory apart. -/
structure State.Caches (s t : State) : Prop where
  frame : t = { s with piers := t.piers }
  piers : ∀ p, (t.pier p).butCaches = (s.pier p).butCaches
  bed : ∀ p, (t.pier p).bed = (s.pier p).bed

theorem State.Caches.refl (s : State) : s.Caches s := ⟨rfl, fun _ => rfl, fun _ => rfl⟩

theorem State.Caches.trans {s t u : State} (h : s.Caches t) (g : t.Caches u) : s.Caches u :=
  ⟨by rw [g.frame, h.frame], fun p => (g.piers p).trans (h.piers p), fun p => (g.bed p).trans (h.bed p)⟩

theorem State.Caches.updPier (s : State) (p : PierId) (f : Pier → Pier)
    (hf : ∀ pr, (f pr).butCaches = pr.butCaches ∧ (f pr).bed = pr.bed) : s.Caches (s.updPier p f) := by
  refine ⟨rfl, fun r => ?_, fun r => ?_⟩
  · rw [State.pier_updPier_ite]
    split
    · exact (hf _).1
    · rfl
  · rw [State.pier_updPier_ite]
    split
    · exact (hf _).2
    · rfl

theorem State.Caches.readLine (s : State) (p : PierId) (line : Nat) : s.Caches (s.readLine p line) := by
  refine .updPier s p _ fun pr => ?_
  rw [Pier.touchLine_frame]
  split
  · exact ⟨rfl, rfl⟩
  · rw [Pier.channelRead_frame]
    exact ⟨rfl, rfl⟩

theorem State.Caches.dirtyLine (s : State) (p : PierId) (line : Nat) : s.Caches (s.dirtyLine p line) := by
  unfold State.dirtyLine
  refine State.Caches.updPier s p _ fun pr => ?_
  rw [Pier.touchLine_frame]
  exact ⟨rfl, rfl⟩

theorem State.Caches.channelLine (s : State) (p : PierId) (line : Nat) (new : List Host.Cell) : s.Caches (s.channelLine p line new) := by
  unfold State.channelLine
  split
  · exact .refl s
  · refine State.Caches.updPier s p _ fun pr => ?_
    rw [Pier.channelWrite_frame]
    exact ⟨rfl, rfl⟩

/-- A line written: the bed caches that hold it turn stale (R376), and the mortar or the channel takes it. -/
theorem State.Caches.cacheWrite (s : State) (via : WriteVia) (p : PierId) (line : Nat) (new : List Host.Cell) (whole : Bool) :
    (s.staleLine p line).Caches (s.cacheWrite via p line new whole) := by
  unfold State.cacheWrite
  generalize s.staleLine p line = t
  match via with
  | .mortar =>
    refine State.Caches.trans (t := if whole then t else t.readLine p line) ?_ ((State.Caches.dirtyLine _ p line).trans (.channelLine _ p line new))
    split
    · exact .refl t
    · exact .readLine t p line
  | .trowel =>
    dsimp only
    split
    · exact .dirtyLine t p line
    · exact .channelLine t p line new
  | .quoin => exact .updPier t p _ fun _ => ⟨rfl, rfl⟩

theorem State.Writes.staleLine (s : State) (p : PierId) (line : Nat) : s.Writes (s.staleLine p line) := by
  unfold State.staleLine
  split
  · refine ⟨rfl, fun r => ?_⟩
    rw [State.pier_updPier_ite]
    split
    · rfl
    · rfl
  · exact .refl s

theorem State.Writes.cacheWrite (s : State) (via : WriteVia) (p : PierId) (line : Nat) (new : List Host.Cell) (whole : Bool) :
    s.Writes (s.cacheWrite via p line new whole) := by
  obtain ⟨hframe, hpiers, -⟩ := State.Caches.cacheWrite s via p line new whole
  exact (State.Writes.staleLine s p line).trans ⟨by rw [hframe], hpiers⟩

/-- The lines of a write, each at its home pier. -/
def State.cacheLines (s : State) (via : WriteVia) (new : List Host.Cell) (whole : Nat → Bool) (ls : List Nat) : State :=
  ls.foldl (fun s l => match s.memHome l with
    | some p => s.cacheWrite via p l new (whole l)
    | none => s) s

theorem State.Writes.cacheLines (s : State) (via : WriteVia) (new : List Host.Cell) (whole : Nat → Bool) (ls : List Nat) :
    s.Writes (s.cacheLines via new whole ls) := by
  refine .foldl _ (fun s l => ?_) ls s
  split
  · exact .cacheWrite s via _ l new _
  · exact .refl s

/-- The bytes of a write that lie in present memory. -/
def State.present (s : State) (a : Nat) (bs : List Byte) : List (Nat × Byte) :=
  (List.range bs.length).filterMap fun i => if (s.memHome (a + i)).isSome then some (wrap52 (a + i), byteAt bs i) else none

theorem State.writePart_eq (s : State) (via : WriteVia) (full : List Nat) (a : Nat) (bs : List Byte) :
    ∃ (whole : Nat → Bool) (poison : List Nat), s.writePart via full a bs =
      let new := (s.present a bs).foldl (fun m c => memSet m c.1 c.2) s.mem
      { s.cacheLines via new whole (linesOf a bs.length) with mem := new, poison := poison } := ⟨_, _, rfl⟩

theorem State.Writes.writePart (s : State) (via : WriteVia) (full : List Nat) (a : Nat) (bs : List Byte) :
    s.Writes (s.writePart via full a bs) := by
  obtain ⟨whole, poison, heq⟩ := s.writePart_eq via full a bs
  obtain ⟨hframe, hpiers⟩ := State.Writes.cacheLines s via ((s.present a bs).foldl (fun m c => memSet m c.1 c.2) s.mem) whole
    (linesOf a bs.length)
  rw [heq]
  refine ⟨?_, hpiers⟩
  dsimp only
  rw [hframe]

theorem State.Writes.writeBytes (s : State) (via : WriteVia) (a : Nat) (bs : List Byte) : s.Writes (s.writeBytes via a bs) :=
  .writePart s via [] a bs

theorem State.Writes.putHome (s : State) (p : PierId) (via : WriteVia) (a : Nat) (bs : List Byte) : s.Writes (s.putHome p via a bs) := by
  unfold State.putHome
  split
  · exact .writeBytes s via a bs
  · refine .foldl _ (fun t i => ?_) _ s
    split
    · exact .writeBytes t via _ _
    · exact .refl t

end Sys2Proof.Machine
end

section
/-! SUPPORT. HEADER_COMPLETE (R202, R376): the figures that a share left for another pier's table turn that pier's bed caches stale. -/

namespace Sys2Proof.Machine

/-! ## Bed caches turned stale (R376) -/

/-- No core of a pier's bed caches holds a line as memory has it. -/
def Pier.stale (p : Pier) (line : Nat) : Prop := ∀ b ∈ p.bed, b.line = line → b.held = 0

theorem State.stale_staleLine (s : State) (p : PierId) (line : Nat) : ((s.staleLine p line).pier p).stale line := by
  intro b hb hl
  unfold State.staleLine at hb
  split at hb
  · rw [State.pier_updPier] at hb
    obtain ⟨c, -, rfl⟩ := List.mem_map.mp hb
    split at hl
    · next hc => rw [if_pos hc]
    · next hc => exact absurd (by simpa using hl) hc
  · next hany =>
    simp only [List.any_eq_true, not_exists, not_and] at hany
    exact absurd (by simpa using hl) (hany b hb)

theorem Pier.stale.staleLine {s : State} {r : PierId} {line : Nat} (h : (s.pier r).stale line) (p : PierId) (m : Nat) :
    ((s.staleLine p m).pier r).stale line := by
  unfold State.staleLine
  split
  · rw [State.pier_updPier_ite]
    split
    · intro b hb hl
      obtain ⟨c, hc, rfl⟩ := List.mem_map.mp hb
      split at hl
      · next hm => rw [if_pos hm]
      · next hm =>
        rw [if_neg hm]
        exact h c (by simpa [‹r = p›] using hc) hl
    · exact h
  · exact h

theorem Pier.stale_congr {p r : Pier} (h : p.bed = r.bed) (line : Nat) : p.stale line ↔ r.stale line := by
  rw [Pier.stale, Pier.stale, h]

theorem State.Writes.memHome {s t : State} (h : s.Writes t) : t.memHome = s.memHome :=
  State.SameReads.memHome (t := { t with mem := s.mem }) ⟨rfl, by rw [h.frame]⟩

/-- The lines of a write, at their home piers, leave no bed cache there with them. -/
theorem State.stale_cacheLines (via : WriteVia) (new : List Host.Cell) (whole : Nat → Bool) {p : PierId} {line : Nat} (ls : List Nat) :
    ∀ s : State, (s.pier p).stale line ∨ line ∈ ls ∧ s.memHome line = some p → ((s.cacheLines via new whole ls).pier p).stale line := by
  induction ls with
  | nil => exact fun s h => h.elim id fun h => absurd h.1 List.not_mem_nil
  | cons l ls ih =>
    intro s h
    obtain ⟨u, hu⟩ : ∃ u, u = match s.memHome l with
      | some p => s.cacheWrite via p l new (whole l)
      | none => s := ⟨_, rfl⟩
    have hstep : s.cacheLines via new whole (l :: ls) = u.cacheLines via new whole ls := by
      rw [hu]
      rfl
    have hhome : u.memHome = s.memHome := by
      refine State.Writes.memHome ?_
      rw [hu]
      split
      · exact .cacheWrite s via _ l new _
      · exact .refl s
    rw [hstep]
    refine ih u ?_
    have hwrite : ∀ r, s.memHome l = some r → ∀ x : PierId, (u.pier x).stale line ↔ ((s.staleLine r l).pier x).stale line := by
      intro r hr x
      rw [hu, hr]
      exact Pier.stale_congr ((State.Caches.cacheWrite s via r l new (whole l)).bed x) line
    obtain h | ⟨hl, hp⟩ := h
    · refine .inl ?_
      cases hr : s.memHome l with
      | none => rw [hu, hr]; exact h
      | some r => exact (hwrite r hr p).mpr (h.staleLine r l)
    · obtain rfl | hl := List.mem_cons.mp hl
      · exact .inl ((hwrite p hp p).mpr (s.stale_staleLine p line))
      · exact .inr ⟨hl, by rw [hhome]; exact hp⟩

theorem State.stale_writeBytes (s : State) (via : WriteVia) {a line : Nat} {bs : List Byte} {p : PierId} (hl : line ∈ linesOf a bs.length)
    (hp : s.memHome line = some p) : ((s.writeBytes via a bs).pier p).stale line := by
  obtain ⟨whole, poison, heq⟩ := s.writePart_eq via [] a bs
  rw [State.writeBytes, heq]
  exact State.stale_cacheLines via _ whole _ s (.inr ⟨hl, hp⟩)

theorem lineOf_mem_linesOf (a : Nat) {n : Nat} (hn : 0 < n) : lineOf a ∈ linesOf a n := by
  unfold linesOf
  rw [if_neg (by simp; omega)]
  exact List.mem_map.mpr ⟨0, List.mem_range.mpr (by omega), rfl⟩

/-- A share's statistics combined into its pier's table leave no bed cache there with the line of its entry. -/
theorem State.stale_combineStat (s : State) (epoch seq : Nat) (f : StatFig) {line : Nat} (h : s.statLine f = some line)
    (hp : s.memHome line = some f.pier) : ((s.combineStat epoch seq f).pier f.pier).stale line := by
  unfold State.statLine at h
  unfold State.combineStat
  dsimp only at h ⊢
  split at h
  · cases h
  · next hnone =>
    simp only [Bool.or_eq_true, not_or, Bool.not_eq_true] at hnone
    obtain ⟨⟨hcount, hentry⟩, hreach⟩ := hnone
    rw [if_neg (by simp [hcount]), if_neg (by simp [hentry, hreach])]
    refine State.stale_writeBytes s .mortar ?_ hp
    rw [← Option.some.inj h]
    exact lineOf_mem_linesOf _ (by simp [length_leBytes])

/-! ## A header that sends no signal -/

/-- The header at the head of a queue gone from it changes nothing of a pier but its lines. -/
theorem State.pier_leave (s : State) (q : QKey) (r : PierId) : { (s.leave q).pier r with lines := [] } = { s.pier r with lines := [] } := by
  have hpop : (s.popHead q).pier r = s.pier r := s.pier_setQueue q _ r
  unfold State.leave
  dsimp only
  split
  · rw [State.pier_updPier_ite]
    split
    · rw [Pier.leaveLines_lines, hpop]
    · rw [hpop]
  · rw [hpop]

theorem State.stale_leave (s : State) (q : QKey) (r : PierId) (line : Nat) : ((s.leave q).pier r).stale line ↔ (s.pier r).stale line :=
  Pier.stale_congr (congrArg Pier.bed (s.pier_leave q r) :) line

theorem State.completeHead_unsignalled {s : State} {q : QKey} {x : QEntry} (hx : s.head q = some x) (hp : x.phase = .ran) (hj : x.jobs = 0)
    (hs : x.signal = none) : s.completeHead q = ((s.closeHeader x).reportHeader x).leave q := by
  unfold State.completeHead
  rw [hx]
  simp [hp, hj, hs]

/-- Of a pier outside its unit what a header's completion writes is the figures in its tables. -/
theorem State.pier_closeHeader {s : State} {x : QEntry} {r : PierId} (h : r ∉ unitPiers x.hdr.unit) : (s.closeHeader x).pier r =
    (x.sparse.foldl (fun (s : State) f => s.combineSparse x.epoch x.hdr.seq f)
      (x.stats.foldl (fun (s : State) f => s.combineStat x.epoch x.hdr.seq f) s)).pier r := by
  unfold State.closeHeader
  dsimp only
  rw [State.pier_dropBed, if_neg h]

/-! ## The counterexample -/

/-- A line of the window of pier 1. -/
def tableLine : Nat := 0x4_0000_0000

/-- Statistics for the table of pier 1. -/
def statFigure : StatFig := ⟨1, 0, 0, false, false, false, false, 0, 0⟩

/-- A header of a core of pier 0 that has run, with such statistics. -/
def statEntry : QEntry := { QEntry.fresh ⟨0, 0, 0, 0, 0, 0, 0, 0⟩ .image with
  phase := .ran, stats := [statFigure] }

/-- It is at the head of its queue; pier 1 has a table of one entry, and a core of it holds the line of that entry in its bed cache. -/
def statState : State := { State.reset.updPier 1 fun p => { p with
    cfg := { p.cfg with statsCount := 1, statsBase := BitVec.ofNat 64 tableLine }, bed := [⟨0, tableLine, 1, []⟩] } with
  queues := [⟨⟨0, 0⟩, [statEntry]⟩] }

theorem statLine_statState : statState.statLine statFigure = some tableLine := by
  decide

theorem bed_statState : (statState.pier 1).bed = [⟨0, tableLine, 1, []⟩] := by
  decide

/-- Refutes O21: the clause that the bed caches of piers outside the unit stay fails where a figure goes to the table of such a pier, whose
lines turn stale (R376). -/
theorem not_headerCompletes : ¬ Obligations.header_completes := by
  intro hall
  have hhead : statState.head ⟨0, 0⟩ = some statEntry := rfl
  have hsends : ∀ kind, ¬(statEntry.hdr.sigEn = true ∧ kind = statEntry.hdr.sigOp ∧ (statEntry.hdr.sigOp < 2 ∨
      statEntry.hdr.sigOp = 2 ∧ statEntry.hdr.opcode = 0x13 ∧ statEntry.malformed = true)) := fun kind h => by
    have : statEntry.hdr.sigEn = false := by decide
    simp [this] at h
  obtain ⟨t, ht, -, -, -, -, hbed, -⟩ := (hall ⟨0, 0⟩ statState statEntry hhead rfl rfl).1 hsends
  have hrun : t = ((statState.closeHeader statEntry).reportHeader statEntry).leave ⟨0, 0⟩ :=
    (Host.Outcome.next.inj ht).symm.trans (State.completeHead_unsignalled hhead rfl rfl (by decide))
  have hreport : ∀ u : State, u.reportHeader statEntry = u := fun _ => rfl
  have hclose : ((statState.closeHeader statEntry).pier 1).stale tableLine := by
    rw [State.pier_closeHeader (by decide)]
    have htables : statEntry.stats = [statFigure] ∧ statEntry.sparse = [] := ⟨rfl, rfl⟩
    rw [htables.1, htables.2, List.foldl_nil, List.foldl_cons, List.foldl_nil]
    exact statState.stale_combineStat _ _ statFigure statLine_statState (by decide)
  have hstale : (t.pier 1).stale tableLine := by
    rw [hrun, hreport]
    exact (State.stale_leave _ _ 1 tableLine).mpr hclose
  rw [Pier.stale, (hbed 1).1 (by decide), bed_statState] at hstale
  simp at hstale

end Sys2Proof.Machine
end

section
/-! SUPPORT. Work that leaves what keystones hold and what is told of it (R412, R416): memory written, piers woken, repairs made. -/

namespace Sys2Proof.Machine

/-! ## Registers of a port apart from others (R551) -/

theorem portQuoin_corner (r : PortId) : (cornerPier (portQuoin r)).val = 0 ∨ (cornerPier (portQuoin r)).val = 7 := by
  revert r
  decide

theorem plmbReg_ne_skovReg (r : PortId) {w : Nat} (hw : w < 0x100) (d : Bool) {v : Nat} (hv : v < 0x1000) : plmbReg r w ≠ skovReg d v := by
  have hr := portQuoin_corner r
  have hd : (cornerPier (if d then 3 else 1)).val = 3 ∨ (cornerPier (if d then 3 else 1)).val = 4 := by
    revert d
    decide
  unfold plmbReg skovReg quoinReg controlBase
  omega

theorem plmbReg_ne_pierCtr (r : PortId) {w : Nat} (hw : w < 0x100) (p : PierId) {k : Nat} (hk : k < 64) : plmbReg r w ≠ pierCtr p k := by
  have hr := portQuoin_corner r
  have hp := p.isLt
  unfold plmbReg pierCtr pierReg quoinReg controlBase
  omega

/-! ## What stays -/

/-- A pier's keystones with what waits for them, and its mason cores. -/
def Pier.keyPart (p : Pier) : Table × Table × Table × List KeyOp × List KeyOp × List Mason :=
  (p.keys, p.keys1, p.keys2, p.keyDeferred, p.keyArriving, p.masons)

/-- Work that leaves keystones, queues, hosts, mason cores and Skovlapers as they are, and stops no pier. -/
structure State.Still (s t : State) : Prop where
  ports : t.ports = s.ports
  skovs : t.skovs = s.skovs
  queues : t.queues = s.queues
  tick : t.tick = s.tick
  piers : ∀ p, (t.pier p).keyPart = (s.pier p).keyPart
  awake : ∀ p, (s.pier p).awake = true → (t.pier p).awake = true
  counters : ∀ r w, w < 0x100 → t.counters.get (plmbReg r w) = s.counters.get (plmbReg r w)

theorem State.Still.refl (s : State) : s.Still s := ⟨rfl, rfl, rfl, rfl, fun _ => rfl, fun _ => id, fun _ _ _ => rfl⟩

theorem State.Still.trans {s t u : State} (h : s.Still t) (g : t.Still u) : s.Still u :=
  ⟨g.ports.trans h.ports, g.skovs.trans h.skovs, g.queues.trans h.queues, g.tick.trans h.tick, fun p => (g.piers p).trans (h.piers p),
    fun p => g.awake p ∘ h.awake p, fun r w hw => (g.counters r w hw).trans (h.counters r w hw)⟩

theorem State.Still.foldl {α : Type} (f : State → α → State) (hf : ∀ (s : State) a, s.Still (f s a)) (l : List α) :
    ∀ s : State, s.Still (l.foldl f s) := by
  induction l with
  | nil => exact .refl
  | cons a l ih => exact fun s => (hf s a).trans (ih _)

theorem State.Still.updPier (s : State) (p : PierId) (f : Pier → Pier)
    (hf : ∀ pr, (f pr).keyPart = pr.keyPart ∧ (pr.awake = true → (f pr).awake = true)) : s.Still (s.updPier p f) := by
  refine ⟨rfl, rfl, rfl, rfl, fun r => ?_, fun r => ?_, fun _ _ _ => rfl⟩
  · rw [State.pier_updPier_ite]
    split
    · exact (hf _).1
    · rfl
  · rw [State.pier_updPier_ite]
    split
    · exact (hf _).2
    · exact id

theorem State.Writes.still {s t : State} (h : s.Writes t) : s.Still t := by
  obtain ⟨hframe, hpiers⟩ := h
  exact ⟨by rw [hframe], by rw [hframe], by rw [hframe], by rw [hframe], fun p => (congrArg Pier.keyPart (hpiers p) :),
    fun p => by rw [show (t.pier p).awake = (s.pier p).awake from (congrArg Pier.awake (hpiers p) :)]; exact id,
    fun _ _ _ => by rw [hframe]⟩

theorem State.Caches.still {s t : State} (h : s.Caches t) : s.Still t :=
  State.Writes.still ⟨by rw [h.frame], h.piers⟩

theorem State.Still.log (s : State) (r : Record) : s.Still (s.log r) := by
  have hframe := s.log_frame r
  refine ⟨by rw [hframe], by rw [hframe], by rw [hframe], by rw [hframe], fun p => by rw [hframe]; rfl, fun p => by rw [hframe]; exact id,
    fun t w hw => s.log_counters_get r (plmbReg_ne_skovReg t hw _ (by decide))⟩

theorem State.Still.event (s : State) (code arg : Nat) : s.Still (s.event code arg) := .log s _

theorem State.Still.bumpPier (s : State) (p : PierId) {k : Nat} (hk : k < 64) (n : Nat) : s.Still (s.bumpPier p k n) :=
  ⟨rfl, rfl, rfl, rfl, fun _ => rfl, fun _ => id, fun r _ hw => Table.get_addSat_ne _ _ (plmbReg_ne_pierCtr r hw p hk)⟩

theorem State.Still.sendPackets (s : State) (path : List (Nat × Nat)) (n : Nat) : s.Still (s.sendPackets path n) := by
  rw [State.sendPackets_frame]
  exact ⟨rfl, rfl, rfl, rfl, fun _ => rfl, fun _ => id, fun _ _ _ => rfl⟩

theorem State.Still.runChange (s t : State) : t.Still (s.runChange t) := by
  unfold State.runChange State.powerEvent
  split
  · exact .refl t
  · exact .event t _ _

theorem State.Still.deliver (s : State) (d : Domain) : s.Still (s.deliver d) :=
  ⟨rfl, rfl, rfl, rfl, fun _ => rfl, fun _ => id, fun _ _ _ => rfl⟩

theorem State.Still.wakePier (s : State) (p : PierId) : s.Still (s.wakePier p) := by
  unfold State.wakePier
  split
  · exact .refl s
  · split
    · exact .updPier s p (·.stir s.tick) fun _ => ⟨rfl, id⟩
    · exact (State.Still.updPier s p (fun pr => { pr.stir s.tick with awake := true, bondPos := 0 }) fun _ => ⟨rfl, fun _ => rfl⟩).trans
        ((State.Still.runChange s _).trans (.deliver _ _))

/-! ## An element written by a share -/

theorem State.Still.demandLine (s : State) (p : PierId) (line : Nat) : s.Still (s.demandLine p line) := by
  refine (State.Caches.readLine s p line).still.trans (.bumpPier _ p ?_ 1)
  split <;> decide

theorem State.Caches.trowelLine (s : State) (p : PierId) (line : Nat) : s.Caches (s.trowelLine p line) := by
  refine .updPier s p _ fun pr => ?_
  split
  · rw [Pier.touchLine_frame]
    exact ⟨rfl, rfl⟩
  · split
    · exact ⟨rfl, rfl⟩
    · rw [Pier.channelRead_frame]
      exact ⟨rfl, rfl⟩

theorem Pier.trackRuns_frame (p : Pier) (core : Nat) (ls : List Nat) : p.trackRuns core ls = { p with runs := (p.trackRuns core ls).runs } := by
  unfold Pier.trackRuns
  dsimp only
  split <;> split <;> rfl

theorem State.Still.noteRuns (s : State) (e : Env) (ls : List (Nat × Nat)) : s.Still (s.noteRuns e ls) := by
  have hfold : ∀ (g : Nat → List Nat) (ks : List Nat) (pr : Pier),
      (ks.foldl (fun pr k => pr.trackRuns k (g k)) pr).keyPart = pr.keyPart ∧
        (ks.foldl (fun pr k => pr.trackRuns k (g k)) pr).awake = pr.awake := by
    intro g ks
    induction ks with
    | nil => exact fun pr => ⟨rfl, rfl⟩
    | cons k ks ih =>
      intro pr
      rw [List.foldl_cons, (ih _).1, (ih _).2, Pier.trackRuns_frame]
      exact ⟨rfl, rfl⟩
  unfold State.noteRuns
  split
  · exact .refl s
  · exact .updPier s e.p _ fun pr => ⟨(hfold _ _ pr).1, fun h => (hfold _ _ pr).2.trans h⟩

theorem State.Still.readLines (s : State) (e : Env) (via : WriteVia) (m : Met) : s.Still (s.readLines e via m) := by
  match via with
  | .mortar => exact (State.Still.foldl _ (fun s l => .demandLine s e.p l) _ s).trans (.noteRuns _ e _)
  | .trowel => exact .foldl _ (fun s l => (State.Caches.trowelLine s e.p l).still) _ s
  | .quoin => exact .refl s

theorem State.Writes.putCode (s : State) (via : WriteVia) (full : List Nat) (l : Loc) (code : Nat) : s.Writes (s.putCode via full l code) := by
  unfold State.putCode
  split
  · exact .writePart s via full _ _
  · exact .writePart s via full _ _

theorem State.Writes.putPart (s : State) (via : WriteVia) (full : List Nat) (l : Loc) (comp : Option Nat) (ok : Bool) (code err : Nat) :
    s.Writes (s.putPart via full l comp ok code err) := by
  have hcode : s.Writes (if ok then s.putCode via full l code else s) := by
    split
    · exact .putCode s via full l code
    · exact .refl s
  cases comp with
  | none => exact hcode
  | some c => exact hcode.trans (.writePart _ via full c _)

theorem Put.ite_writes {s : State} {c : Prop} [Decidable c] {x y : Put} (hx : s.Writes x.s) (hy : s.Writes y.s) :
    s.Writes (if c then x else y).s := by
  split
  · exact hx
  · exact hy

/-- One write of a share is met and discarded, kept back, or made. -/
theorem Put.one_writes (e : Env) (via : WriteVia) (any : Bool) (tid : Nat) (a : Put) (w : Wr) : a.s.Writes (Put.one e via any tid a w).s := by
  unfold Put.one
  split
  · exact .refl _
  · dsimp only
    refine Put.ite_writes (.refl _) (Put.ite_writes (Put.ite_writes (.refl _) (.refl _)) (Put.ite_writes (.refl _) ?_))
    exact .putPart _ via _ _ _ _ _ _

theorem Put.run_writes (e : Env) (via : WriteVia) (any : Bool) (tid : Nat) (a : Put) (ws : List Wr) : a.s.Writes (a.run e via any tid ws).s := by
  unfold Put.run
  have hfold : ∀ (ws : List Wr) (a : Put), a.s.Writes (ws.foldl (Put.one e via any tid) a).s := by
    intro ws
    induction ws with
    | nil => exact fun a => .refl _
    | cons w ws ih => exact fun a => (Put.one_writes e via any tid a w).trans (ih _)
  exact hfold ws { a with full := fullLines ws }

/-- An access counted at a pier and recorded (R372, R373). -/
theorem State.Still.noted (s : State) (p : PierId) (e : Env) {k : Nat} (hk : k < 64) (n addr : Nat) :
    s.Still ((s.bumpPier p k n).anomaly e k n addr) :=
  (State.Still.bumpPier s p hk n).trans (.log _ _)

theorem Put.close_still (e : Env) (a : Put) : a.s.Still (a.close e) := by
  refine (State.Still.foldl (fun (st : State) (x : PierId × Nat) =>
    (st.bumpPier x.1 kStaleGrad 1).anomaly { e with p := x.1 } kStaleGrad 1 x.2) (fun s x => .noted s x.1 _ (by decide) 1 x.2) a.stale a.s).trans ?_
  exact ⟨rfl, rfl, rfl, rfl, fun _ => rfl, fun _ => id, fun _ _ _ => rfl⟩

/-- An address met counted and recorded, if there is one. -/
def State.noteMet (s : State) (e : Env) (k : Nat) (a : Option Nat) : State :=
  match a with
  | some a => (s.bumpPier e.p k 1).anomaly e k 1 a
  | none => s

theorem State.Still.noteMet (s : State) (e : Env) {k : Nat} (hk : k < 64) (a : Option Nat) : s.Still (s.noteMet e k a) := by
  cases a with
  | none => exact .refl s
  | some a => exact .noted s e.p e hk 1 a

theorem State.Still.account (s : State) (e : Env) (m : Met) : s.Still (s.account e m) := by
  have heq : s.account e m = match m.poison with
      | [] => (s.noteMet e kAbsent m.absent).noteMet e kForeign m.foreign
      | a :: _ => (((s.noteMet e kAbsent m.absent).noteMet e kForeign m.foreign).bumpPier e.p kPoisonRead m.poison.length).log
        { hdrRecord ((s.noteMet e kAbsent m.absent).noteMet e kForeign m.foreign) e.p e.h 0x02 3 with
          unitKind := 3, response := 3, unit := pierUnit e.p, address := a, detail0 := 5 } := rfl
  have hmet : s.Still ((s.noteMet e kAbsent m.absent).noteMet e kForeign m.foreign) :=
    (State.Still.noteMet s e (by decide) _).trans (.noteMet _ e (by decide) _)
  rw [heq]
  cases m.poison with
  | nil => exact hmet
  | cons a as => exact (hmet.trans (.bumpPier _ e.p (by decide) _)).trans (.log _ _)

theorem State.Still.settle (s : State) (e : Env) (via : WriteVia) (any : Bool) (tid : Nat) (m : Met) (ws : List Wr) :
    s.Still (s.settle e via any tid m ws).s :=
  (State.Still.readLines s e via m).trans ((Put.run_writes e via any tid (.start (s.readLines e via m) m) ws).still.trans
    ((Put.close_still e _).trans (.account _ e _)))

/-! ## Repairs made, channels swapped (R356, R387) -/

theorem State.Writes.copyShard (s : State) (t : Tens) (shard : Nat) (src dst : PierId) : s.Writes (s.copyShard t shard src dst) := by
  refine .foldl _ (fun s x => ?_) _ s
  split
  · split
    · exact .putPart _ .trowel [] _ _ _ _ _
    · exact .refl s
  · exact .refl s

theorem State.Still.sendShard (s : State) (t : Tens) (shard : Nat) (src dst : PierId) : s.Still (s.sendShard t shard src dst) :=
  (((State.Still.wakePier s src).trans (.wakePier _ dst)).trans (.sendPackets _ _ _)).trans (State.Writes.copyShard _ t shard src dst).still

theorem State.Still.storeFp (s : State) (p : PierId) (t : Tens) (shard v f : Nat) : s.Still (s.storeFp p t shard v f) := by
  unfold State.storeFp State.storeFpBy
  split
  · exact (State.Writes.putHome s p .trowel _ _).still
  · exact .refl s

theorem State.Still.finishRepair (s : State) (p : PierId) (x : Repair) : s.Still (s.finishRepair p x) := by
  have hlist := State.Still.updPier s p (fun pr => { pr with repairing := pr.repairing.filter (· != x) }) fun _ => ⟨rfl, id⟩
  unfold State.finishRepair
  dsimp only
  split
  · exact hlist.trans ((State.Still.sendShard _ _ _ _ _).trans (.storeFp _ p _ _ _ _))
  · exact hlist

theorem State.Still.swapDone (s : State) (p : PierId) : s.Still (s.swapDone p) :=
  .foldl _ (fun s x => .finishRepair s p x) _ s

/-- A pier's channel map and what follows from it. -/
theorem State.Still.setChannels (s : State) (p : PierId) (map : Pier → U64) (next : Pier → Option Nat) (status : Pier → U64)
    (failed : Pier → List Nat) : s.Still (s.updPier p fun pr => { pr with
      chanMap := map pr, evacNext := next pr, spareStatus := status pr, failed := failed pr }) :=
  .updPier s p _ fun _ => ⟨rfl, id⟩

theorem State.Still.setFree (s : State) (n : Nat) : s.Still { s with free := n } :=
  ⟨rfl, rfl, rfl, rfl, fun _ => rfl, fun _ => id, fun _ _ _ => rfl⟩

theorem State.Still.evacuate (s : State) (p : PierId) (l : Nat) : s.Still (s.evacuate p l) := by
  unfold State.evacuate State.mapEvent
  exact State.Still.trans (.setChannels s p _ (·.evacNext) (·.spareStatus) (·.failed)) (.event _ _ _)

theorem State.Still.channelLasting (s : State) (p : PierId) (phys : Nat) : s.Still (s.channelLasting p phys).2 := by
  have hdegrade : s.Still (s.degrade p) :=
    (State.Still.updPier s p (fun pr => { pr with spareStatus := pr.spareStatus ||| 0x100_0000 }) fun _ => ⟨rfl, id⟩).trans
      ⟨rfl, rfl, rfl, rfl, fun _ => rfl, fun _ => id, fun _ _ _ => rfl⟩
  unfold State.channelLasting
  dsimp only
  split
  · exact .refl s
  · split
    · exact hdegrade
    · split
      · exact .updPier s p (fun pr => { pr with evacNext := some phys }) fun _ => ⟨rfl, id⟩
      · exact .evacuate s p _

theorem State.Still.noteRepair (s : State) (p : PierId) (unit : Nat) (delay : Nat → Nat) : s.Still (s.noteRepair p unit delay) :=
  ⟨rfl, rfl, rfl, rfl, fun _ => rfl, fun _ => id, fun _ _ _ => rfl⟩

/-- A channel whose fault waited for an evacuation to end, if there is one. -/
theorem State.Still.nextFault {s t : State} (h : s.Still t) (p : PierId) (next : Option Nat) :
    s.Still (match next with
      | some phys => (t.channelLasting p phys).2
      | none => t) := by
  cases next with
  | none => exact h
  | some phys => exact h.trans (.channelLasting t p phys)

theorem State.Still.evacuationSwitch (s : State) (p : PierId) : s.Still (s.evacuationSwitch p) := by
  unfold State.evacuationSwitch
  dsimp only
  split
  · exact .refl s
  · refine .nextFault ((State.Still.trans (State.Still.trans (State.Still.trans ?_ (.log _ _)) (.event _ _ _)) (.swapDone _ p)).trans
      (.noteRepair _ p _ _)) p _
    exact State.Still.trans (.setChannels s p _ _ _ _) (.setFree _ _)

/-- The test of the step keystone. -/
theorem State.Still.stepTest (s : State) : s.Still s.stepTest := by
  unfold State.stepTest
  dsimp only
  split
  · exact .refl s
  · split
    · refine State.Still.trans ?_ (.foldl _ (fun s p => .evacuationSwitch s p) allPiers _)
      exact ⟨rfl, rfl, rfl, rfl, fun _ => rfl, fun _ => id, fun _ _ _ => rfl⟩
    · exact .refl s

end Sys2Proof.Machine
end

section
/-! SUPPORT. What is told of keystone operations (R50, R53, R63, R438, R455): answers, and headers whose signals have been applied. -/

namespace Sys2Proof.Machine

/-! ## Messages behind those before them -/

theorem State.send_prefixes (s : State) (p : PortId) (m : OutMsg) (r : PortId) :
    (s.port r).sent <+: ((s.send p m).port r).sent ∧ (s.port r).held <+: ((s.send p m).port r).held := by
  have hupd : ∀ f : Port → Port, ((s.port p).sent <+: (f (s.port p)).sent ∧ (s.port p).held <+: (f (s.port p)).held) →
      (s.port r).sent <+: ((s.updPort p f).port r).sent ∧ (s.port r).held <+: ((s.updPort p f).port r).held := by
    intro f hf
    rw [State.port_updPort_ite]
    split
    · next h => rw [h]; exact hf
    · exact ⟨List.prefix_rfl, List.prefix_rfl⟩
  have hheld := hupd (fun pt => { pt with held := pt.held ++ [m] }) ⟨List.prefix_rfl, List.prefix_append _ _⟩
  unfold State.send
  dsimp only
  split
  · split
    · exact hheld
    · exact ⟨List.prefix_rfl, List.prefix_rfl⟩
  · split
    · exact hheld
    · refine hupd _ ?_
      obtain ⟨-, hsent, hkeep, -, -⟩ := Port.transmit_spec { s.port p with
        credits := (s.port p).credits.set (outQueue m.mtype) ((s.port p).credits.get (outQueue m.mtype) - 1) } m
      rw [hsent, hkeep]
      exact ⟨List.prefix_append _ _, List.prefix_rfl⟩

/-- A message that a linked port's host gets, or that waits there. -/
def Port.gets (p : Port) (m : OutMsg) : Prop := m ∈ p.sent ++ p.held

theorem State.send_gets {s : State} {p : PortId} (hl : (s.port p).linked = true) (m : OutMsg) : ((s.send p m).port p).gets m := by
  obtain ⟨hsends, -⟩ := s.send_spec p m
  unfold State.Sends at hsends
  rw [hl, Bool.true_or, if_pos rfl] at hsends
  split at hsends
  · exact List.mem_append_left _ (hsends.subset (by simp))
  · exact List.mem_append_right _ (hsends.subset (by simp))

/-! ## What an answer leaves -/

/-- A pier's keystones with what waits for them. -/
def Pier.keyOps (p : Pier) : Table × Table × Table × List KeyOp × List KeyOp := (p.keys, p.keys1, p.keys2, p.keyDeferred, p.keyArriving)

/-- Work after which hosts have all that they had and what follows it, keystones are as they were, and no pier stops. -/
structure State.Tells (s t : State) : Prop where
  tick : t.tick = s.tick
  keys : ∀ p, (t.pier p).keyOps = (s.pier p).keyOps
  awake : ∀ p, (s.pier p).awake = true → (t.pier p).awake = true
  linked : ∀ r, (t.port r).linked = (s.port r).linked
  watches : ∀ r, (t.port r).watches = (s.port r).watches
  sent : ∀ r, (s.port r).sent <+: (t.port r).sent
  held : ∀ r, (s.port r).held <+: (t.port r).held

theorem State.Tells.refl (s : State) : s.Tells s :=
  ⟨rfl, fun _ => rfl, fun _ => id, fun _ => rfl, fun _ => rfl, fun _ => List.prefix_rfl, fun _ => List.prefix_rfl⟩

theorem State.Tells.trans {s t u : State} (h : s.Tells t) (g : t.Tells u) : s.Tells u :=
  ⟨g.tick.trans h.tick, fun p => (g.keys p).trans (h.keys p), fun p => g.awake p ∘ h.awake p, fun r => (g.linked r).trans (h.linked r),
    fun r => (g.watches r).trans (h.watches r), fun r => (h.sent r).trans (g.sent r), fun r => (h.held r).trans (g.held r)⟩

theorem State.Tells.foldl {α : Type} (f : State → α → State) (hf : ∀ (s : State) a, s.Tells (f s a)) (l : List α) :
    ∀ s : State, s.Tells (l.foldl f s) := by
  induction l with
  | nil => exact .refl
  | cons a l ih => exact fun s => (hf s a).trans (ih _)

theorem State.Tells.gets {s t : State} (h : s.Tells t) {r : PortId} {m : OutMsg} (hm : (s.port r).gets m) : (t.port r).gets m :=
  (List.mem_append.mp hm).elim (fun hm => List.mem_append_left _ ((h.sent r).subset hm))
    fun hm => List.mem_append_right _ ((h.held r).subset hm)

/-- Of ports nothing changes, and of piers nothing that matters here. -/
theorem State.Tells.of {s t : State} (htick : t.tick = s.tick) (hports : t.ports = s.ports)
    (hk : ∀ p, (t.pier p).keyOps = (s.pier p).keyOps) (ha : ∀ p, (s.pier p).awake = true → (t.pier p).awake = true) : s.Tells t := by
  have hport : ∀ r, t.port r = s.port r := fun r => by rw [State.port, State.port, hports]
  exact ⟨htick, hk, ha, fun r => by rw [hport], fun r => by rw [hport], fun r => by rw [hport], fun r => by rw [hport]⟩

theorem State.Tells.same {s t : State} (htick : t.tick = s.tick) (hports : t.ports = s.ports) (hpiers : t.piers = s.piers) : s.Tells t :=
  .of htick hports (fun p => by rw [State.pier, State.pier, hpiers]) fun p => by rw [State.pier, State.pier, hpiers]; exact id

theorem State.Still.tells {s t : State} (h : s.Still t) : s.Tells t :=
  .of h.tick h.ports (fun p => (congrArg (fun x => (x.1, x.2.1, x.2.2.1, x.2.2.2.1, x.2.2.2.2.1)) (h.piers p) :)) h.awake

theorem State.Tells.updPier (s : State) (p : PierId) (f : Pier → Pier)
    (hf : ∀ pr, (f pr).keyOps = pr.keyOps ∧ (f pr).awake = pr.awake) : s.Tells (s.updPier p f) := by
  refine .of rfl rfl (fun r => ?_) fun r => ?_
  · rw [State.pier_updPier_ite]
    split
    · exact (hf _).1
    · rfl
  · rw [State.pier_updPier_ite]
    split
    · rw [(hf _).2]
      exact id
    · exact id

theorem State.Tells.setMasons (s : State) (p : PierId) (f : List Mason → List Mason) :
    s.Tells (s.updPier p fun pr => { pr with masons := f pr.masons }) :=
  .updPier s p _ fun _ => ⟨rfl, rfl⟩

theorem State.Tells.send (s : State) (p : PortId) (m : OutMsg) : s.Tells (s.send p m) := by
  obtain ⟨-, hframe, htransmits, -, -⟩ := s.send_spec p m
  have hpier : ∀ r, (s.send p m).pier r = s.pier r := fun r => by rw [hframe]; rfl
  exact ⟨by rw [hframe], fun r => by rw [hpier], fun r => by rw [hpier]; exact id, fun r => (htransmits r).linked,
    fun r => (congrArg Port.watches (htransmits r) :), fun r => (s.send_prefixes p m r).1, fun r => (s.send_prefixes p m r).2⟩

theorem State.Tells.answerRead (s : State) (src : Source) (status n v : Nat) : s.Tells (s.answerRead src status n v) := by
  cases src with
  | host p tag => exact .send s p _
  | gone p => exact .same rfl rfl rfl
  | mason p k => exact .setMasons s p _
  | skov d => exact .same rfl rfl rfl

theorem State.Tells.answerWrite (s : State) (src : Source) (status : Nat) : s.Tells (s.answerWrite src status) := by
  cases src with
  | host p tag => exact .send s p _
  | gone p => exact .same rfl rfl rfl
  | mason p k => exact .setMasons s p _
  | skov d => exact .same rfl rfl rfl

theorem State.Tells.setQueue (s : State) (q : QKey) (es : List QEntry) : s.Tells (s.setQueue q es) := by
  rw [State.setQueue_frame]
  exact .same rfl rfl rfl

theorem State.Tells.updHead (s : State) (q : QKey) (f : QEntry → QEntry) : s.Tells (s.updHead q f) := by
  rw [State.updHead_frame]
  exact .same rfl rfl rfl

/-! ## A header whose signal has been applied -/

/-- The parameters' piers noted by a header of stream U (R387). -/
def State.noteRan (s : State) (x : QEntry) : State :=
  if x.hdr.stream == 3 then x.piers.foldl (fun (s : State) p => { s with uRan := s.uRan.set p.val 1 }) s else s

theorem State.noteRan_frame (s : State) (x : QEntry) : s.noteRan x = { s with uRan := (s.noteRan x).uRan } := by
  have hfold : ∀ (ps : List PierId) (s : State), ps.foldl (fun (s : State) p => { s with uRan := s.uRan.set p.val 1 }) s =
      { s with uRan := (ps.foldl (fun (s : State) p => { s with uRan := s.uRan.set p.val 1 }) s).uRan } := by
    intro ps
    induction ps with
    | nil => exact fun s => rfl
    | cons p ps ih => exact fun s => ih _
  unfold State.noteRan
  split
  · exact hfold _ s
  · rfl

theorem State.reportHeader_eq (s : State) (x : QEntry) : s.reportHeader x = match x.origin with
    | .host port tag => if x.hdr.report then (s.noteRan x).send port ⟨0x13, tag.toNat, 0, State.badUnit.completion x.hdr x.status s.tick⟩
      else s.noteRan x
    | .departed port => if x.hdr.report then (s.noteRan x).bump (plmbReg port 0x10) 1 else s.noteRan x
    | .request n => (s.noteRan x).requestStep n x.status
    | .image => s.noteRan x := by
  have htick : (s.noteRan x).tick = s.tick := by rw [State.noteRan_frame]
  rw [← htick]
  rfl

theorem State.queues_reportHeader (s : State) (x : QEntry) : (s.reportHeader x).queues = s.queues := by
  have hnote : (s.noteRan x).queues = s.queues := by rw [State.noteRan_frame]
  rw [State.reportHeader_eq]
  split
  · split
    · rw [(State.send_spec _ _ _).2.1]
      exact hnote
    · exact hnote
  · split
    · exact hnote
    · exact hnote
  · exact hnote
  · exact hnote

theorem State.Tells.reportHeader (s : State) (x : QEntry) : s.Tells (s.reportHeader x) := by
  have hnote : s.Tells (s.noteRan x) := by
    rw [State.noteRan_frame]
    exact .same rfl rfl rfl
  refine hnote.trans ?_
  rw [State.reportHeader_eq]
  split
  · split
    · exact .send _ _ _
    · exact .refl _
  · split
    · exact .same rfl rfl rfl
    · exact .refl _
  · exact .same rfl rfl rfl
  · exact .refl _

theorem State.Tells.leave (s : State) (q : QKey) : s.Tells (s.leave q) := by
  unfold State.leave
  dsimp only
  refine State.Tells.trans (t := s.popHead q) (.setQueue s q _) ?_
  split
  · refine .updPier _ _ _ fun pr => ?_
    rw [Pier.leaveLines_lines]
    exact ⟨rfl, rfl⟩
  · exact .refl _

theorem State.Tells.signalled (s : State) (q : QKey) : s.Tells (s.signalled q) := by
  unfold State.signalled
  split
  · exact .refl s
  · split
    · exact (State.Tells.reportHeader s _).trans (.leave _ q)
    · split
      · exact .updHead s q _
      · exact .refl s

/-! ## An answer told -/

/-- An answer that no header awaits. -/
def TasAnswer.headless (a : TasAnswer) : Prop := ∀ q, a ≠ .signal q ∧ ∀ d, a ≠ .element d q

theorem State.Still.backTo (s : State) (src : Source) (p : PierId) : s.Still (s.backTo src p) := by
  cases src with
  | host t tag => exact .sendPackets s _ 1
  | gone t => exact .sendPackets s _ 1
  | mason p k => exact .refl s
  | skov d => exact .refl s

theorem State.Still.tasHome (s : State) (q : QKey) (p : PierId) : s.Still (s.tasHome q p) := by
  unfold State.tasHome
  split
  · exact (State.Still.wakePier s _).trans (.sendPackets _ _ 1)
  · exact .refl s

theorem State.updHead_none {s : State} {q : QKey} (h : s.head q = none) (f : QEntry → QEntry) : s.updHead q f = s := by
  have hq : s.queue q = [] := List.head?_eq_none_iff.mp h
  rw [State.updHead, hq]

/-- What a test-and-set's prior value written to an element leaves, its header's entry aside. -/
theorem State.tasElement_still (s : State) (t : Tens) (q : QKey) (prior : Nat) :
    ∃ u f, s.Still u ∧ s.tasElement t q prior = u.updHead q f := by
  unfold State.tasElement
  split
  · next h => exact ⟨s, id, .refl s, (State.updHead_none h id).symm⟩
  · exact ⟨_, _, .settle s _ _ _ _ _ _, rfl⟩

theorem State.Tells.answerTas (s : State) (p : PierId) (a : TasAnswer) (prior : Nat) : s.Tells (s.answerTas p a prior) := by
  cases a with
  | none => exact .refl s
  | element d q =>
    obtain ⟨u, f, hu, heq⟩ := (s.tasHome q p).tasElement_still d q prior
    show s.Tells ((s.tasHome q p).tasElement d q prior)
    rw [heq]
    exact ((State.Still.tasHome s q p).tells.trans hu.tells).trans (.updHead u q f)
  | signal q => exact .signalled s q
  | access src => exact (State.Still.backTo s src p).tells.trans (.answerRead _ src 0 8 prior)
  | ack src => exact (State.Still.backTo s src p).tells.trans (.answerWrite _ src 0)

theorem State.Tells.refuseTas (s : State) (a : TasAnswer) : s.Tells (s.refuseTas a) := by
  cases a with
  | none => exact .refl s
  | element d q => exact (State.Tells.updHead s q _).trans (.updHead _ q _)
  | signal q => exact .signalled s q
  | access src => exact .answerRead s src 1 8 0
  | ack src => exact .answerWrite s src 1

end Sys2Proof.Machine
end

section
/-! SUPPORT. One mortar cycle of a keystone (R412): the operations that arrive in it, in their rotation, and what it leaves. -/

namespace Sys2Proof.Machine

/-! ## Rotation -/

theorem mem_insertBy {α : Type} (before : α → α → Bool) (x z : α) (l : List α) : z ∈ insertBy before x l ↔ z = x ∨ z ∈ l := by
  induction l with
  | nil => simp [insertBy]
  | cons y ys ih =>
    unfold insertBy
    split
    · simp
    · rw [List.mem_cons, ih, List.mem_cons]
      exact or_left_comm

/-- What heads a list sorted by a key comes first by it. -/
def HeadLeast {α : Type} (f : α → Nat) (l : List α) : Prop := ∀ o, l.head? = some o → ∀ y ∈ l, f o ≤ f y

theorem HeadLeast.insertBy {α : Type} {f : α → Nat} {l : List α} (h : HeadLeast f l) (x : α) :
    HeadLeast f (insertBy (fun a b => decide (f a < f b)) x l) := by
  intro o ho y hy
  rw [mem_insertBy] at hy
  cases l with
  | nil =>
    obtain rfl : x = o := by simpa [Machine.insertBy] using ho
    simp_all
  | cons z zs =>
    have hz := h z rfl
    unfold Machine.insertBy at ho
    split at ho
    · next hlt =>
      obtain rfl : x = o := by simpa using ho
      have hlt : f x < f z := by simpa using hlt
      obtain rfl | hy := hy
      · exact Nat.le_refl _
      · exact Nat.le_of_lt (Nat.lt_of_lt_of_le hlt (hz y hy))
    · next hlt =>
      obtain rfl : z = o := by simpa using ho
      obtain rfl | hy := hy
      · simpa using hlt
      · exact hz y hy

theorem sortBy_spec {α : Type} (f : α → Nat) (l : List α) : HeadLeast f (sortBy (fun a b => decide (f a < f b)) l) ∧
    ∀ y, y ∈ sortBy (fun a b => decide (f a < f b)) l ↔ y ∈ l := by
  have hfold : ∀ (l acc : List α), HeadLeast f acc →
      HeadLeast f (l.foldl (fun acc x => insertBy (fun a b => decide (f a < f b)) x acc) acc) ∧
      ∀ y, y ∈ l.foldl (fun acc x => insertBy (fun a b => decide (f a < f b)) x acc) acc ↔ y ∈ acc ∨ y ∈ l := by
    intro l
    induction l with
    | nil => exact fun acc h => ⟨h, by simp⟩
    | cons x l ih =>
      intro acc h
      obtain ⟨hleast, hmem⟩ := ih _ (h.insertBy x)
      refine ⟨hleast, fun y => ?_⟩
      rw [List.foldl_cons, hmem, mem_insertBy, List.mem_cons]
      tauto
  obtain ⟨hleast, hmem⟩ := hfold l [] (by simp [HeadLeast])
  exact ⟨hleast, fun y => (hmem y).trans (by simp)⟩

/-- How far a requester port stands behind the one that the rotation points at (R412). -/
def KeyOp.turn (ptr : Nat) (o : KeyOp) : Nat := (o.port + keyPorts - ptr) % keyPorts

/-- Of some operations the one whose port the rotation comes to first goes first. -/
theorem rotated_spec (ptr : Nat) (ops : List KeyOp) : (∀ o os, rotated ptr ops = o :: os → o ∈ ops ∧ ∀ y ∈ ops, o.turn ptr ≤ y.turn ptr) ∧
    (rotated ptr ops = [] ↔ ops = []) := by
  obtain ⟨hleast, hmem⟩ := sortBy_spec (KeyOp.turn ptr) ops
  have hmem : ∀ y, y ∈ rotated ptr ops ↔ y ∈ ops := hmem
  refine ⟨fun o os h => ⟨(hmem o).mp (by rw [h]; exact List.mem_cons_self), fun y hy => ?_⟩, ?_⟩
  · exact hleast o (congrArg List.head? h) y ((hmem y).mpr hy)
  · simp only [List.eq_nil_iff_forall_not_mem, hmem]

/-! ## The operations that arrive in one cycle -/

/-- One of each requester port (log 33). -/
theorem takeArriving_ports (k : Nat) (ops : List KeyOp) : ∀ ports : List Nat,
    ((takeArriving k ports ops).1.map (·.port)).Nodup ∧ ∀ o ∈ (takeArriving k ports ops).1, o.port ∉ ports := by
  induction ops with
  | nil => simp [takeArriving]
  | cons o os ih =>
    intro ports
    unfold takeArriving
    split
    · next h =>
      obtain ⟨hnodup, hne⟩ := ih (o.port :: ports)
      have hport : o.port ∉ ports := by simp_all
      refine ⟨List.nodup_cons.mpr ⟨fun hmem => ?_, hnodup⟩, fun x hx => ?_⟩
      · obtain ⟨y, hy, hyo⟩ := List.mem_map.mp hmem
        exact hne y hy (by rw [hyo]; exact List.mem_cons_self)
      · obtain rfl | hx := List.mem_cons.mp hx
        · exact hport
        · exact fun hmem => hne x hx (List.mem_cons_of_mem _ hmem)
    · exact ih ports

theorem takeArriving_nodup (k : Nat) (ops : List KeyOp) : (takeArriving k [] ops).1.Nodup :=
  (takeArriving_ports k ops []).1.of_map _

/-! ## What a cycle leaves (R412) -/

/-- The operations of a kind, the one that goes first first. -/
theorem rotated_kind (ptr kind : Nat) (now : List KeyOp) :
    (rotated ptr (now.filter fun o => o.kind == kind) = [] → ∀ o ∈ now, o.kind ≠ kind) ∧
    ∀ o os, rotated ptr (now.filter fun o => o.kind == kind) = o :: os →
      o ∈ now ∧ o.kind = kind ∧ ∀ y ∈ now, y.kind = kind → o.turn ptr ≤ y.turn ptr := by
  obtain ⟨hfirst, hnil⟩ := rotated_spec ptr (now.filter fun o => o.kind == kind)
  refine ⟨fun h o ho hk => ?_, fun o os h => ?_⟩
  · have hmem : o ∈ now.filter fun o => o.kind == kind := List.mem_filter.mpr ⟨ho, by simpa using hk⟩
    rw [hnil.mp h] at hmem
    cases hmem
  · obtain ⟨hmem, hleast⟩ := hfirst o os h
    obtain ⟨ho, hk⟩ := List.mem_filter.mp hmem
    exact ⟨ho, by simpa using hk, fun y hy hyk => hleast y (List.mem_filter.mpr ⟨hy, by simpa using hyk⟩)⟩

theorem foldl_operands (l : List KeyOp) (n : Nat) : l.foldl (fun n o => n + o.operand) n = n + (l.map (·.operand)).sum := by
  induction l generalizing n with
  | nil => rfl
  | cons o l ih => rw [List.foldl_cons, ih, List.map_cons, List.sum_cons, Nat.add_assoc]

/-- The value that the set of a cycle leaves. -/
def setStep (v setPtr : Nat) (now : List KeyOp) : Nat :=
  match (rotated setPtr (now.filter fun o => o.kind == 1)).head? with
  | some o => o.operand
  | none => v

theorem setStep_spec (v setPtr : Nat) (now : List KeyOp) :
    ((∀ o ∈ now, o.kind ≠ 1) → setStep v setPtr now = v) ∧
    ((∃ o ∈ now, o.kind = 1) → ∃ o, (o ∈ now ∧ o.kind = 1 ∧ ∀ y ∈ now, y.kind = 1 → o.turn setPtr ≤ y.turn setPtr) ∧
      setStep v setPtr now = o.operand) := by
  obtain ⟨hnone, hfirst⟩ := rotated_kind setPtr 1 now
  unfold setStep
  cases h : rotated setPtr (now.filter fun o => o.kind == 1) with
  | nil => exact ⟨fun _ => rfl, fun ⟨o, ho, hk⟩ => absurd hk (hnone h o ho)⟩
  | cons o os =>
    obtain ⟨ho, hk, hleast⟩ := hfirst o os h
    exact ⟨fun hall => absurd hk (hall o ho), fun _ => ⟨o, ⟨ho, hk, hleast⟩, rfl⟩⟩

/-- The test-and-set of a cycle: the oldest deferred one, or else the first in rotation. -/
def tasServed (tasPtr : Nat) (waits now : List KeyOp) : Option KeyOp :=
  (waits ++ rotated tasPtr (now.filter fun o => o.kind == 2)).head?

/-- What a test-and-set leaves of a value that it finds, if there is one. -/
def tasLeaves (v : Nat) (o : Option KeyOp) : Nat :=
  match o with
  | some o => tasStep v o
  | none => v

theorem keyCycle_eq (v setPtr tasPtr : Nat) (waits now : List KeyOp) :
    (keyCycle v setPtr tasPtr waits now).value = (tasLeaves (setStep v setPtr now) (tasServed tasPtr waits now) +
      ((now.filter fun o => o.kind == 0).map (·.operand)).sum) % 2 ^ 32 ∧
    (keyCycle v setPtr tasPtr waits now).served = (tasServed tasPtr waits now).map fun o => (o, setStep v setPtr now) := by
  unfold keyCycle tasServed setStep
  cases rotated setPtr (now.filter fun o => o.kind == 1) <;> cases waits <;>
    cases rotated tasPtr (now.filter fun o => o.kind == 2) <;> simp [foldl_operands, tasLeaves]

theorem tasServed_spec (tasPtr : Nat) (waits now : List KeyOp) :
    (∀ d ds, waits = d :: ds → tasServed tasPtr waits now = some d) ∧
    (waits = [] → (∀ o ∈ now, o.kind ≠ 2) → tasServed tasPtr waits now = none) ∧
    (waits = [] → (∃ o ∈ now, o.kind = 2) → ∃ o,
      (o ∈ now ∧ o.kind = 2 ∧ ∀ y ∈ now, y.kind = 2 → o.turn tasPtr ≤ y.turn tasPtr) ∧ tasServed tasPtr waits now = some o) ∧
    ∀ o, tasServed tasPtr waits now = some o → o ∈ waits ∨ o ∈ now ∧ o.kind = 2 := by
  obtain ⟨hnone, hfirst⟩ := rotated_kind tasPtr 2 now
  unfold tasServed
  cases waits with
  | cons d ds =>
    refine ⟨fun _ _ h => by rw [List.cons.inj h |>.1]; rfl, nofun, nofun, fun o h => .inl ?_⟩
    obtain rfl : d = o := by simpa using h
    exact List.mem_cons_self
  | nil =>
    cases h : rotated tasPtr (now.filter fun o => o.kind == 2) with
    | nil => exact ⟨nofun, fun _ _ => rfl, fun _ ⟨o, ho, hk⟩ => absurd hk (hnone h o ho), nofun⟩
    | cons o os =>
      obtain ⟨ho, hk, hleast⟩ := hfirst o os h
      refine ⟨nofun, fun _ hall => absurd hk (hall o ho), fun _ _ => ⟨o, ⟨ho, hk, hleast⟩, rfl⟩, fun y hy => .inr ?_⟩
      obtain rfl : o = y := by simpa using hy
      exact ⟨ho, hk⟩

end Sys2Proof.Machine
end

section
/-! SUPPORT. KEYSTONE_UPDATE_CYCLE (R38, R409, R412, R413, R438, R455): a cycle put in place, what is told of it, and who is met. -/

namespace Sys2Proof.Machine

/-! ## Answers told one after another -/

/-- Some answers told, each with the value that its test-and-set found. -/
def State.tellAll (s : State) (p : PierId) (as : List (TasAnswer × Nat)) : State := as.foldl (fun (s : State) a => s.answerTas p a.1 a.2) s

theorem State.tellAll_append (s : State) (p : PierId) (as bs : List (TasAnswer × Nat)) :
    s.tellAll p (as ++ bs) = (s.tellAll p as).tellAll p bs :=
  List.foldl_append

theorem State.tellAll_cons (s : State) (p : PierId) (a : TasAnswer × Nat) (as : List (TasAnswer × Nat)) :
    s.tellAll p (a :: as) = (s.answerTas p a.1 a.2).tellAll p as := rfl

theorem State.Tells.tellAll (s : State) (p : PierId) (as : List (TasAnswer × Nat)) : s.Tells (s.tellAll p as) :=
  .foldl (fun (s : State) (a : TasAnswer × Nat) => s.answerTas p a.1 a.2) (fun s a => .answerTas s p a.1 a.2) as s

theorem State.tellAll_none (s : State) (p : PierId) {as : List (TasAnswer × Nat)} (h : ∀ a ∈ as, a.1 = .none) : s.tellAll p as = s :=
  foldl_still _ s as fun a ha => by rw [h a ha]; rfl

/-- What a list told has told of one answer in it stays told. -/
theorem State.tellAll_gets {s : State} {p : PierId} {as : List (TasAnswer × Nat)} {a : TasAnswer × Nat} (ha : a ∈ as) {r : PortId} {m : OutMsg}
    (hone : ∀ u : State, (u.port r).linked = true → ((u.answerTas p a.1 a.2).port r).gets m) (hl : (s.port r).linked = true) :
    ((s.tellAll p as).port r).gets m := by
  obtain ⟨bs, cs, rfl⟩ := List.append_of_mem ha
  rw [State.tellAll_append, State.tellAll_cons]
  refine (State.Tells.tellAll _ p cs).gets (hone _ ?_)
  rw [(State.Tells.tellAll s p bs).linked]
  exact hl

/-! ## The queue of a header that awaits its signal -/

/-- An answer that no header of a queue awaits. -/
def TasAnswer.not_for (a : TasAnswer) (q : QKey) : Prop := a ≠ .signal q ∧ ∀ d, a ≠ .element d q

theorem State.queue_leave_ne (s : State) {q k : QKey} (h : k ≠ q) : (s.leave q).queue k = s.queue k := by
  have hpop : (s.popHead q).queue k = s.queue k := s.queue_setQueue_ne _ h
  unfold State.leave
  dsimp only
  split
  · exact hpop
  · exact hpop

theorem State.queue_leave (s : State) (q : QKey) : (s.leave q).queue q = (s.queue q).tail := by
  unfold State.leave
  dsimp only
  split
  · exact s.queue_popHead q
  · exact s.queue_popHead q

theorem State.queue_signalled_ne (s : State) {q k : QKey} (h : k ≠ q) : (s.signalled q).queue k = s.queue k := by
  unfold State.signalled
  split
  · rfl
  · split
    · rw [State.queue_leave_ne _ h, State.queue_congr (State.queues_reportHeader s _)]
    · split
      · exact s.queue_updHead_ne _ h
      · rfl

theorem State.queues_answerRead (s : State) (src : Source) (st n v : Nat) : (s.answerRead src st n v).queues = s.queues := by
  cases src with
  | host p tag => rw [State.answerRead, (State.send_spec _ _ _).2.1]
  | _ => rfl

theorem State.queues_answerWrite (s : State) (src : Source) (st : Nat) : (s.answerWrite src st).queues = s.queues := by
  cases src with
  | host p tag => rw [State.answerWrite, (State.send_spec _ _ _).2.1]
  | _ => rfl

theorem State.queue_answerTas {a : TasAnswer} {q : QKey} (h : a.not_for q) (s : State) (p : PierId) (prior : Nat) :
    (s.answerTas p a prior).queue q = s.queue q := by
  obtain ⟨hs, he⟩ := h
  cases a with
  | none => rfl
  | signal k => exact s.queue_signalled_ne fun e => hs (by rw [e])
  | element d k =>
    obtain ⟨u, f, hu, heq⟩ := (s.tasHome k p).tasElement_still d k prior
    have hk : q ≠ k := fun e => he d (by rw [e])
    show ((s.tasHome k p).tasElement d k prior).queue q = s.queue q
    rw [heq, State.queue_updHead_ne _ _ hk, State.queue_congr hu.queues, State.queue_congr (State.Still.tasHome s k p).queues]
  | access src => exact State.queue_congr ((State.queues_answerRead _ src 0 8 prior).trans (State.Still.backTo s src p).queues) q
  | ack src => exact State.queue_congr ((State.queues_answerWrite _ src 0).trans (State.Still.backTo s src p).queues) q

theorem State.queue_tellAll {q : QKey} (p : PierId) (as : List (TasAnswer × Nat)) : ∀ s : State, (∀ a ∈ as, a.1.not_for q) →
    (s.tellAll p as).queue q = s.queue q := by
  induction as with
  | nil => exact fun s _ => rfl
  | cons a as ih =>
    intro s h
    rw [State.tellAll_cons, ih _ fun b hb => h b (List.mem_cons_of_mem a hb), State.queue_answerTas (h a List.mem_cons_self)]

/-- The record of a header that a host submitted with the report bit (R458). -/
theorem State.reportHeader_gets {s : State} {x : QEntry} {port : PortId} {tag : U32} (ho : x.origin = .host port tag)
    (hr : x.hdr.report = true) (hl : (s.port port).linked = true) :
    ((s.reportHeader x).port port).gets ⟨0x13, tag.toNat, 0, State.badUnit.completion x.hdr x.status s.tick⟩ := by
  have hnote : (s.noteRan x).port port = s.port port := by
    rw [State.noteRan_frame]
    rfl
  rw [State.reportHeader_eq, ho, hr]
  exact State.send_gets (by rw [hnote]; exact hl) _

/-- A header that waits for its signal to be applied leaves its queue once that is told, and its record goes. -/
theorem State.signalled_closing {s : State} {q : QKey} {x : QEntry} (hx : s.head q = some x) (hc : x.phase = .closing) :
    (s.signalled q).queue q = (s.queue q).tail ∧ ∀ port tag, x.origin = .host port tag → x.hdr.report = true →
      (s.port port).linked = true → ((s.signalled q).port port).gets ⟨0x13, tag.toNat, 0, State.badUnit.completion x.hdr x.status s.tick⟩ := by
  have heq : s.signalled q = (s.reportHeader x).leave q := by
    unfold State.signalled
    rw [hx]
    simp [hc]
  rw [heq]
  refine ⟨?_, fun port tag ho hr hl => (State.Tells.leave _ q).gets (State.reportHeader_gets ho hr hl)⟩
  rw [State.queue_leave, State.queue_congr (s.queues_reportHeader x)]

/-! ## Answers that no header awaits -/

/-- A pier without its keystones, its mason cores and what a wake changes. -/
def Pier.butKeys (p : Pier) : Pier :=
  { p.butWake with keys := [], keys1 := [], keys2 := [], keyRot := [], keyDeferred := [], keyArriving := [], masons := [] }

/-- Keystones and answers alone: hosts, mason cores, Skovlapers, a wake with its event, and packets. -/
structure State.Replies (s t : State) : Prop where
  frame : t = { s with
    piers := t.piers, ports := t.ports, crossHeld := t.crossHeld, crossPtr := t.crossPtr, skovs := t.skovs, counters := t.counters
    held := t.held, edgeRot := t.edgeRot }
  rest : ∀ r, (t.pier r).butKeys = (s.pier r).butKeys
  awake : ∀ p, (s.pier p).awake = true → (t.pier p).awake = true
  run : s.powerState = 3 → t.held = s.held

theorem State.Replies.refl (s : State) : s.Replies s := ⟨rfl, fun _ => rfl, fun _ => id, fun _ => rfl⟩

theorem State.Replies.trans {s t u : State} (h : s.Replies t) (g : t.Replies u) : s.Replies u where
  frame := by rw [g.frame, h.frame]
  rest r := (g.rest r).trans (h.rest r)
  awake p := g.awake p ∘ h.awake p
  run h3 := (g.run (State.powerState_mono (by rw [h.frame]) h.awake h3)).trans (h.run h3)

theorem State.Replies.updPier (s : State) (p : PierId) (f : Pier → Pier)
    (hf : ∀ pr, (f pr).butKeys = pr.butKeys ∧ (f pr).awake = pr.awake) : s.Replies (s.updPier p f) := by
  refine ⟨rfl, fun r => ?_, fun r => ?_, fun _ => rfl⟩
  · rw [State.pier_updPier_ite]
    split
    · exact (hf _).1
    · rfl
  · rw [State.pier_updPier_ite]
    split
    · rw [(hf _).2]
      exact id
    · exact id

theorem State.Replies.wakePier (s : State) (p : PierId) : s.Replies (s.wakePier p) := by
  cases hd : s.deadPier p with
  | true => rw [State.wakePier_dead hd]; exact .refl s
  | false =>
    obtain ⟨hawake, hbut, hother, -, hrun, hframe⟩ := State.wakePier_woken hd
    refine ⟨by rw [hframe], fun r => ?_, fun r => ?_, fun h3 => (hrun h3).1⟩
    · by_cases hr : r = p
      · rw [hr]
        exact (congrArg (fun pr : Pier => { pr with
          keys := [], keys1 := [], keys2 := [], keyRot := [], keyDeferred := [], keyArriving := [], masons := [] }) hbut :)
      · rw [hother r hr]
    · by_cases hr : r = p
      · rw [hr]
        exact fun _ => hawake
      · rw [hother r hr]
        exact id

theorem State.Replies.sendPackets (s : State) (path : List (Nat × Nat)) (n : Nat) : s.Replies (s.sendPackets path n) := by
  rw [State.sendPackets_frame]
  exact ⟨rfl, fun _ => rfl, fun _ => id, fun _ => rfl⟩

theorem State.Replies.send (s : State) (p : PortId) (m : OutMsg) : s.Replies (s.send p m) := by
  obtain ⟨-, hframe, -⟩ := s.send_spec p m
  have hpier : ∀ r, (s.send p m).pier r = s.pier r := fun r => by rw [hframe]; rfl
  exact ⟨by rw [hframe], fun r => by rw [hpier], fun r => by rw [hpier]; exact id, fun _ => by rw [hframe]⟩

theorem State.Replies.setMasons (s : State) (p : PierId) (f : List Mason → List Mason) :
    s.Replies (s.updPier p fun pr => { pr with masons := f pr.masons }) :=
  .updPier s p _ fun _ => ⟨rfl, rfl⟩

theorem State.Replies.backTo (s : State) (src : Source) (p : PierId) : s.Replies (s.backTo src p) := by
  cases src with
  | host t tag => exact .sendPackets s _ 1
  | gone t => exact .sendPackets s _ 1
  | mason p k => exact .refl s
  | skov d => exact .refl s

theorem State.Replies.answerTas {a : TasAnswer} (h : a.headless) (s : State) (p : PierId) (prior : Nat) :
    s.Replies (s.answerTas p a prior) := by
  cases a with
  | none => exact .refl s
  | signal q => exact absurd rfl (h q).1
  | element d q => exact absurd rfl ((h q).2 d)
  | access src =>
    refine (State.Replies.backTo s src p).trans ?_
    cases src with
    | host r tag => exact .send _ r _
    | mason r k => exact .setMasons _ r _
    | _ => exact ⟨rfl, fun _ => rfl, fun _ => id, fun _ => rfl⟩
  | ack src =>
    refine (State.Replies.backTo s src p).trans ?_
    cases src with
    | host r tag => exact .send _ r _
    | mason r k => exact .setMasons _ r _
    | _ => exact ⟨rfl, fun _ => rfl, fun _ => id, fun _ => rfl⟩

theorem State.Replies.tellAll (p : PierId) (as : List (TasAnswer × Nat)) : ∀ s : State, (∀ a ∈ as, a.1.headless) → s.Replies (s.tellAll p as) := by
  induction as with
  | nil => exact fun s _ => .refl s
  | cons a as ih =>
    intro s h
    exact (State.Replies.answerTas (h a List.mem_cons_self) s p a.2).trans (ih _ fun b hb => h b (List.mem_cons_of_mem a hb))

/-! ## A cycle put in place -/

/-- A keystone's cycle in its pier's tables. -/
def Pier.putCycle (p : Pier) (k : Nat) (c : KeyCycle) (arriving : List KeyOp) : Pier :=
  { p.setKey k c.value with
    keyRot := (p.keyRot.set (2 * k) c.setPtr).set (2 * k + 1) c.tasPtr
    keyDeferred := p.keyDeferred.filter (fun o => keyLocal o.key != k) ++ c.deferred
    keyArriving := arriving }

theorem Pier.keyAt_putCycle (p : Pier) (k : Nat) (c : KeyCycle) (arriving : List KeyOp) (j : Nat) :
    (p.putCycle k c arriving).keyAt j = if j = k then c.value else p.keyAt j := by
  have hthree : ∀ n : Nat, majority n n n = n := fun n => by simp [majority]
  by_cases hj : j = k
  · simp [Pier.keyAt, Pier.putCycle, Pier.setKey, hj, hthree]
  · simp [Pier.keyAt, Pier.putCycle, Pier.setKey, hj, Table.get_set_ne]

/-- What is told of a cycle, in order: of the adds and sets that it took, and of its test-and-set. -/
def KeyCycle.answers (c : KeyCycle) (now : List KeyOp) : List (TasAnswer × Nat) :=
  (now.filter fun o => o.kind != 2).map (fun o => (o.answer, 0)) ++ (c.served.map fun x => (x.1.answer, x.2)).toList

theorem State.keyApply_eq (s : State) (key : Nat) (c : KeyCycle) (now arriving : List KeyOp) :
    s.keyApply key c now arriving =
      let t := ((s.updPier (keyPier key) (·.putCycle (keyLocal key) c arriving)).tellAll (keyPier key) (c.answers now)).keySeen key
      if key == (t.pier 0).cfg.stepKey then t.stepTest else t := by
  have htold : ∀ u : State, u.tellAll (keyPier key) (c.answers now) = match c.served with
      | some (o, prior) =>
        ((now.filter fun o => o.kind != 2).foldl (fun (s : State) o => s.answerTas (keyPier key) o.answer 0) u).answerTas
          (keyPier key) o.answer prior
      | none => (now.filter fun o => o.kind != 2).foldl (fun (s : State) o => s.answerTas (keyPier key) o.answer 0) u := by
    intro u
    unfold KeyCycle.answers State.tellAll
    rw [List.foldl_append, List.foldl_map]
    cases c.served <;> rfl
  rw [htold]
  rfl

end Sys2Proof.Machine
end

section
/-! SUPPORT. KEYSTONE_UPDATE_CYCLE (R410, R413, R438, R460): who sees the value that a cycle leaves, what a failed pier refuses, and the
whole of a cycle. -/

namespace Sys2Proof.Machine

/-! ## Who sees a keystone's value (R413, R460) -/

/-- A header whose wait a keystone's value meets. -/
def QEntry.sees (x : QEntry) (key v : Nat) : Bool :=
  x.phase == .waiting && x.hdr.waitKey == key && waitMet x.hdr.waitCond v x.hdr.waitValue

/-- Entries of a queue once its head has seen the value. -/
def seenQueue (key v : Nat) : List QEntry → List QEntry
  | x :: xs => (if x.sees key v then { x with phase := .met } else x) :: xs
  | [] => []

theorem seenQueue_hdrs (key v : Nat) (es : List QEntry) : (seenQueue key v es).map (·.hdr) = es.map (·.hdr) := by
  cases es with
  | nil => rfl
  | cons x xs => cases h : x.sees key v <;> simp [seenQueue, h]

theorem State.queue_keySeen (s : State) (key : Nat) (q : QKey) : (s.keySeen key).queue q = seenQueue key (s.keyValue key) (s.queue q) := by
  obtain ⟨g, hg, hkey⟩ : ∃ g : Queue → Queue, (s.keySeen key).queues = s.queues.map g ∧
      ∀ y, (g y).key = y.key ∧ (g y).entries = seenQueue key (s.keyValue key) y.entries := by
    refine ⟨_, rfl, fun y => ?_⟩
    cases hy : y.entries with
    | nil => exact ⟨rfl, hy⟩
    | cons x xs =>
      cases hs : x.sees key (s.keyValue key) <;> (have hs' := hs; unfold QEntry.sees at hs'; simp [hy, hs', seenQueue, hs])
  have hfind : (fun y : Queue => y.key == q) ∘ g = fun y => y.key == q := funext fun y => by simp [(hkey y).1]
  rw [State.queue_eq, State.queue_eq, hg, List.find?_map, hfind]
  cases s.queues.find? fun y => y.key == q with
  | none => rfl
  | some y => exact (hkey y).2

/-- Both ports changed alike. -/
theorem State.port_updPorts (s : State) (f : Port → Port) (r : PortId) :
    (allPorts.foldl (fun (s : State) p => s.updPort p f) s).port r = f (s.port r) := by
  have hr : r = 0 ∨ r = 1 := by
    revert r
    decide
  obtain rfl | rfl := hr <;> simp [allPorts, State.port_updPort_ite]

theorem State.port_keySeen (s : State) (key : Nat) (r : PortId) : (s.keySeen key).port r = { s.port r with
    watches := (s.port r).watches.map fun w => if w.key == key && waitMet w.cond (s.keyValue key) w.value then { w with met := true } else w } :=
  State.port_updPorts _ _ r

theorem State.keySeen_frame (s : State) (key : Nat) : s.keySeen key = { s with queues := (s.keySeen key).queues, ports := (s.keySeen key).ports } :=
  rfl

/-! ## The end of a cycle -/

/-- What a cycle's end, the step keystone's test among it, leaves of what has been told, and who has seen the value. -/
structure State.Ends (s t : State) (key : Nat) : Prop where
  ports : ∀ r, t.port r = (s.keySeen key).port r
  queue : ∀ q, t.queue q = seenQueue key (s.keyValue key) (s.queue q)
  keys : ∀ p j, (t.pier p).keyAt j = (s.pier p).keyAt j
  awake : ∀ p, (s.pier p).awake = true → (t.pier p).awake = true
  masons : ∀ p, (t.pier p).masons = (s.pier p).masons
  skovs : ∀ d, t.skov d = s.skov d
  counters : ∀ r w, w < 0x100 → t.counters.get (plmbReg r w) = s.counters.get (plmbReg r w)

theorem Pier.keyAt_of_keyPart {p r : Pier} (h : p.keyPart = r.keyPart) (j : Nat) : p.keyAt j = r.keyAt j :=
  (congrArg (fun x : Table × Table × Table × List KeyOp × List KeyOp × List Mason =>
    majority (x.1.get j) (x.2.1.get j) (x.2.2.1.get j)) h :)

theorem Pier.keyAt_of_keyOps {p r : Pier} (h : p.keyOps = r.keyOps) (j : Nat) : p.keyAt j = r.keyAt j :=
  (congrArg (fun x : Table × Table × Table × List KeyOp × List KeyOp => majority (x.1.get j) (x.2.1.get j) (x.2.2.1.get j)) h :)

theorem State.Still.ends {s t : State} {key : Nat} (h : (s.keySeen key).Still t) : s.Ends t key where
  ports r := by rw [State.port, h.ports, State.port]
  queue q := (State.queue_congr h.queues q).trans (s.queue_keySeen key q)
  keys p := Pier.keyAt_of_keyPart (h.piers p)
  awake := h.awake
  masons p := (congrArg (fun x => x.2.2.2.2.2) (h.piers p) :)
  skovs d := by rw [State.skov, h.skovs]; rfl
  counters := h.counters

theorem State.keyApply_ends (s : State) (key : Nat) (c : KeyCycle) (now arriving : List KeyOp) :
    let u := (s.updPier (keyPier key) (·.putCycle (keyLocal key) c arriving)).tellAll (keyPier key) (c.answers now)
    u.Ends (s.keyApply key c now arriving) key ∧ (key ≠ (u.pier 0).cfg.stepKey → s.keyApply key c now arriving = u.keySeen key) := by
  intro u
  have heq := s.keyApply_eq key c now arriving
  dsimp only at heq
  refine ⟨?_, fun hne => ?_⟩
  · rw [heq]
    split
    · exact State.Still.ends (.stepTest _)
    · exact State.Still.ends (.refl _)
  · rw [heq, if_neg]
    exact fun hkey => hne (eq_of_beq hkey)

theorem State.Ends.gets {s t : State} {key : Nat} (h : s.Ends t key) {r : PortId} {m : OutMsg} (hm : (s.port r).gets m) : (t.port r).gets m := by
  rw [h.ports, State.port_keySeen]
  exact hm

/-! ## The cycle in its tables -/

/-- A cycle in its pier's tables, before anything is told of it. -/
structure State.CycleSet (s u : State) (p : PierId) (k v : Nat) : Prop where
  ports : u.ports = s.ports
  skovs : u.skovs = s.skovs
  queues : u.queues = s.queues
  tick : u.tick = s.tick
  masons : ∀ r, (u.pier r).masons = (s.pier r).masons
  counters : ∀ r w, w < 0x100 → u.counters.get (plmbReg r w) = s.counters.get (plmbReg r w)
  keyAt : ∀ r j, (u.pier r).keyAt j = if r = p ∧ j = k then v else (s.pier r).keyAt j
  awake : (u.pier p).awake = true
  replies : s.Replies u

theorem State.cycleSet {s : State} {p : PierId} (hd : s.deadPier p = false) (k : Nat) (c : KeyCycle) (arriving : List KeyOp) :
    s.CycleSet ((s.wakePier p).updPier p (·.putCycle k c arriving)) p k c.value := by
  have hwake := State.Still.wakePier s p
  refine ⟨hwake.ports, hwake.skovs, hwake.queues, hwake.tick, fun r => ?masons, hwake.counters, fun r j => ?keyAt, ?awake, ?replies⟩
  case masons =>
    rw [State.pier_updPier_ite]
    have hm : ((s.wakePier p).pier r).masons = (s.pier r).masons := (congrArg (fun x => x.2.2.2.2.2) (hwake.piers r) :)
    split
    · exact hm
    · exact hm
  case keyAt =>
    have hk := Pier.keyAt_of_keyPart (hwake.piers r) j
    rw [State.pier_updPier_ite]
    by_cases hr : r = p
    · simp only [hr, if_true, Pier.keyAt_putCycle, true_and] at hk ⊢
      rw [hk]
    · simp [hr, hk]
  case awake =>
    rw [State.pier_updPier]
    exact (State.wakePier_woken hd).1
  case replies =>
    exact (State.Replies.wakePier s p).trans (.updPier _ p _ fun _ => ⟨rfl, rfl⟩)

/-! ## A failed pier's operations refused (R438) -/

theorem State.Tells.refuseAll (s : State) (ops : List KeyOp) : s.Tells (ops.foldl (fun (s : State) o => s.refuseTas o.answer) s) :=
  .foldl (fun (s : State) (o : KeyOp) => s.refuseTas o.answer) (fun s o => .refuseTas s o.answer) ops s

theorem State.refuseKeys_spec (s : State) (p : PierId) :
    ((s.refuseKeys p).pier p).keyDeferred = [] ∧ ((s.refuseKeys p).pier p).keyArriving = [] ∧
    (∀ r j, ((s.refuseKeys p).pier r).keyAt j = (s.pier r).keyAt j) ∧
    ∀ o ∈ (s.pier p).keyDeferred ++ (s.pier p).keyArriving, ∀ r tag, o.answer = .access (.host r tag) → (s.port r).linked = true →
      ((s.refuseKeys p).port r).gets ⟨0x11, tag.toNat, 1, leBytes 8 0⟩ := by
  obtain ⟨u, hu⟩ : ∃ u, u = s.updPier p fun pr => { pr with keyDeferred := [], keyArriving := [] } := ⟨_, rfl⟩
  have heq : s.refuseKeys p = ((s.pier p).keyDeferred ++ (s.pier p).keyArriving).foldl (fun (s : State) o => s.refuseTas o.answer) u := by
    rw [hu]
    rfl
  have hempty : (u.pier p).keyDeferred = [] ∧ (u.pier p).keyArriving = [] := by
    rw [hu, State.pier_updPier]
    exact ⟨rfl, rfl⟩
  have hkeys : ∀ r j, (u.pier r).keyAt j = (s.pier r).keyAt j := by
    intro r j
    rw [hu, State.pier_updPier_ite]
    split <;> rfl
  have hports : u.ports = s.ports := by rw [hu]; rfl
  rw [heq]
  generalize (s.pier p).keyDeferred ++ (s.pier p).keyArriving = ops
  have htells := State.Tells.refuseAll u ops
  refine ⟨?_, ?_, fun r j => (Pier.keyAt_of_keyOps (htells.keys r) j).trans (hkeys r j), fun o ho r tag ha hl => ?_⟩
  · exact (congrArg (fun x => x.2.2.2.1) (htells.keys p) :).trans hempty.1
  · exact (congrArg (fun x => x.2.2.2.2) (htells.keys p) :).trans hempty.2
  · obtain ⟨as, bs, rfl⟩ := List.append_of_mem ho
    rw [List.foldl_append, List.foldl_cons, ha]
    refine (State.Tells.refuseAll _ bs).gets (State.send_gets ?_ _)
    rw [(State.Tells.refuseAll u as).linked, State.port, hports]
    exact hl

/-! ## Messages that waited go on -/

theorem State.drainInboxes_empty {s : State} (h : ∀ r, (s.port r).inbox = []) : s.drainInboxes = s := by
  refine foldl_still _ s _ fun p _ => ?_
  have hsame : s.drainInbox p = s := by
    unfold State.drainInbox
    simp [h p]
  simp [hsame]

end Sys2Proof.Machine
end

section
/-! SUPPORT. One cycle of a keystone from what arrives for it to who is met (R38, R412, R413). -/

namespace Sys2Proof.Machine

/-- The operations deferred at a keystone. -/
def Pier.keyWaits (p : Pier) (k : Nat) : List KeyOp := p.keyDeferred.filter fun o => keyLocal o.key == k

/-- What arrives for a keystone in one cycle. -/
def Pier.keyNow (p : Pier) (k : Nat) : List KeyOp := (takeArriving k [] p.keyArriving).1

/-- A keystone's cycle with what is at its pier. -/
def Pier.cycle (p : Pier) (k : Nat) : KeyCycle :=
  keyCycle (p.keyAt k) (p.keyRot.get (2 * k)) (p.keyRot.get (2 * k + 1)) (p.keyWaits k) (p.keyNow k)

/-- What it tells. -/
def Pier.cycleAnswers (p : Pier) (k : Nat) : List (TasAnswer × Nat) := (p.cycle k).answers (p.keyNow k)

theorem State.keyUpdate_idle {s : State} {key : Nat} (hd : s.deadPier (keyPier key) = false)
    (hn : (s.pier (keyPier key)).keyNow (keyLocal key) = []) (hw : (s.pier (keyPier key)).keyWaits (keyLocal key) = []) :
    s.keyUpdate key = s := by
  unfold Pier.keyNow at hn
  unfold Pier.keyWaits at hw
  unfold State.keyUpdate
  simp [hd, hn, hw]

/-- A cycle of a keystone: put in its tables, told, and seen. -/
theorem State.keyUpdate_cycle {s : State} {key : Nat} (hd : s.deadPier (keyPier key) = false)
    (hsome : (s.pier (keyPier key)).keyNow (keyLocal key) ≠ [] ∨ (s.pier (keyPier key)).keyWaits (keyLocal key) ≠ []) :
    ∃ u, s.CycleSet u (keyPier key) (keyLocal key) ((s.pier (keyPier key)).cycle (keyLocal key)).value ∧
      let w := u.tellAll (keyPier key) ((s.pier (keyPier key)).cycleAnswers (keyLocal key))
      w.Ends (s.keyUpdate key) key ∧ (key ≠ (w.pier 0).cfg.stepKey → s.keyUpdate key = w.keySeen key) := by
  have hempty : (((s.pier (keyPier key)).keyNow (keyLocal key)).isEmpty && ((s.pier (keyPier key)).keyWaits (keyLocal key)).isEmpty) = false := by
    obtain h | h := hsome <;> simp [h]
  have heq : s.keyUpdate key = (s.wakePier (keyPier key)).keyApply key ((s.pier (keyPier key)).cycle (keyLocal key))
      ((s.pier (keyPier key)).keyNow (keyLocal key)) (takeArriving (keyLocal key) [] (s.pier (keyPier key)).keyArriving).2 := by
    unfold State.keyUpdate
    dsimp only
    rw [hd, if_neg Bool.false_ne_true]
    exact if_neg (fun h => Bool.false_ne_true (hempty.symm.trans h))
  rw [heq]
  exact ⟨_, State.cycleSet hd _ _ _, State.keyApply_ends _ _ _ _ _⟩

/-! ## What is told -/

theorem Pier.mem_cycleAnswers {p : Pier} {k : Nat} {o : KeyOp} (ho : o ∈ p.keyNow k) (hk : o.kind ≠ 2) : (o.answer, 0) ∈ p.cycleAnswers k :=
  List.mem_append_left _ (List.mem_map.mpr ⟨o, List.mem_filter.mpr ⟨ho, by simpa using hk⟩, rfl⟩)

/-- Nothing but the test-and-set served is told of an operation outside the adds and sets of the cycle. -/
theorem Pier.cycle_served (p : Pier) (k : Nat) : ∀ x ∈ (p.cycle k).served, x.1 ∈ p.keyWaits k ∨ x.1 ∈ p.keyNow k ∧ x.1.kind = 2 := by
  intro x hx
  rw [Pier.cycle, (keyCycle_eq _ _ _ _ _).2] at hx
  obtain ⟨o, ho, rfl⟩ := Option.map_eq_some_iff.mp hx
  exact (tasServed_spec _ _ _).2.2.2 o ho

theorem Pier.cycleAnswers_all {p : Pier} {k : Nat} {P : TasAnswer → Prop} (h : ∀ o ∈ p.keyNow k ++ p.keyWaits k, P o.answer) :
    ∀ a ∈ p.cycleAnswers k, P a.1 := by
  intro a ha
  obtain ha | ha := List.mem_append.mp ha
  · obtain ⟨o, ho, rfl⟩ := List.mem_map.mp ha
    exact h o (List.mem_append_left _ (List.mem_of_mem_filter ho))
  · obtain ⟨x, hx, rfl⟩ := Option.map_eq_some_iff.mp (Option.mem_toList.mp ha)
    obtain hw | ⟨hn, -⟩ := p.cycle_served k x hx
    · exact h x.1 (List.mem_append_right _ hw)
    · exact h x.1 (List.mem_append_left _ hn)

/-- The answers told before and after that of an add or set, none of which is its own. -/
theorem Pier.cycleAnswers_split {p : Pier} {k : Nat} {o : KeyOp} (ho : o ∈ p.keyNow k) (hk : o.kind ≠ 2) (hw : o ∉ p.keyWaits k)
    {P : TasAnswer → Prop} (h : ∀ y ∈ p.keyNow k ++ p.keyWaits k, y ≠ o → P y.answer) :
    ∃ as bs, p.cycleAnswers k = as ++ (o.answer, 0) :: bs ∧ (∀ a ∈ as, P a.1) ∧ ∀ b ∈ bs, P b.1 := by
  have hnodup : ((p.keyNow k).filter fun o => o.kind != 2).Nodup := (takeArriving_nodup k p.keyArriving).filter _
  obtain ⟨xs, ys, hxy⟩ := List.append_of_mem (List.mem_filter.mpr ⟨ho, by simpa using hk⟩ : o ∈ (p.keyNow k).filter fun o => o.kind != 2)
  have hmem : ∀ y ∈ xs ++ o :: ys, y ∈ p.keyNow k := fun y hy => by
    rw [← hxy] at hy
    exact List.mem_of_mem_filter hy
  rw [hxy] at hnodup
  have hne : ∀ y, y ∈ xs ∨ y ∈ ys → y ≠ o := by
    intro y hy e
    subst e
    have := List.nodup_middle.mp hnodup
    simp_all
  have hsome : ∀ y, y ∈ xs ∨ y ∈ ys → P y.answer := fun y hy =>
    h y (List.mem_append_left _ (hmem y (by simp; tauto))) (hne y hy)
  refine ⟨xs.map fun o => (o.answer, 0), ys.map (fun o => (o.answer, 0)) ++ ((p.cycle k).served.map fun x => (x.1.answer, x.2)).toList, ?_,
    fun a ha => ?_, fun b hb => ?_⟩
  · rw [Pier.cycleAnswers, KeyCycle.answers, hxy]
    simp
  · obtain ⟨y, hy, rfl⟩ := List.mem_map.mp ha
    exact hsome y (.inl hy)
  · obtain hb | hb := List.mem_append.mp hb
    · obtain ⟨y, hy, rfl⟩ := List.mem_map.mp hb
      exact hsome y (.inr hy)
    · obtain ⟨x, hx, rfl⟩ := Option.map_eq_some_iff.mp (Option.mem_toList.mp hb)
      obtain hin | ⟨hin, h2⟩ := p.cycle_served k x hx
      · exact h x.1 (List.mem_append_right _ hin) fun e => hw (e ▸ hin)
      · exact h x.1 (List.mem_append_left _ hin) fun e => hk (e ▸ h2)

/-- Of a deferred test-and-set that is served what its cycle tells last is the value that it found. -/
theorem Pier.cycleAnswers_deferred {p : Pier} {k : Nat} {d : KeyOp} {ds : List KeyOp} (h : p.keyWaits k = d :: ds) :
    p.cycleAnswers k = ((p.keyNow k).filter fun o => o.kind != 2).map (fun o => (o.answer, 0)) ++
      [(d.answer, setStep (p.keyAt k) (p.keyRot.get (2 * k)) (p.keyNow k))] := by
  have hserved : (p.cycle k).served = some (d, setStep (p.keyAt k) (p.keyRot.get (2 * k)) (p.keyNow k)) := by
    rw [Pier.cycle, (keyCycle_eq _ _ _ _ _).2, (tasServed_spec _ _ _).1 d ds h]
    rfl
  rw [Pier.cycleAnswers, KeyCycle.answers, hserved]
  rfl

/-- A keystone's value told to whoever read it: a host, one that has departed, a mason core or a Skovlaper (R412, R465). -/
def State.ReadTold (s t : State) (src : Source) (v : Nat) : Prop :=
  match src with
  | .host r tag => s.Sends t r ⟨0x11, tag.toNat, 0, leBytes 8 v⟩
  | .gone r => s.Counts t (plmbReg r 0x10)
  | .mason r c => (t.pier r).masons = (s.pier r).masons.modify c.val fun m => { m with loaded := v, faulted := 0 }
  | .skov d => (t.skov d).answer = v ∧ (t.skov d).status = 0

/-- Where an access reads its keystone, the value that its deferred test-and-set found goes to whoever asked. -/
theorem State.cycle_answered {s u t : State} {key v : Nat} (hset : s.CycleSet u (keyPier key) (keyLocal key) v) (src : Source)
    {as : List (TasAnswer × Nat)} (has : ∀ a ∈ as, a.1 = .none) (v1 : Nat)
    (hends : (u.tellAll (keyPier key) (as ++ [(.access src, v1)])).Ends t key) : s.ReadTold t src v1 := by
  have hback := State.Still.backTo u src (keyPier key)
  have hw : u.tellAll (keyPier key) (as ++ [(.access src, v1)]) = (u.backTo src (keyPier key)).answerRead src 0 8 v1 := by
    rw [State.tellAll_append, State.tellAll_none _ _ has]
    rfl
  rw [hw] at hends
  generalize u.backTo src (keyPier key) = b at hback hends
  have hport : ∀ r, b.port r = s.port r := fun r => by rw [State.port, hback.ports, hset.ports, State.port]
  have hmasons : ∀ r, (b.pier r).masons = (s.pier r).masons := fun r =>
    (congrArg (fun x => x.2.2.2.2.2) (hback.piers r) :).trans (hset.masons r)
  have hcount : ∀ r, b.counters.get (plmbReg r 0x10) = s.counters.get (plmbReg r 0x10) := fun r =>
    (hback.counters r 0x10 (by decide)).trans (hset.counters r 0x10 (by decide))
  match src with
  | .host r tag =>
    obtain ⟨hsends, -⟩ := b.send_spec r ⟨0x11, tag.toNat, 0, leBytes 8 v1⟩
    show s.Sends t r _
    simpa only [State.Sends, hends.ports, State.port_keySeen, hport, State.answerRead] using hsends
  | .gone r =>
    show t.counters.get _ = _
    rw [hends.counters r 0x10 (by decide), ← hcount]
    exact Table.get_addSat _ _ _
  | .mason r c =>
    show (t.pier r).masons = _
    rw [hends.masons, ← hmasons]
    exact congrArg Pier.masons (State.pier_updPier b r _)
  | .skov d =>
    show (t.skov d).answer = v1 ∧ (t.skov d).status = 0
    rw [hends.skovs, State.answerRead, State.skov_updSkov]
    exact ⟨rfl, rfl⟩

/-- A header whose signal the cycle applies leaves its queue, and its record goes. -/
theorem State.cycle_signalled {s u t : State} {p : PierId} {k key v : Nat} (hset : s.CycleSet u p k v) {q : QKey} {x : QEntry}
    (hx : s.head q = some x) (hc : x.phase = .closing) {as bs : List (TasAnswer × Nat)} (has : ∀ a ∈ as, a.1.not_for q)
    (hbs : ∀ b ∈ bs, b.1.not_for q) (hends : (u.tellAll p (as ++ (.signal q, 0) :: bs)).Ends t key) :
    (t.queue q).map (·.hdr) = ((s.queue q).map (·.hdr)).tail ∧ ∀ port tag, x.origin = .host port tag → x.hdr.report = true →
      (s.port port).linked = true → (t.port port).gets ⟨0x13, tag.toNat, 0, State.badUnit.completion x.hdr x.status s.tick⟩ := by
  rw [State.tellAll_append, State.tellAll_cons] at hends
  have hbefore : (u.tellAll p as).queue q = s.queue q := (State.queue_tellAll p as u has).trans (State.queue_congr hset.queues q)
  have htells := State.Tells.tellAll u p as
  obtain ⟨htail, hrecord⟩ := State.signalled_closing ((State.head_congr hbefore).trans hx) hc
  refine ⟨?_, fun port tag ho hr hl => hends.gets ((State.Tells.tellAll _ p bs).gets ?_)⟩
  · rw [hends.queue, seenQueue_hdrs, State.queue_tellAll p bs _ hbs]
    show (((u.tellAll p as).signalled q).queue q).map (·.hdr) = _
    rw [htail, hbefore, List.map_tail]
  · have hlinked : ((u.tellAll p as).port port).linked = true := by
      rw [htells.linked, State.port, hset.ports]
      exact hl
    rw [← hset.tick, ← htells.tick]
    exact hrecord port tag ho hr hlinked

theorem State.cycle_keyValue {s u : State} {p : PierId} {k v : Nat} (hset : s.CycleSet u p k v) (as : List (TasAnswer × Nat)) : ((u.tellAll p as).pier p).keyAt k = v := by
  rw [Pier.keyAt_of_keyOps ((State.Tells.tellAll u p as).keys p), hset.keyAt, if_pos ⟨rfl, rfl⟩]

section Headless
variable {s u t : State} {p : PierId} {k key v : Nat} (hset : s.CycleSet u p k v) {as : List (TasAnswer × Nat)}
  (has : ∀ a ∈ as, a.1.headless)
include hset has

theorem State.cycle_replies : s.Replies (u.tellAll p as) :=
  hset.replies.trans (.tellAll p as u has)

variable (hends : (u.tellAll p as).Ends t key) (hp : keyPier key = p) (hk : keyLocal key = k)
include hends hp hk

/-- Where no header awaits an answer, heads that wait on the keystone and watches of it are met at the value it ends with. -/
theorem State.cycle_met : (∀ (q : QKey) (x : QEntry), s.head q = some x → t.head q = some (if x.sees key v then { x with phase := .met } else x)) ∧
    ∀ r, (t.port r).watches = (s.port r).watches.map fun x => if x.key == key && waitMet x.cond v x.value then { x with met := true } else x := by
  have hvalue : (u.tellAll p as).keyValue key = v := by
    rw [State.keyValue, hp, hk]
    exact State.cycle_keyValue hset as
  refine ⟨fun q x hx => ?_, fun r => ?_⟩
  · have hq : (u.tellAll p as).queue q = x :: (s.queue q).tail :=
      (State.queue_congr (by rw [(State.cycle_replies hset has).frame]) q).trans (State.queue_of_head hx)
    refine State.head_of_queue (xs := (s.queue q).tail) ?_
    rw [hends.queue, hq, hvalue]
    rfl
  · have hwatches : ((u.tellAll p as).port r).watches = (s.port r).watches := by
      rw [(State.Tells.tellAll u p as).watches, State.port, hset.ports]
      rfl
    rw [hends.ports, State.port_keySeen, hvalue, hwatches]

end Headless

theorem tasStep_eq (v : Nat) (o : KeyOp) : tasStep v o = if v = 0 then o.operand else v := by
  simp [tasStep]

/-- A completion record (R458). -/
theorem completion_bytes (h : Header) (status tick : Nat) : State.badUnit.completion h status tick =
    leBytes 8 (1 + 2 ^ 8 * h.stream + 2 ^ 16 * status + 2 ^ 24 * h.opcode + 2 ^ 32 * h.unit + 2 ^ 48 * h.seq) ++ leBytes 8 tick ++
      List.replicate 48 0 := by
  unfold State.badUnit.completion padTo
  simp

/-- Settles O25: the cycle put in its tables, told, and seen. -/
theorem keystoneCycle : Obligations.keystone_cycle := by
  intro key s p k now waits v far first gets
  refine ⟨s.keyUpdate key.val, rfl, fun h => congrArg Host.Outcome.next (State.drainInboxes_empty h), fun hd => ?dead,
    fun hd hn hw => State.keyUpdate_idle hd hn hw, fun hd hsome => ?cycle⟩
  case dead =>
    have heq : s.keyUpdate key.val = s.refuseKeys p := by
      unfold State.keyUpdate
      exact if_pos hd
    rw [heq]
    exact s.refuseKeys_spec p
  case cycle =>
    obtain ⟨u, hset, hends, hstep⟩ := State.keyUpdate_cycle hd hsome
    obtain ⟨hset1, hset2⟩ := setStep_spec v ((s.pier p).keyRot.get (2 * k)) now
    obtain ⟨hdefer, hnone, hsome, -⟩ := tasServed_spec ((s.pier p).keyRot.get (2 * k + 1)) waits now
    obtain ⟨hvalue, hserved⟩ := keyCycle_eq v ((s.pier p).keyRot.get (2 * k)) ((s.pier p).keyRot.get (2 * k + 1)) waits now
    have hkeys : ∀ r j, ((s.keyUpdate key.val).pier r).keyAt j =
        if r = p ∧ j = k then ((s.pier p).cycle k).value else (s.pier r).keyAt j := fun r j => by
      rw [hends.keys, Pier.keyAt_of_keyOps ((State.Tells.tellAll u p _).keys r), hset.keyAt]
    have hlinked : ∀ r, (s.port r).linked = true → (u.port r).linked = true := fun r hl => by
      rw [State.port, hset.ports]
      exact hl
    have hback : ∀ (w : State) r tag r', (w.backTo (.host r tag) p).port r' = w.port r' := fun w r tag r' => by
      rw [State.port, (State.Still.backTo w _ p).ports, State.port]
    refine ⟨setStep v ((s.pier p).keyRot.get (2 * k)) now, tasLeaves (setStep v ((s.pier p).keyRot.get (2 * k)) now)
      (tasServed ((s.pier p).keyRot.get (2 * k + 1)) waits now), hset1, hset2, fun d ds h => ?deferred, fun h ho => ?same,
      fun h ho => ?first, ?value, ?others, ?piers, ?awake, fun d ds src h ha ho => ?access, fun o ho r tag hk ha hl => ?ack,
      fun o ho q x hk ha hx hc hw hone => ?signal, fun hall => ?headless⟩
    case deferred =>
      rw [hdefer d ds h]
      exact tasStep_eq _ d
    case same => rw [hnone h ho]; rfl
    case first =>
      obtain ⟨o, hfirst, hserve⟩ := hsome h ho
      exact ⟨o, hfirst, by rw [hserve]; exact tasStep_eq _ o⟩
    case value => rw [hkeys, if_pos ⟨rfl, rfl⟩]; exact hvalue
    case others => exact fun j hj => by rw [hkeys, if_neg fun h => hj h.2]
    case piers => exact fun r hr j => by rw [hkeys, if_neg fun h => hr h.1]
    case awake => exact hends.awake p ((State.Tells.tellAll u p _).awake p hset.awake)
    case access =>
      have hlist := Pier.cycleAnswers_deferred h
      rw [ha] at hlist
      rw [hlist] at hends
      have htold : s.ReadTold (s.keyUpdate key.val) src (setStep v ((s.pier p).keyRot.get (2 * k)) now) := by
        refine State.cycle_answered hset src (fun a hmem => ?_) _ hends
        obtain ⟨y, hy, rfl⟩ := List.mem_map.mp hmem
        obtain ⟨hy, hk⟩ := List.mem_filter.mp hy
        exact ho y hy (by simpa using hk)
      cases src <;> exact htold
    case ack =>
      refine hends.gets (State.tellAll_gets (Pier.mem_cycleAnswers ho hk) (fun w hw => ?_) (hlinked r hl))
      rw [ha]
      exact State.send_gets ((congrArg Port.linked (hback w r tag r)).trans hw) _
    case signal =>
      obtain ⟨as, bs, hlist, has, hbs⟩ := Pier.cycleAnswers_split ho hk hw (P := (·.not_for q)) hone
      rw [hlist, ha] at hends
      obtain ⟨hqueue, hrecord⟩ := State.cycle_signalled hset hx hc has hbs hends
      exact ⟨hqueue, fun port tag h1 h2 h3 => completion_bytes x.hdr x.status s.tick ▸ hrecord port tag h1 h2 h3⟩
    case headless =>
      have has := Pier.cycleAnswers_all (k := k) (p := s.pier p) (P := TasAnswer.headless) hall
      have hreplies := State.cycle_replies hset has
      obtain ⟨hheads, hwatches⟩ := State.cycle_met hset has hends rfl rfl
      have hw : ((s.pier p).cycle k).value = _ := hvalue
      rw [hw] at hheads hwatches
      refine ⟨fun q x hx => (hheads q x hx).trans ?_, fun r => (hwatches r).trans ?_, fun hne => ?_⟩
      · exact congrArg some (if_congr (by simp [QEntry.sees, and_assoc]) rfl rfl)
      · exact List.map_congr_left fun y _ => if_congr (by simp) rfl rfl
      · have hcfg : ((u.tellAll p ((s.pier p).cycleAnswers k)).pier 0).cfg = (s.pier 0).cfg := (congrArg Pier.cfg (hreplies.rest 0) :)
        rw [hstep (by rw [hcfg]; exact hne)]
        refine ⟨hreplies.rest, hreplies.run, ?_⟩
        rw [State.keySeen_frame, hreplies.frame]

end Sys2Proof.Machine
end

section
/-! SUPPORT. The ADMIT message (R421, R459, R463, R468): turned away, or among the requests of its tick. -/

namespace Sys2Proof.Machine

/-! ## Bytes padded with zeros -/

theorem ofBytes_append_zeros (bs : List Byte) (n : Nat) : ofBytes (bs ++ List.replicate n 0) = ofBytes bs := by
  induction bs with
  | nil =>
    induction n with
    | zero => rfl
    | succ n ih => simpa [List.replicate_succ, ofBytes] using ih
  | cons b bs ih => simp only [List.cons_append, ofBytes, ih]

@[simp] theorem length_padTo (n : Nat) (bs : List Byte) : (padTo n bs).length = n := by
  simp [padTo]
  omega

/-- A number within the padded bytes is that of the bytes. -/
theorem leAt_padTo (bs : List Byte) {k n : Nat} (h : k ≤ n) : leAt (padTo n bs) 0 k = leAt bs 0 k := by
  rw [leAt, leAt, padTo, List.drop_zero, List.drop_zero, List.take_take, Nat.min_eq_left h, List.take_append, List.take_replicate,
    ofBytes_append_zeros]

theorem padTo_of_length {bs : List Byte} {m : Nat} (h : bs.length = m) (n : Nat) (hn : m ≤ n) :
    padTo n bs = bs ++ List.replicate (n - m) 0 := by
  rw [padTo, h]
  exact List.take_of_length_le (by simp; omega)

/-- A delivery: five words, and zeros. -/
theorem deliveryBytes_eq (kind cls status code id promised stamp arrival : Nat) :
    deliveryBytes kind cls status code id promised stamp arrival =
      leBytes 8 (kind + 2 ^ 8 * cls + 2 ^ 16 * status + 2 ^ 24 * code) ++ leBytes 8 id ++ leBytes 8 promised ++ leBytes 8 stamp ++
        leBytes 8 arrival ++ List.replicate 24 0 :=
  padTo_of_length (m := 40) (by simp) 64 (by decide)

theorem requestLine_eq (id c arg ta promised k : Nat) : requestLine id c arg ta promised k =
    leBytes 8 (id + 2 ^ 32 * c) ++ leBytes 8 arg ++ leBytes 8 ta ++ leBytes 8 promised ++ leBytes 8 k ++ List.replicate 24 0 :=
  padTo_of_length (m := 40) (by simp) 64 (by decide)

/-! ## The message -/

/-- A request that nothing holds back is taken, and its credit is given back. -/
theorem State.message_admit {s : State} {p : PortId} (hh : s.hears p 5) (tag : U32) (payload : List Byte) :
    s.message p (msgBytes 5 tag.toNat 0 0 (padTo 16 payload)) = (s.takeAdmit p tag (padTo 16 payload)).giveCredit p 2 := by
  obtain ⟨htrain, -, hblock⟩ := hh
  have hlen := length_padTo 16 payload
  generalize padTo 16 payload = data at hlen
  obtain ⟨hf0, hf1, -, -⟩ := msgBytes_fields tag 0 0 (show 5 < 256 by decide) (data := data) (by omega)
  have htype := msgBytes_type 5 tag 0 0 data (by decide)
  simp [State.message, htrain, htype, length_msgBytes, hlen, lengthOk, State.arrive, hblock, State.take, hf0, hf1, drop_msgBytes]

/-- One turned away is answered with the status. -/
theorem State.takeAdmit_refused {s : State} {p : PortId} {st : Nat} (h : s.refusal p false = some st) (tag : U32) (payload : List Byte) :
    s.takeAdmit p tag payload = s.send p
      ⟨0x14, tag.toNat, 0, deliveryBytes 5 (fld (leAt payload 0 8) 5 0) st 0 (fld (leAt payload 0 8) 63 32) 0 s.tick s.tick⟩ := by
  unfold State.takeAdmit
  rw [h]

theorem State.takeAdmit_taken {s : State} {p : PortId} (h : s.refusal p false = none) (tag : U32) (payload : List Byte) :
    s.takeAdmit p tag payload = { s with admits := s.admits ++ [⟨p, tag.toNat, payload⟩] } := by
  unfold State.takeAdmit
  rw [h]

/-- What turns a request away: a host that is not bound, or an image that is not loaded. -/
theorem State.refusal_admit (s : State) (p : PortId) : s.refusal p false =
    if (s.port p).bound = false then some 4 else if s.func.state ≤ 2 then some 5 else none := by
  simp [State.refusal]

/-- A message to a host with a link and a credit given back change its port alone. -/
theorem State.send_credit (s : State) {p : PortId} (hl : (s.port p).linked = true) (m : OutMsg) (q : Nat) :
    let t := (s.send p m).giveCredit p q
    s.Sends t p m ∧ (∀ r, (s.port r).Transmits (t.port r)) ∧ t = { s with ports := t.ports } := by
  obtain ⟨hsend, hframe, htr, -, hcount⟩ := s.send_spec p m
  obtain ⟨gframe, gtr, -, gsent, gheld⟩ := (s.send p m).giveCredit_spec p q
  refine ⟨hsend.mono hl gsent (by rw [gheld]), fun r => (htr r).trans (gtr r), ?_⟩
  rw [hcount hl] at hframe
  rw [gframe, hframe]

/-- An ADMIT turned away: its refusal is sent, and nothing else changes. -/
theorem State.admit_refused {s : State} {p : PortId} (hh : s.hears p 5) {st : Nat} (hst : s.refusal p false = some st) (tag : U32)
    (payload : List Byte) :
    let w := leAt payload 0 8
    let t := s.message p (msgBytes 5 tag.toNat 0 0 (padTo 16 payload))
    s.Sends t p ⟨0x14, tag.toNat, 0, deliveryBytes 5 (fld w 5 0) st 0 (fld w 63 32) 0 s.tick s.tick⟩ ∧
      (∀ r, (s.port r).Transmits (t.port r)) ∧ t = { s with ports := t.ports } := by
  dsimp only
  rw [State.message_admit hh, State.takeAdmit_refused hst, leAt_padTo payload (by decide)]
  exact s.send_credit hh.2.1 _ 2

/-- An ADMIT that is taken stands behind the requests of its tick. -/
theorem State.admit_taken {s : State} {p : PortId} (hh : s.hears p 5) (hst : s.refusal p false = none) (tag : U32) (payload : List Byte) :
    let t := s.message p (msgBytes 5 tag.toNat 0 0 (padTo 16 payload))
    t.admits = s.admits ++ [⟨p, tag.toNat, padTo 16 payload⟩] ∧ (∀ r, (s.port r).Transmits (t.port r)) ∧
      t = { s with ports := t.ports, admits := t.admits } := by
  dsimp only
  rw [State.message_admit hh, State.takeAdmit_taken hst]
  obtain ⟨hframe, htr, -⟩ := State.giveCredit_spec { s with admits := s.admits ++ [⟨p, tag.toNat, padTo 16 payload⟩] } p 2
  exact ⟨by rw [hframe], htr, by rw [hframe]⟩

end Sys2Proof.Machine
end

section
/-! SUPPORT. The decision on a request (R422, R423, R459), and which request of a tick is decided first (R409, R421). -/

namespace Sys2Proof.Machine

/-! ## The code -/

section Judge

variable {s : State} {p : PortId} {c : Nat} {reserved : Bool} {ta : Nat}

/-- Where no image runs, code 7. -/
theorem State.judge_stopped (h : 5 ≤ s.func.state) : (s.judgeRequest p c reserved ta).1 = 7 := by
  have h3 : s.func.state ≠ 3 := by omega
  have h4 : s.func.state ≠ 4 := by omega
  simp [State.judgeRequest, h3, h4]

theorem State.judge_undefined (h : s.classDefined c = false) : (s.judgeRequest p c reserved ta).1 ≠ 0 := by
  unfold State.judgeRequest
  dsimp only
  split
  · decide
  · simp [h]

theorem State.judge_undefined_running (hf : s.func.state = 3) (h : s.classDefined c = false) : (s.judgeRequest p c reserved ta).1 = 1 := by
  simp [State.judgeRequest, hf, h]

/-- The steps of a decision behind those that a class defined in a running image meets. -/
theorem State.judge_running (hf : s.func.state = 3) (hd : s.classDefined c = true) : s.judgeRequest p c reserved ta =
    if s.classInflight c ≤ (s.classPending c).length ∨ Config.requestCap ≤ s.undelivered.length then (2, 0)
    else if 256 * s.classSlots c * (s.classService c * 26 / 16384) < (s.classPending c).length * s.classWork c + s.classWork c then (3, 0)
    else if ((s.classPiers c).isEmpty || (s.classPiers c).any fun q => s.patternShort q) = true then (4, 0)
    else if ((s.classPiers c).any (fun q => s.pierOut q) || s.quoinOut p) = true then (5, 0)
    else if wrap64 (ta + s.classService c) < s.promise c ta then (6, 0)
    else if reserved = true then (8, 0)
    else (0, s.promise c ta) := by
  simp [State.judgeRequest, hf, hd]

theorem State.judge_full (hf : s.func.state = 3) (hd : s.classDefined c = true)
    (h : s.classInflight c ≤ (s.classPending c).length ∨ Config.requestCap ≤ s.undelivered.length) :
    (s.judgeRequest p c reserved ta).1 = 2 := by
  rw [State.judge_running hf hd, if_pos h]

theorem State.judge_rate (hf : s.func.state = 3) (hd : s.classDefined c = true)
    (h : ¬(s.classInflight c ≤ (s.classPending c).length ∨ Config.requestCap ≤ s.undelivered.length))
    (hr : 256 * s.classSlots c * (s.classService c * 26 / 16384) < (s.classPending c).length * s.classWork c + s.classWork c) :
    (s.judgeRequest p c reserved ta).1 = 3 := by
  rw [State.judge_running hf hd, if_neg h, if_pos hr]

/-- A request accepted has passed every test. -/
theorem State.judge_accepted (hf : s.func.state = 3) (hd : s.classDefined c = true) (h : (s.judgeRequest p c reserved ta).1 = 0) :
    ¬(s.classInflight c ≤ (s.classPending c).length ∨ Config.requestCap ≤ s.undelivered.length) ∧
    ¬256 * s.classSlots c * (s.classService c * 26 / 16384) < (s.classPending c).length * s.classWork c + s.classWork c ∧
    reserved = false ∧ (s.judgeRequest p c reserved ta).2 ≤ wrap64 (ta + s.classService c) ∧ s.quoinOut p = false ∧
    ∀ q ∈ s.classPiers c, s.patternShort q = false ∧ s.pierOut q = false := by
  rw [State.judge_running hf hd] at h ⊢
  by_cases hfull : s.classInflight c ≤ (s.classPending c).length ∨ Config.requestCap ≤ s.undelivered.length
  · rw [if_pos hfull] at h
    cases h
  rw [if_neg hfull] at h ⊢
  by_cases hrate : 256 * s.classSlots c * (s.classService c * 26 / 16384) < (s.classPending c).length * s.classWork c + s.classWork c
  · rw [if_pos hrate] at h
    cases h
  rw [if_neg hrate] at h ⊢
  by_cases hshort : ((s.classPiers c).isEmpty || (s.classPiers c).any fun q => s.patternShort q) = true
  · rw [if_pos hshort] at h
    cases h
  rw [if_neg hshort] at h ⊢
  by_cases hout : ((s.classPiers c).any (fun q => s.pierOut q) || s.quoinOut p) = true
  · rw [if_pos hout] at h
    cases h
  rw [if_neg hout] at h ⊢
  by_cases hlate : wrap64 (ta + s.classService c) < s.promise c ta
  · rw [if_pos hlate] at h
    cases h
  rw [if_neg hlate] at h ⊢
  by_cases hres : reserved = true
  · rw [if_pos hres] at h
    cases h
  rw [if_neg hres]
  simp only [Bool.or_eq_true, List.any_eq_true, not_or, not_exists, not_and, Bool.not_eq_true] at hshort hout
  exact ⟨hfull, hrate, by simpa using hres, Nat.le_of_not_lt hlate, hout.2, fun q hq => ⟨hshort.2 q hq, hout.1 q hq⟩⟩

/-- The codes of R459. -/
theorem State.judge_le : (s.judgeRequest p c reserved ta).1 ≤ 8 := by
  have hite : ∀ (b : Prop) [Decidable b] (x y : Nat × Nat), x.1 ≤ 8 → y.1 ≤ 8 → (if b then x else y).1 ≤ 8 := by
    intro b _ x y hx hy
    split
    · exact hx
    · exact hy
  exact hite _ _ _ (by decide) (hite _ _ _ (by decide) (hite _ _ _ (by decide) (hite _ _ _ (by decide) (hite _ _ _ (by decide)
    (hite _ _ _ (by decide) (hite _ _ _ (by decide) (hite _ _ _ (by decide) (Nat.zero_le 8))))))))

end Judge

theorem State.classPending_eq (s : State) (c : Nat) : s.classPending c = s.requests.filter fun r => !r.delivered && r.cls == c := by
  rw [State.classPending, State.undelivered, List.filter_filter]
  exact List.filter_congr fun r _ => Bool.and_comm _ _

/-! ## The request that is decided -/

/-- The first in a rotation for which there is something: the one it stands at, or the only one. -/
theorem findSome_portsFrom {α : Type} {f : PortId → Option α} {p : PortId} {x : α} {n : Nat} (hx : f p = some x)
    (h : p.val = n % 2 ∨ ∀ q, q ≠ p → f q = none) : (portsFrom n).findSome? f = some x := by
  have hperm : portsFrom n = [p, 1 - p] ∨ portsFrom n = [1 - p, p] ∧ p.val ≠ n % 2 := by
    have hp := p.isLt
    unfold portsFrom
    obtain hn | hn : n % 2 = 0 ∨ n % 2 = 1 := by omega
    · match p with
      | 0 => exact .inl (by simp [hn])
      | 1 => exact .inr (by simp [hn])
    · match p with
      | 0 => exact .inr (by simp [hn])
      | 1 => exact .inl (by simp [hn])
  obtain heq | ⟨heq, hne⟩ := hperm
  · simp [heq, hx]
  · have hother : ∀ q : PortId, 1 - q ≠ q := by decide
    simp [heq, hx, h.resolve_left hne _ (hother p)]

/-- The oldest request of its port, where the rotation stands at the port or the other has none, is decided; the others follow. -/
theorem State.decideAdmits_pick {s : State} {x : AdmitWait} {before after : List AdmitWait} (hs : s.admits = before ++ x :: after)
    (hb : ∀ y ∈ before, y.port ≠ x.port) (hrot : x.port.val = s.admitRot % 2 ∨ ∀ y ∈ s.admits, y.port = x.port) (n : Nat) :
    State.decideAdmits (n + 1) s = State.decideAdmits n
      (({ s with admits := before ++ after, admitRot := (x.port.val + 1) % 2 } : State).admitRequest x.port x.tag x.payload) := by
  have hfind : s.admits.find? (fun y => y.port == x.port) = some x := by
    rw [hs, List.find?_append, List.find?_eq_none.mpr fun y hy => by simpa using hb y hy]
    simp
  have hnone : ∀ q, q ≠ x.port → (∀ y ∈ s.admits, y.port = x.port) → s.admits.find? (fun y => y.port == q) = none := fun q hq hall =>
    List.find?_eq_none.mpr fun y hy => by simpa [hall y hy] using fun h => hq h.symm
  have hpick := findSome_portsFrom (f := fun p => s.admits.find? fun y => y.port == p) hfind
    (hrot.imp id fun hall q hq => hnone q hq hall)
  have herase : s.admits.eraseP (fun y => y.port == x.port) = before ++ after := by
    rw [hs, List.eraseP_append_right _ (fun y hy => by simpa using hb y hy), List.eraseP_cons_of_pos (by simp)]
  rw [State.decideAdmits, hpick]
  dsimp only
  rw [herase]

/-- The tick of a state whose first request is decided is that of the state with it decided. -/
theorem State.step_decided {s t : State} (hp : s.pending = []) (hq : t.pending = []) (hs : s.power.standby = true)
    (ht : t.power.standby = true) (h : State.decideAdmits s.admits.length s = State.decideAdmits t.admits.length t) : step s = step t := by
  unfold step
  rw [hp, hq]
  simp only [State.pilotTick, hs, ht, if_true, h]

end Sys2Proof.Machine
end

section
/-! SUPPORT. The bytes of a line written in present memory (R116, R367, R372). -/

namespace Sys2Proof.Machine

/-! ## Cells written -/

/-- Of cells at different addresses every one reads as written. -/
theorem memGet_memSets_mem {cs : List (Nat × Byte)} {k : Nat} {v : Byte} (hn : (cs.map Prod.fst).Nodup) (hc : (k, v) ∈ cs) :
    ∀ {m : List Host.Cell}, Memory.wf m = true → memGet (cs.foldl (fun m c => memSet m c.1 c.2) m) k = v := by
  induction cs with
  | nil => cases hc
  | cons c cs ih =>
    intro m hm
    rw [List.map_cons, List.nodup_cons] at hn
    rw [List.foldl_cons]
    obtain rfl | hc := List.mem_cons.mp hc
    · rw [memGet_memSets_ne cs fun d hd he => hn.1 (List.mem_map.mpr ⟨d, hd, he⟩)]
      exact memGet_memSet k v hm
    · exact ih hn.2 hc (memSet_wf _ _ hm)

theorem State.writeBytes_mem (s : State) (via : WriteVia) (a : Nat) (bs : List Byte) :
    (s.writeBytes via a bs).mem = (s.present a bs).foldl (fun m c => memSet m c.1 c.2) s.mem := rfl

/-- Bytes outside a write read as before. -/
theorem State.memGet_writeBytes_outside (s : State) (via : WriteVia) (a : Nat) (bs : List Byte) {z : Nat}
    (h : ∀ i, i < bs.length → z ≠ wrap52 (a + i)) : memGet (s.writeBytes via a bs).mem z = memGet s.mem z := by
  rw [State.writeBytes_mem]
  refine memGet_memSets_ne _ (fun c hc => ?_) _
  obtain ⟨i, hi, hci⟩ := List.mem_filterMap.mp hc
  split at hci
  · rw [← Option.some.inj hci]
    exact (h i (List.mem_range.mp hi)).symm
  · cases hci

/-- Where all of a write lies in present memory, its bytes read as written. -/
theorem State.memGet_writeBytes (s : State) (via : WriteVia) {a : Nat} {bs : List Byte} (hm : Memory.wf s.mem = true)
    (hlen : bs.length ≤ 64) (hp : ∀ i, i < bs.length → s.memHome (a + i) ≠ none) {i : Nat} (hi : i < bs.length) :
    memGet (s.writeBytes via a bs).mem (wrap52 (a + i)) = byteAt bs i := by
  have hall : s.present a bs = (List.range bs.length).map fun i => (wrap52 (a + i), byteAt bs i) := by
    rw [State.present, ← List.filterMap_eq_map]
    refine List.filterMap_congr fun j hj => ?_
    rw [if_pos (Option.isSome_iff_ne_none.mpr (hp j (List.mem_range.mp hj)))]
    rfl
  have hnodup : ((s.present a bs).map Prod.fst).Nodup := by
    rw [hall, List.map_map]
    refine List.Nodup.map_on (fun x hx y hy he => ?_) List.nodup_range
    have hx := List.mem_range.mp hx
    have hy := List.mem_range.mp hy
    simp only [Function.comp_apply, wrap52] at he
    omega
  rw [State.writeBytes_mem]
  refine memGet_memSets_mem hnodup ?_ hm
  rw [hall]
  exact List.mem_map.mpr ⟨i, List.mem_range.mpr hi, rfl⟩

/-! ## A line lies in one window -/

theorem CxlPort.bytes_aligned (c : CxlPort) : c.bytes % 64 = 0 := by
  unfold CxlPort.bytes
  split
  · omega
  · rfl

theorem State.memHome_line {s : State} {line i : Nat} (hl : line % 64 = 0) (hi : i < 64) (h : s.memHome line ≠ none) :
    s.memHome (line + i) ≠ none := by
  have hw : wrap52 (line + i) = wrap52 line + i := by
    simp only [wrap52]
    omega
  have ha : wrap52 line % 64 = 0 := by
    simp only [wrap52]
    omega
  unfold State.memHome State.place at h ⊢
  rw [hw]
  generalize wrap52 line = a at h ha
  dsimp only at h ⊢
  by_cases hg : a < 0x20_0000_0000
  · rw [if_pos (by omega)]
    exact Option.some_ne_none _
  rw [if_neg hg] at h
  rw [if_neg (by omega)]
  by_cases hx : 0x1000_0000_0000 ≤ a ∧ a < 0x2000_0000_0000
  · rw [if_pos (by simpa using hx)] at h
    have hq : (a + i - 0x1000_0000_0000) / 0x200_0000_0000 = (a - 0x1000_0000_0000) / 0x200_0000_0000 := by omega
    have hoff : (a + i - 0x1000_0000_0000) % 0x200_0000_0000 = (a - 0x1000_0000_0000) % 0x200_0000_0000 + i := by omega
    rw [if_pos (by simp; omega), hq, hoff]
    have hb := (s.cxlPort (cxlOf ((a - 0x1000_0000_0000) / 0x200_0000_0000))).bytes_aligned
    by_cases hin : (a - 0x1000_0000_0000) % 0x200_0000_0000 < (s.cxlPort (cxlOf ((a - 0x1000_0000_0000) / 0x200_0000_0000))).bytes
    · have ho : (a - 0x1000_0000_0000) % 0x200_0000_0000 % 64 = 0 := by omega
      rw [if_pos (by omega)]
      exact Option.some_ne_none _
    · rw [if_neg hin] at h
      exact absurd rfl h
  · rw [if_neg (by simpa using hx)] at h
    by_cases hc : (Decidable.decide (0xF_FF00_0000_0000 ≤ a) && Decidable.decide (a < 0xF_FF00_0800_0000)) = true
    · rw [if_pos hc] at h
      exact absurd rfl h
    · rw [if_neg hc] at h
      exact absurd rfl h

end Sys2Proof.Machine
end

section
/-! SUPPORT. The headers of a request's program submitted (R28, R369, R425, R426). -/

namespace Sys2Proof.Machine

/-- Registers of the ports' counters differ where their offsets do. -/
theorem plmbReg_ne {w v : Nat} (h : w ≠ v) (hw : w < 0x100) (hv : v < 0x100) (p r : PortId) : plmbReg p w ≠ plmbReg r v := by
  have hp := portQuoin_corner p
  have hr := portQuoin_corner r
  unfold plmbReg quoinReg controlBase
  omega

/-- What a request is by and what it was promised. -/
def Request.identity (r : Request) : Nat × Nat × Nat × PortId × Bool := (r.number, r.promised, r.id, r.port, r.delivered)

theorem Request.identity_advance (r : Request) (status tick : Nat) : (r.advance status tick).identity = r.identity := by
  unfold Request.advance
  split <;> rfl

theorem map_replaceFirst {α β : Type} (p : α → Bool) {f : α → α} {g : α → β} (h : ∀ a, g (f a) = g a) (l : List α) :
    (replaceFirst p f l).map g = l.map g := by
  induction l with
  | nil => rfl
  | cons a l ih =>
    unfold replaceFirst
    split <;> simp [h, ih]

/-! ## What submitting headers of a request changes -/

structure State.Programs (s t : State) : Prop where
  frame : t = { s with
    piers := t.piers, counters := t.counters, queues := t.queues, waitingSubs := t.waitingSubs, crossHeld := t.crossHeld
    crossPtr := t.crossPtr, requests := t.requests, held := t.held, edgeRot := t.edgeRot }
  piers : ∀ q, (t.pier q).butQueued = (s.pier q).butQueued
  counters : ∀ r w, w < 0x100 → w ≠ 0x18 → t.counters.get (plmbReg r w) = s.counters.get (plmbReg r w)
  requests : t.requests.map Request.identity = s.requests.map Request.identity

theorem State.Programs.refl (s : State) : s.Programs s := ⟨rfl, fun _ => rfl, fun _ _ _ _ => rfl, rfl⟩

theorem State.Programs.trans {s t u : State} (h : s.Programs t) (g : t.Programs u) : s.Programs u :=
  ⟨by rw [g.frame, h.frame], fun q => (g.piers q).trans (h.piers q),
    fun r w hw hne => (g.counters r w hw hne).trans (h.counters r w hw hne), g.requests.trans h.requests⟩

theorem State.Programs.badUnit (s : State) (h : Header) (n : Nat) (p : PortId) : s.Programs (s.badUnit h (.request n) (.inr p)) := by
  obtain ⟨r, heq⟩ : ∃ r, s.badUnit h (.request n) (.inr p) = ((s.bump (plmbReg p 0x18) 1).log r).requestStep n 1 := ⟨_, rfl⟩
  have hlog := (s.bump (plmbReg p 0x18) 1).log_frame r
  have hcount := fun reg => (s.bump (plmbReg p 0x18) 1).log_counters_get r (reg := reg)
  rw [heq]
  generalize (s.bump (plmbReg p 0x18) 1).log r = u at hlog hcount
  refine ⟨?_, fun q => ?_, fun r w hw hne => ?_, ?_⟩
  · rw [hlog]
    rfl
  · rw [hlog]
    rfl
  · exact (hcount _ (plmbReg_ne_skovReg r hw _ (by decide))).trans (Table.get_addSat_ne _ _ (plmbReg_ne hne hw (by decide) r p))
  · refine (map_replaceFirst _ (fun r => Request.identity_advance r 1 _) _).trans ?_
    rw [hlog]
    rfl

theorem State.Programs.sendPackets (s : State) (path : List (Nat × Nat)) (n : Nat) : s.Programs (s.sendPackets path n) := by
  rw [State.sendPackets_frame]
  exact ⟨rfl, fun _ => rfl, fun _ _ _ _ => rfl, rfl⟩

theorem State.Programs.enter (s : State) (h : Header) (o : Origin) : s.Programs (s.enter h o) := by
  obtain ⟨-, hpiers, -, hframe⟩ := s.enter_enqueued h o
  refine ⟨by rw [hframe], hpiers, fun r w _ _ => by rw [hframe], by rw [hframe]⟩

theorem State.Programs.submitHeader (s : State) (h : Header) (n : Nat) (p : PortId) :
    s.Programs (s.submitHeader h (.request n) (.inr p) none).1 := by
  cases hu : unitExists h.unit with
  | false =>
    have heq : s.submitHeader h (.request n) (.inr p) none = (s.badUnit h (.request n) (.inr p), true) := by
      simp [State.submitHeader, hu]
    rw [heq]
    exact .badUnit s h n p
  | true =>
    have hsend := State.Programs.sendPackets s (s.submitPath (.inr p) h.unit) 1
    cases hr : s.hasRoom h.key with
    | true =>
      rw [State.submitHeader_room hu hr]
      exact hsend.trans (.enter _ h _)
    | false =>
      rw [State.submitHeader_full hu hr]
      refine hsend.trans ⟨rfl, fun _ => rfl, fun _ _ _ _ => rfl, rfl⟩

theorem State.Programs.submitProgram (n count : Nat) : ∀ (s : State) (addr : Nat), s.Programs (s.submitProgram n addr count) := by
  induction count with
  | zero => exact fun s _ => .refl s
  | succ count ih => exact fun s addr => (State.Programs.submitHeader s _ n s.seqPort).trans (ih _ _)

/-! ## A program of one header -/

theorem State.submitProgram_one (s : State) (n addr : Nat) :
    s.submitProgram n addr 1 = (s.submitHeader (headerOf (s.rawBytes addr 64)) (.request n) (.inr s.seqPort) none).1 := rfl

/-- Where its queue has room the header enters it, and no other queue changes. -/
theorem State.submitProgram_enters {s : State} {n addr : Nat} {h : Header} (hh : h = headerOf (s.rawBytes addr 64))
    (hu : unitExists h.unit = true) (hr : s.hasRoom h.key = true) :
    let t := s.submitProgram n addr 1
    t.requests = s.requests ∧ t.queue h.key = s.queue h.key ++ [.fresh h (.request n)] ∧ ∀ q, q ≠ h.key → t.queue q = s.queue q := by
  dsimp only
  rw [State.submitProgram_one, ← hh, State.submitHeader_room hu hr]
  have hsend := s.sendPackets_frame (s.submitPath (.inr s.seqPort) h.unit) 1
  generalize s.sendPackets (s.submitPath (.inr s.seqPort) h.unit) 1 = u at hsend
  have hqueue : ∀ q, u.queue q = s.queue q := fun q => by
    rw [hsend]
    rfl
  obtain ⟨⟨hfirst, hrest, -⟩, -, -, hframe⟩ := u.enter_enqueued h (.request n)
  exact ⟨by rw [hframe, hsend], by rw [hfirst, hqueue], fun q hq => by rw [hrest q hq, hqueue]⟩

end Sys2Proof.Machine
end

section
/-! SUPPORT. A request accepted (R424, R425, R459): its class's piers are committed, its line is in the ring, its host is answered and
its program submitted. -/

namespace Sys2Proof.Machine

/-! ## The answer -/

/-- Sending counts at a port at most what is discarded for want of a link (R465). -/
theorem State.send_counters (s : State) (p : PortId) (m : OutMsg) {r : PortId} {w : Nat} (hw : w < 0x100) (hne : w ≠ 0x10) :
    (s.send p m).counters.get (plmbReg r w) = s.counters.get (plmbReg r w) := by
  unfold State.send
  dsimp only
  split
  · split
    · rfl
    · exact Table.get_addSat_ne _ _ (plmbReg_ne hne hw (by decide) r p)
  · split <;> rfl

/-- A decision counted at the admission unit and its answer sent. -/
def State.countedSend (s : State) (w : Nat) (p : PortId) (m : OutMsg) : State := (s.bump (plmbReg s.seqPort w) 1).send p m

theorem State.countedSend_spec (s : State) {w : Nat} (hw : w < 0x100) (hne : w ≠ 0x10) (p : PortId) (m : OutMsg) :
    s.Sends (s.countedSend w p m) p m ∧ s.Counts (s.countedSend w p m) (plmbReg s.seqPort w) ∧
      (∀ r, (s.port r).Transmits ((s.countedSend w p m).port r)) ∧
      s.countedSend w p m = { s with ports := (s.countedSend w p m).ports, counters := (s.countedSend w p m).counters } := by
  obtain ⟨hsend, hframe, htr, -, -⟩ := State.send_spec (s.bump (plmbReg s.seqPort w) 1) p m
  exact ⟨hsend, (State.send_counters _ p m hw hne).trans (Table.get_addSat _ _ _), htr, hframe⟩

/-- A request refused is counted by its code, and answered. -/
theorem State.admitRequest_refused {s : State} {p : PortId} {tag : Nat} {payload : List Byte} :
    let w := leAt payload 0 8
    let j := s.judgeRequest p (fld w 5 0) (fld w 31 6 != 0) s.tick
    j.1 ≠ 0 → s.admitRequest p tag payload =
      s.countedSend (0x20 + 8 * j.1) p ⟨0x14, tag, 0, deliveryBytes 5 (fld w 5 0) 0 j.1 (fld w 63 32) 0 s.tick s.tick⟩ := by
  intro w j hj
  have hreg : 0x28 + 8 * (j.1 - 1) = 0x20 + 8 * j.1 := by omega
  have heq : s.admitRequest p tag payload = s.countedSend (0x28 + 8 * (j.1 - 1)) p
      ⟨0x14, tag, 0, deliveryBytes 5 (fld w 5 0) 0 j.1 (fld w 63 32) 0 s.tick s.tick⟩ := by
    unfold State.admitRequest
    dsimp only
    rw [if_pos (by simpa using hj)]
    rfl
  rw [heq, hreg]

/-! ## The commitment (R424) -/

theorem commitFold_get (m : Nat) {ps : List PierId} (hn : ps.Nodup) : ∀ (t : Table) (q : PierId),
    (ps.foldl (fun (t : Table) q => t.set q.val (max (t.get q.val) m)) t).get q.val =
      if q ∈ ps then max (t.get q.val) m else t.get q.val := by
  induction ps with
  | nil => exact fun t q => rfl
  | cons r ps ih =>
    intro t q
    obtain ⟨hr, hn⟩ := List.nodup_cons.mp hn
    rw [List.foldl_cons, ih hn]
    by_cases hq : q = r
    · subst hq
      rw [if_neg hr, if_pos List.mem_cons_self, Table.get_set]
    · rw [Table.get_set_ne _ _ fun h => hq (Fin.ext h)]
      simp [hq]

/-- A request of a class (R425, R426). -/
def State.newRequest (s : State) (p : PortId) (c id tag promised : Nat) : Request :=
  ⟨s.requestCount, p, c, id, tag, s.tick, promised, s.classCount c, 0, false, none, false, false, 0, 0xFFFF, false⟩

/-- A state with it among its requests. -/
def State.withRequest (s : State) (p : PortId) (c id tag promised : Nat) : State :=
  { s with
    commit := (s.classPiers c).foldl (fun (t : Table) q => t.set q.val
      (max (t.get q.val) (subMod (2 ^ 64) promised (s.classMargin c)))) s.commit
    accepts := s.accepts.set c (s.accepts.get c + 1)
    requests := s.requests ++ [s.newRequest p c id tag promised], requestCount := s.requestCount + 1 }

theorem State.commit_withRequest (s : State) (p : PortId) (c id tag promised : Nat) (q : PierId) :
    (s.withRequest p c id tag promised).commit.get q.val = if s.classHas c q
      then max (s.commit.get q.val) (subMod (2 ^ 64) promised (s.classMargin c)) else s.commit.get q.val := by
  refine (commitFold_get _ (allPiers_nodup.filter _) s.commit q).trans ?_
  simp only [List.mem_filter, mem_allPiers, true_and]

/-! ## The line of the ring (R425) -/

/-- Where the line of the class's next request stands. -/
def State.ringSlot (s : State) (c : Nat) : Nat := s.classRing c + 64 * (s.accepts.get c % s.classInflight c)

theorem State.ringSlot_aligned (s : State) (c : Nat) : s.ringSlot c % 64 = 0 := by
  unfold State.ringSlot State.classRing
  omega

/-- A line written through its home pier, where there is memory. -/
def State.ringWrite (s : State) (line : Nat) (bs : List Byte) : State :=
  match s.memHome line with
  | some h => (s.wakePier h).writeBytes .mortar line bs
  | none => s

/-- A wake and a write: memory and caches change, and what a wake changes. -/
structure State.WakesWrites (s t : State) : Prop where
  frame : t = { s with
    mem := t.mem, poison := t.poison, piers := t.piers, held := t.held, counters := t.counters, crossHeld := t.crossHeld
    crossPtr := t.crossPtr, edgeRot := t.edgeRot }
  piers : ∀ q, (t.pier q).butCaches.butWake = (s.pier q).butCaches.butWake
  counters : ∀ r w, w < 0x100 → t.counters.get (plmbReg r w) = s.counters.get (plmbReg r w)

theorem State.WakesWrites.refl (s : State) : s.WakesWrites s := ⟨rfl, fun _ => rfl, fun _ _ _ => rfl⟩

theorem State.WakesWrites.trans {s t u : State} (h : s.WakesWrites t) (g : t.WakesWrites u) : s.WakesWrites u :=
  ⟨by rw [g.frame, h.frame], fun q => (g.piers q).trans (h.piers q), fun r w hw => (g.counters r w hw).trans (h.counters r w hw)⟩

theorem State.WakesWrites.wakePier (s : State) (p : PierId) : s.WakesWrites (s.wakePier p) := by
  cases hd : s.deadPier p with
  | true =>
    rw [State.wakePier_dead hd]
    exact .refl s
  | false =>
    obtain ⟨-, hbut, hother, -, -, hframe⟩ := State.wakePier_woken hd
    refine ⟨by rw [hframe], fun q => ?_, (State.Still.wakePier s p).counters⟩
    by_cases hq : q = p
    · rw [hq]
      exact (congrArg Pier.butCaches hbut :)
    · rw [hother q hq]

theorem State.Writes.wakesWrites {s t : State} (h : s.Writes t) : s.WakesWrites t :=
  ⟨by rw [h.frame], fun q => congrArg Pier.butWake (h.piers q), h.still.counters⟩

theorem State.WakesWrites.ringWrite (s : State) (line : Nat) (bs : List Byte) : s.WakesWrites (s.ringWrite line bs) := by
  unfold State.ringWrite
  split
  · exact (State.WakesWrites.wakePier s _).trans (State.Writes.writeBytes _ _ _ _).wakesWrites
  · exact .refl s

/-- A wake leaves memory and where it is. -/
theorem State.SameReads.wakePier (s : State) (p : PierId) : s.SameReads (s.wakePier p) := by
  cases hd : s.deadPier p with
  | true =>
    rw [State.wakePier_dead hd]
    exact ⟨rfl, rfl⟩
  | false =>
    have hframe := (State.wakePier_woken hd).2.2.2.2.2
    exact ⟨by rw [hframe], by rw [hframe]⟩

theorem State.memGet_ringWrite {s : State} {line : Nat} {bs : List Byte} (hm : Memory.wf s.mem = true) (hl : line % 64 = 0)
    (hlen : bs.length = 64) (h : s.memHome line ≠ none) {i : Nat} (hi : i < 64) :
    memGet (s.ringWrite line bs).mem (wrap52 (line + i)) = byteAt bs i := by
  obtain ⟨p, hp⟩ := Option.ne_none_iff_exists'.mp h
  have hwake := State.SameReads.wakePier s p
  rw [State.ringWrite, hp]
  refine State.memGet_writeBytes _ _ (by rw [hwake.mem]; exact hm) (by omega) (fun j hj => ?_) (by omega)
  rw [hwake.memHome]
  exact State.memHome_line hl (by omega) h

theorem State.memGet_ringWrite_outside (s : State) {line : Nat} {bs : List Byte} (hlen : bs.length = 64) {a : Nat}
    (h : ∀ i, i < 64 → a ≠ wrap52 (line + i)) : memGet (s.ringWrite line bs).mem a = memGet s.mem a := by
  unfold State.ringWrite
  split
  · rw [State.memGet_writeBytes_outside _ _ _ _ (by rwa [hlen]), (State.SameReads.wakePier s _).mem]
  · rfl

/-- Whether a queue has room looks past wakes and caches. -/
theorem State.WakesWrites.hasRoom {s t : State} (h : s.WakesWrites t) (q : QKey) : t.hasRoom q = s.hasRoom q := by
  have hframe := h.frame
  have hqueue : t.queue q = s.queue q := by rw [hframe]; rfl
  have hat : t.queuePier q = s.queuePier q := by rw [hframe]; rfl
  have hwait : t.waitingSubs = s.waitingSubs := by rw [hframe]
  have hsound : t.sounding = s.sounding := by rw [hframe]
  have hline : ∀ p c st, (t.pier p).line c st = (s.pier p).line c st := fun p c st =>
    (congrArg (fun pr : Pier => pr.line c st) (h.piers p) :)
  have hcore : ∀ p c, (t.pier p).idleCore ((t.pier p).physCourse c) = (s.pier p).idleCore ((s.pier p).physCourse c) := fun p c =>
    (congrArg (fun pr : Pier => pr.idleCore (pr.physCourse c)) (h.piers p) :)
  have hcourse : ∀ p, (t.pier p).idleCourse = (s.pier p).idleCourse := fun p => (congrArg Pier.idleCourse (h.piers p) :)
  simp only [State.hasRoom, State.queueRoom, State.seqRoom, State.exchangeDue, hqueue, hat, hwait, hsound, hline, hcore, hcourse]

end Sys2Proof.Machine
end

section
/-! SUPPORT. What the acceptance of a request leaves, its program submitted (R418, R424, R425, R459). -/

namespace Sys2Proof.Machine

/-- The state in which an accepted request's program is submitted: it is committed, its line is written and its host is answered. -/
def State.beforeProgram (s : State) (p : PortId) (c id tag arg promised : Nat) : State :=
  ((s.withRequest p c id tag promised).ringWrite (s.ringSlot c) (requestLine id c arg s.tick promised (s.accepts.get c))).countedSend 0x20 p
    ⟨0x14, tag, 0, deliveryBytes 5 c 0 0 id promised s.tick s.tick⟩

theorem State.admitRequest_accepted {s : State} {p : PortId} {tag : Nat} {payload : List Byte} :
    let w := leAt payload 0 8
    let c := fld w 5 0
    let j := s.judgeRequest p c (fld w 31 6 != 0) s.tick
    j.1 = 0 → s.admitRequest p tag payload =
      (s.beforeProgram p c (fld w 63 32) tag (leAt payload 8 8) j.2).submitProgram s.requestCount (s.classProgram c) (s.classCount c) := by
  intro w c j hj
  obtain ⟨u, hu⟩ : ∃ u, u = (s.withRequest p c (fld w 63 32) tag j.2).ringWrite (s.ringSlot c)
    (requestLine (fld w 63 32) c (leAt payload 8 8) s.tick j.2 (s.accepts.get c)) := ⟨_, rfl⟩
  obtain ⟨v, hv⟩ : ∃ v, v = (u.bump (plmbReg s.seqPort 0x20) 1).send p
    ⟨0x14, tag, 0, deliveryBytes 5 c 0 0 (fld w 63 32) j.2 u.tick s.tick⟩ := ⟨_, rfl⟩
  have heq : s.admitRequest p tag payload = v.submitProgram s.requestCount (v.classProgram c) (s.classCount c) := by
    rw [hv, hu]
    unfold State.admitRequest
    dsimp only
    rw [if_neg (by simpa using hj)]
    rfl
  have huframe := (State.WakesWrites.ringWrite (s.withRequest p c (fld w 63 32) tag j.2) (s.ringSlot c)
    (requestLine (fld w 63 32) c (leAt payload 8 8) s.tick j.2 (s.accepts.get c))).frame
  rw [← hu] at huframe
  have htick : u.tick = s.tick := by
    rw [huframe]
    rfl
  have hseq : u.seqPort = s.seqPort := by
    rw [huframe]
    rfl
  have hbefore : v = s.beforeProgram p c (fld w 63 32) tag (leAt payload 8 8) j.2 := by
    rw [State.beforeProgram, ← hu, State.countedSend, hv, htick, hseq]
  have hvframe := (u.bump (plmbReg s.seqPort 0x20) 1).send_spec p ⟨0x14, tag, 0, deliveryBytes 5 c 0 0 (fld w 63 32) j.2 u.tick s.tick⟩ |>.2.1
  rw [← hv] at hvframe
  have hprogram : v.classProgram c = s.classProgram c := by
    rw [hvframe, huframe]
    rfl
  rw [heq, hprogram, hbefore]

/-! ## What it changes -/

/-- What accepting a request of a class leaves. -/
structure State.Accepts (s t : State) (p : PortId) (c id tag arg promised : Nat) : Prop where
  sends : s.Sends t p ⟨0x14, tag, 0, deliveryBytes 5 c 0 0 id promised s.tick s.tick⟩
  transmits : ∀ r, (s.port r).Transmits (t.port r)
  counts : s.Counts t (plmbReg s.seqPort 0x20)
  accepted : t.accepts.get c = s.accepts.get c + 1
  numbered : t.requestCount = s.requestCount + 1
  committed : ∀ q : PierId, t.commit.get q.val = if s.classHas c q
    then max (s.commit.get q.val) (subMod (2 ^ 64) promised (s.classMargin c)) else s.commit.get q.val
  requests : t.requests.map Request.identity = (s.requests ++ [s.newRequest p c id tag promised]).map Request.identity
  line : Memory.wf s.mem = true → s.memHome (s.ringSlot c) ≠ none → ∀ i, i < 64 →
    memGet t.mem (wrap52 (s.ringSlot c + i)) = byteAt (requestLine id c arg s.tick promised (s.accepts.get c)) i
  outside : ∀ a, (∀ i, i < 64 → a ≠ wrap52 (s.ringSlot c + i)) → memGet t.mem a = memGet s.mem a
  program : s.classCount c = 1 →
    let h := headerOf (t.rawBytes (s.classProgram c) 64)
    unitExists h.unit = true → s.hasRoom h.key = true →
      t.requests = s.requests ++ [s.newRequest p c id tag promised] ∧
      t.queue h.key = s.queue h.key ++ [.fresh h (.request s.requestCount)] ∧ ∀ q, q ≠ h.key → t.queue q = s.queue q
  piers : ∀ q, (t.pier q).butCaches.butWake.butQueued = (s.pier q).butCaches.butWake.butQueued
  frame : t = { s with
    mem := t.mem, poison := t.poison, piers := t.piers, ports := t.ports, counters := t.counters, queues := t.queues
    waitingSubs := t.waitingSubs, crossHeld := t.crossHeld, crossPtr := t.crossPtr, commit := t.commit
    accepts := t.accepts, requests := t.requests, requestCount := t.requestCount, held := t.held, edgeRot := t.edgeRot }

@[simp] theorem length_requestLine (id c arg ta promised k : Nat) : (requestLine id c arg ta promised k).length = 64 := length_padTo 64 _

theorem State.accepts_program (s : State) (p : PortId) (c id tag arg promised : Nat) :
    s.Accepts ((s.beforeProgram p c id tag arg promised).submitProgram s.requestCount (s.classProgram c) (s.classCount c))
      p c id tag arg promised := by
  obtain ⟨r, hr⟩ : ∃ r, r = s.withRequest p c id tag promised := ⟨_, rfl⟩
  obtain ⟨u, hu⟩ : ∃ u, u = r.ringWrite (s.ringSlot c) (requestLine id c arg s.tick promised (s.accepts.get c)) := ⟨_, rfl⟩
  obtain ⟨v, hv⟩ : ∃ v, v = u.countedSend 0x20 p ⟨0x14, tag, 0, deliveryBytes 5 c 0 0 id promised s.tick s.tick⟩ := ⟨_, rfl⟩
  obtain ⟨t, ht⟩ : ∃ t, t = v.submitProgram s.requestCount (s.classProgram c) (s.classCount c) := ⟨_, rfl⟩
  have hwrite : r.WakesWrites u := hu ▸ .ringWrite r _ _
  obtain ⟨hsend, hcount, htr, hvframe⟩ :=
    u.countedSend_spec (w := 0x20) (by decide) (by decide) p ⟨0x14, tag, 0, deliveryBytes 5 c 0 0 id promised s.tick s.tick⟩
  rw [← hv] at hsend hcount htr hvframe
  have hprogram : v.Programs t := ht ▸ .submitProgram _ _ v _
  have huframe := hwrite.frame
  have htframe := hprogram.frame
  have hgoal : (s.beforeProgram p c id tag arg promised).submitProgram s.requestCount (s.classProgram c) (s.classCount c) = t := by
    rw [ht, hv, hu, hr]
    rfl
  rw [hgoal]
  have huport : ∀ q, u.port q = s.port q := fun q => by
    rw [huframe, hr]
    rfl
  have htport : ∀ q, t.port q = v.port q := fun q => by
    rw [htframe]
    rfl
  have hseq : u.seqPort = s.seqPort := by
    rw [huframe, hr]
    rfl
  obtain ⟨haccepts, hnumber, hcommit⟩ : t.accepts = r.accepts ∧ t.requestCount = r.requestCount ∧ t.commit = r.commit := by
    rw [htframe, hvframe, huframe]
    exact ⟨rfl, rfl, rfl⟩
  have htmem : t.mem = u.mem := by rw [htframe, hvframe]
  have hrmem : r.mem = s.mem := by rw [hr]; rfl
  have hreads : s.SameReads { r with mem := s.mem } := ⟨rfl, by rw [hr]; rfl⟩
  have hhome : r.memHome = s.memHome := hreads.memHome
  refine ⟨?_, fun q => ?_, ?_, ?_, ?_, fun q => ?_, ?_, fun hm hline i hi => ?_, fun a ha => ?_, fun hone => ?_, fun q => ?_, ?_⟩
  · simpa only [State.Sends, huport, htport] using hsend
  · rw [htport, ← huport]
    exact htr q
  · rw [State.Counts, hprogram.counters _ 0x20 (by decide) (by decide), ← hseq, hcount, hwrite.counters _ 0x20 (by decide), hr]
    rfl
  · rw [haccepts, hr]
    exact Table.get_set s.accepts c (s.accepts.get c + 1)
  · rw [hnumber, hr]
    rfl
  · rw [hcommit, hr]
    exact State.commit_withRequest s p c id tag promised q
  · rw [hprogram.requests, hvframe, huframe, hr]
    rfl
  · rw [htmem, hu]
    exact State.memGet_ringWrite (hrmem.symm ▸ hm) (s.ringSlot_aligned c) (by simp) (hhome.symm ▸ hline) hi
  · rw [htmem, hu, State.memGet_ringWrite_outside r (by simp) ha, hrmem]
  · intro h hunit hroom
    have hbytes : t.rawBytes = v.rawBytes := State.SameReads.rawBytes ⟨by rw [htframe], by rw [htframe]⟩
    have hh : h = headerOf (v.rawBytes (s.classProgram c) 64) := by rw [← hbytes]
    clear_value h
    have hvroom : v.hasRoom h.key = true := by
      have hvu : v.hasRoom h.key = u.hasRoom h.key := by
        rw [hvframe]
        rfl
      have hrs : r.hasRoom h.key = s.hasRoom h.key := by
        rw [hr]
        rfl
      rw [hvu, hwrite.hasRoom, hrs, hroom]
    have hqueue : ∀ q, v.queue q = s.queue q := fun q => by
      rw [hvframe, huframe, hr]
      rfl
    obtain ⟨hreq, hfirst, hrest⟩ := State.submitProgram_enters (n := s.requestCount) hh hunit hvroom
    rw [← hone, ← ht] at hreq hfirst hrest
    refine ⟨?_, by rw [hfirst, hqueue], fun q hq => by rw [hrest q hq, hqueue]⟩
    rw [hreq, hvframe, huframe, hr]
    rfl
  · have hv' : v.pier q = u.pier q := by
      rw [hvframe]
      rfl
    have hr' : r.pier q = s.pier q := by
      rw [hr]
      rfl
    have h1 := congrArg (fun pr : Pier => pr.butCaches.butWake) (hprogram.piers q)
    have h2 := congrArg Pier.butQueued (hwrite.piers q)
    rw [hv'] at h1
    rw [hr'] at h2
    exact Eq.trans h1 h2
  · rw [htframe, hvframe, huframe, hr]
    rfl

end Sys2Proof.Machine
end

section
/-! SUPPORT. ADMIT settled (R75, R409, R418, R421 to R425, R459, R463, R468). -/

namespace Sys2Proof.Machine

/-- The message of ADMIT: turned away with its status, or among the requests of its tick. -/
theorem State.admit_message {s : State} {p : PortId} (hh : s.hears p 5) (tag : U32) (payload : List Byte) :
    let w := leAt payload 0 8
    (∀ st, (s.port p).bound = false ∧ st = 4 ∨ (s.port p).bound = true ∧ s.func.state ≤ 2 ∧ st = 5 →
      ∃ t, exec (.admitMsg p tag payload) s = .next t ∧
        s.Sends t p ⟨0x14, tag.toNat, 0, deliveryBytes 5 (fld w 5 0) st 0 (fld w 63 32) 0 s.tick s.tick⟩ ∧
        (∀ r, (s.port r).Transmits (t.port r)) ∧ t = { s with ports := t.ports }) ∧
    ((s.port p).bound = true → 3 ≤ s.func.state → ∃ t, exec (.admitMsg p tag payload) s = .next t ∧
      t.admits = s.admits ++ [⟨p, tag.toNat, padTo 16 payload⟩] ∧ (∀ r, (s.port r).Transmits (t.port r)) ∧
        t = { s with ports := t.ports, admits := t.admits }) := by
  refine ⟨fun st hst => ⟨_, rfl, State.admit_refused hh ?_ tag payload⟩, fun hb hf => ⟨_, rfl, State.admit_taken hh ?_ tag payload⟩⟩
  · rw [State.refusal_admit]
    obtain ⟨hb, rfl⟩ | ⟨hb, hf, rfl⟩ := hst
    · rw [if_pos hb]
    · rw [if_neg (by simp [hb]), if_pos hf]
  · rw [State.refusal_admit, if_neg (by simp [hb]), if_neg (by omega)]

/-! ## The decision -/

section Decision

variable {s : State} {p : PortId} {tag : Nat} {payload : List Byte} {j : Nat × Nat}
  (hj : s.judgeRequest p (fld (leAt payload 0 8) 5 0) (fld (leAt payload 0 8) 31 6 != 0) s.tick = j)
include hj

/-- A refusal is counted and sent, and nothing else changes. -/
theorem State.admitRequest_refuses (h : j.1 ≠ 0) :
    let w := leAt payload 0 8
    let t := s.admitRequest p tag payload
    s.Sends t p ⟨0x14, tag, 0, deliveryBytes 5 (fld w 5 0) 0 j.1 (fld w 63 32) 0 s.tick s.tick⟩ ∧
      s.Counts t (plmbReg s.seqPort (0x20 + 8 * j.1)) ∧ (∀ r, (s.port r).Transmits (t.port r)) ∧
      t = { s with ports := t.ports, counters := t.counters } := by
  subst hj
  dsimp only
  have hcode : (s.judgeRequest p (fld (leAt payload 0 8) 5 0) (fld (leAt payload 0 8) 31 6 != 0) s.tick).1 ≤ 8 := State.judge_le
  rw [State.admitRequest_refused h]
  exact s.countedSend_spec (by omega) (by omega) p _

theorem State.admitRequest_accepts (h : j.1 = 0) :
    s.Accepts (s.admitRequest p tag payload) p (fld (leAt payload 0 8) 5 0) (fld (leAt payload 0 8) 63 32) tag (leAt payload 8 8) j.2 := by
  subst hj
  rw [State.admitRequest_accepted h]
  exact State.accepts_program s p _ _ _ _ _

end Decision

/-- Of requests that are by and promised what another list's are, one is by and promised what a request of that is. -/
theorem Request.exists_of_identity {l m : List Request} (h : l.map Request.identity = m.map Request.identity) {r : Request} (hr : r ∈ m) :
    ∃ y ∈ l, y.number = r.number ∧ y.promised = r.promised ∧ y.id = r.id ∧ y.port = r.port ∧ y.delivered = r.delivered := by
  obtain ⟨y, hy, hid⟩ := List.mem_map.mp (h ▸ List.mem_map.mpr ⟨r, hr, rfl⟩ : r.identity ∈ l.map Request.identity)
  obtain ⟨hnumber, hrest⟩ := Prod.ext_iff.mp hid
  obtain ⟨hpromised, hrest⟩ := Prod.ext_iff.mp hrest
  obtain ⟨hyid, hrest⟩ := Prod.ext_iff.mp hrest
  obtain ⟨hport, hdelivered⟩ := Prod.ext_iff.mp hrest
  exact ⟨y, hy, hnumber, hpromised, hyid, hport, hdelivered⟩

/-! ## The statement -/

/-- Settles O49: a request is refused with the first code that applies, or accepted. -/
theorem admissions : Obligations.admissions := by
  unfold Obligations.admissions
  intro answer
  have hanswer : ∀ tag w st code promised tick,
      answer tag w st code promised tick = ⟨0x14, tag, 0, deliveryBytes 5 (fld w 5 0) st code (fld w 63 32) promised tick tick⟩ :=
    fun tag w st code promised tick => by rw [deliveryBytes_eq]
  clear_value answer
  refine ⟨fun p tag payload s hh => ?_, fun s x before after hpending hstandby hsound hadmits hbefore hrot => ?_⟩
  · simp only [hanswer]
    exact State.admit_message hh tag payload
  intro p w c id j
  obtain ⟨v, hv⟩ : ∃ v, v = ({ s with admits := before ++ after, admitRot := (p.val + 1) % 2 } : State) := ⟨_, rfl⟩
  have hj : v.judgeRequest p c (fld w 31 6 != 0) v.tick = j := by
    rw [hv]
    rfl
  have hstep : ∀ t, v.admitRequest p x.tag x.payload = t → t.pending = s.pending → t.power = s.power → t.admits = before ++ after →
      step s = step t := by
    intro t ht hp hpow hadm
    refine State.step_decided hpending (hp.trans hpending) hstandby (by rw [hpow]; exact hstandby) ?_
    have hlen : s.admits.length = t.admits.length + 1 := by
      rw [hadmits, hadm]
      simp
      omega
    rw [hlen, State.decideAdmits_pick hadmits hbefore hrot, ← ht, hv]
  refine ⟨State.judge_stopped, State.judge_undefined, fun hf => ⟨State.judge_undefined_running hf, fun hd => ?_⟩, ?_⟩
  · dsimp only
    rw [← State.classPending_eq]
    refine ⟨State.judge_full hf hd, State.judge_rate hf hd, fun h0 => ?_⟩
    obtain ⟨hfull, hrate, hres, hlate, hout, hpiers⟩ := State.judge_accepted hf hd h0
    exact ⟨hfull, hrate, by simpa using hres, hlate, hout, hpiers⟩
  by_cases h0 : j.1 = 0
  · have hspec := State.admitRequest_accepts (tag := x.tag) hj h0
    generalize v.admitRequest p x.tag x.payload = t at hstep hspec
    obtain ⟨hsends, htr, hcounts, haccepted, hnumbered, hcommitted, hrequests, hline, houtside, hprogram, hpiers, hframe⟩ := hspec
    have hadm : t.admits = before ++ after := by rw [hframe, hv]
    have hrotated : t.admitRot = (p.val + 1) % 2 := by rw [hframe, hv]
    have hlen : t.requests.length = s.requests.length + 1 := by simpa [hv] using congrArg List.length hrequests
    have hfound := Request.exists_of_identity hrequests (List.mem_append_right _ (List.mem_singleton.mpr rfl))
    refine ⟨t, hstep t rfl (by rw [hframe, hv]) (by rw [hframe, hv]) hadm, hadm, hrotated, by rw [hv] at htr; exact htr,
      fun h => absurd h0 h, fun _ => ?_⟩
    subst hv
    refine ⟨by rw [hanswer]; exact hsends, hcounts, haccepted, hnumbered, hcommitted, hlen, hfound, fun hl i hi => ?_, houtside,
      hprogram, hpiers, ?_⟩
    · rw [← requestLine_eq]
      exact hline hsound.1 hl i hi
    · rw [hframe]
  · obtain ⟨hsends, hcounts, htr, hframe⟩ := State.admitRequest_refuses (tag := x.tag) hj h0
    generalize v.admitRequest p x.tag x.payload = t at hstep hsends hcounts htr hframe
    have hadm : t.admits = before ++ after := by rw [hframe, hv]
    have hrotated : t.admitRot = (p.val + 1) % 2 := by rw [hframe, hv]
    refine ⟨t, hstep t rfl (by rw [hframe, hv]) (by rw [hframe, hv]) hadm, hadm, hrotated, by rw [hv] at htr; exact htr,
      fun _ => ?_, fun h => absurd h h0⟩
    subst hv
    exact ⟨by rw [hanswer]; exact hsends, hcounts, by rw [hframe]⟩

end Sys2Proof.Machine
end
